-- ==== Sys2Proof/Word.lean ====
section
/-! DEFINITION. The words of the model: bytes, 32-bit registers, 64-bit quantities, bit fields and fixed tables
(R3: every register is 32 bits, bit 0 least significant). -/

namespace Sys2Proof

abbrev Byte := BitVec 8
abbrev Word := BitVec 32
abbrev DWord := BitVec 64

namespace Word

/-- Bits `hi..lo` of a register, as a number. -/
def field (w : Word) (hi lo : Nat) : Nat := (w.toNat / 2 ^ lo) % 2 ^ (hi + 1 - lo)

/-- Bit `i` of a register. -/
def bit (w : Word) (i : Nat) : Bool := w.getLsbD i

/-- `v` placed at bit `lo` of an otherwise zero register. -/
def at' (v lo : Nat) : Word := BitVec.ofNat 32 (v * 2 ^ lo)

/-- A Bool placed at bit `lo`. -/
def flag (b : Bool) (lo : Nat) : Word := if b then at' 1 lo else 0#32

/-- The register with bits `hi..lo` replaced by `v` (cut to the field's width). -/
def setField (w : Word) (hi lo v : Nat) : Word :=
  BitVec.ofNat 32 (w.toNat - w.field hi lo * 2 ^ lo + (v % 2 ^ (hi + 1 - lo)) * 2 ^ lo)

/-- A counter field `hi..lo` raised by `n`, saturating at its largest value. -/
def bump (w : Word) (hi lo n : Nat) : Word :=
  w.setField hi lo (min (w.field hi lo + n) (2 ^ (hi + 1 - lo) - 1))

/-- The mask that covers bits `hi..lo`. -/
def mask (hi lo : Nat) : Word := at' (2 ^ (hi + 1 - lo) - 1) lo

end Word

/-- The low word of a 64-bit quantity (R5). -/
def lowWord (n : Nat) : Word := BitVec.ofNat 32 n
/-- The high word of a 64-bit quantity (R5). -/
def highWord (n : Nat) : Word := BitVec.ofNat 32 (n / 2 ^ 32)
/-- A 64-bit quantity from its two words (R5). -/
def joinWords (lo hi : Word) : Nat := lo.toNat + hi.toNat * 2 ^ 32

/-- Little-endian bytes of a number (R3). -/
def leBytes : Nat → Nat → List Byte
  | 0, _ => []
  | k + 1, n => BitVec.ofNat 8 n :: leBytes k (n / 256)

/-- The number that little-endian bytes spell. -/
def leNat : List Byte → Nat
  | [] => 0
  | b :: bs => b.toNat + 256 * leNat bs

/-- Bits `hi..lo` of a number. -/
def bitsOf (n hi lo : Nat) : Nat := (n / 2 ^ lo) % 2 ^ (hi + 1 - lo)

/-- Ceiling division. -/
def ceilDiv (a b : Nat) : Nat := (a + b - 1) / b

/-- A counter that stops at `top`. -/
def satAdd (top n k : Nat) : Nat := min top (n + k)

/-- The entry `i` of a fixed table replaced by `f` of it. -/
def upd {α : Type} {n : Nat} (v : Vector α n) (i : Fin n) (f : α → α) : Vector α n := v.set i (f v[i])

/-- Every entry of a list at an index replaced, nothing where there is none. -/
def modAt {α : Type} (l : List α) (i : Nat) (f : α → α) : List α :=
  match l, i with
  | [], _ => []
  | x :: xs, 0 => f x :: xs
  | x :: xs, i + 1 => x :: modAt xs i f

/-- The first entry that satisfies `p` replaced by `f` of it. -/
def modFirst {α : Type} (p : α → Bool) (f : α → α) : List α → List α
  | [] => []
  | x :: xs => if p x then f x :: xs else x :: modFirst p f xs

/-- A sorted list of numbers with `n` put in, once. -/
def insertNat (n : Nat) : List Nat → List Nat
  | [] => [n]
  | x :: xs => if n < x then n :: x :: xs else if n = x then x :: xs else x :: insertNat n xs

/-- A list of numbers with `n` taken out. -/
def eraseNat (n : Nat) (l : List Nat) : List Nat := l.filter (fun x => !(x == n))

/-- The numbers `lo, lo+1, …` of length `k`. -/
def rangeFrom (lo k : Nat) : List Nat := (List.range k).map (· + lo)

/-- A set of numbers as disjoint ranges `[lo, hi)`, rising and never touching. -/
abbrev Ranges := List (Nat × Nat)

def Ranges.has (r : Ranges) (n : Nat) : Bool := r.any (fun p => decide (p.1 ≤ n) && decide (n < p.2))

/-- `[lo, hi)` taken out. -/
def Ranges.cut (r : Ranges) (lo hi : Nat) : Ranges :=
  r.flatMap (fun p =>
    (if p.1 < min p.2 lo then [(p.1, min p.2 lo)] else []) ++ (if max p.1 hi < p.2 then [(max p.1 hi, p.2)] else []))

/-- A range put among ranges that it does not overlap, joined to those it touches. -/
def Ranges.insert : Ranges → Nat → Nat → Ranges
  | [], lo, hi => [(lo, hi)]
  | (a, b) :: r, lo, hi =>
    if hi < a then (lo, hi) :: (a, b) :: r
    else if hi = a then (lo, b) :: r
    else if b = lo then Ranges.insert r a hi
    else (a, b) :: Ranges.insert r lo hi

/-- `[lo, hi)` put in. -/
def Ranges.put (r : Ranges) (lo hi : Nat) : Ranges := if lo < hi then (r.cut lo hi).insert lo hi else r

/-- One number put in or taken out. -/
def Ranges.set (r : Ranges) (n : Nat) (b : Bool) : Ranges := if b then r.put n (n + 1) else r.cut n (n + 1)

end Sys2Proof
end

