-- ==== Sys2Proof/Syntax.lean ====
section
/-! DEFINITION. The commands of the block: the operand types and `Instr`, one constructor per row of
spec/opcode_table.json. An index whose range a rule fixes is a `Fin`; every other bound is a check of WellFormed. -/

namespace Sys2Proof

/-- A job context (R251), a queue's engine (Table 8-1), and the dies of Table 1-1. -/
abbrev JobIx := Fin 64
abbrev EngIx := Fin 5
abbrev CIx := Fin 4
abbrev SIx := Fin 12
abbrev LIx := Fin 3
abbrev PortIx := Fin 2
abbrev HIx := Fin 2
abbrev TileIx := Fin 136
abbrev EventNo := Fin 1024

/-- The seven requesters of Table 18-1 (R5, R516). -/
inductive Requester where
  | hostA | hostB | coreA | coreB | mgmt | console | jtag
deriving DecidableEq, Repr, Inhabited

/-- The requester's code (Table 18-1). -/
def Requester.code : Requester → Fin 7
  | .hostA => 0 | .hostB => 1 | .coreA => 2 | .coreB => 3 | .mgmt => 4 | .console => 5 | .jtag => 6

/-- The requester of a host port (R470). -/
def Requester.ofPort (h : HIx) : Requester := if h = 0 then .hostA else .hostB

/-- The roles of Table 18-2. -/
inductive Role where
  | none | operator | installer | maker
deriving DecidableEq, Repr, Inhabited

def Role.code : Role → Nat
  | .none => 0 | .operator => 1 | .installer => 2 | .maker => 3

def Role.ofCode (n : Nat) : Role :=
  match n with
  | 1 => .operator | 2 => .installer | 3 => .maker | _ => .none

/-- Module coordinates in the torus (R385). -/
structure Coord where
  x : Nat
  y : Nat
  z : Nat
deriving DecidableEq, Repr, Inhabited

/-- Packet kinds (Table 12-4); `other` is a reserved code. -/
inductive PktKind where
  | write | add | coll | readReq | readRsp | ack | proxyReq | proxyRsp
  | other (code : Nat)
deriving DecidableEq, Repr, Inhabited

def PktKind.code : PktKind → Nat
  | .write => 0 | .add => 1 | .coll => 2 | .readReq => 3 | .readRsp => 4 | .ack => 5
  | .proxyReq => 6 | .proxyRsp => 7 | .other c => c

/-- A packet: the header of Table 12-3 and its payload (R394). -/
structure Packet where
  dst : Coord
  kind : PktKind
  src : Coord
  channel : Nat
  job : Nat
  golden : Bool
  err : Bool
  age : Nat
  deflect : Nat
  format : Nat
  seq : Nat
  srcRank : Nat
  poison : Nat
  dstRank : Nat
  length : Nat
  addr : Nat
  sr : Bool
  tag : Word
  step : Word
  /-- 1 = a packet of a member's system stream (R409), which belongs to no context. -/
  sys : Bool
  payload : List Byte
deriving DecidableEq, Repr, Inhabited

/-- A link frame (R391): the header, the packet if any, and the CRC-32 received with it. -/
structure LinkFrame where
  lseq : Nat
  rack : Nat
  nak : Bool
  pkt : Option Packet
  crc : Word
deriving DecidableEq, Repr, Inhabited

/-- The verdict of a unit's ECC check bits on a read (R334). -/
inductive EccOutcome where
  | clean
  | corrected (syndrome symbol : Nat)
  | uncorrectable (syndrome : Nat)
deriving DecidableEq, Repr, Inhabited

/-- Cache hints (R198, Table 10-3). -/
inductive Hint where
  | stream | keep | last
deriving DecidableEq, Repr, Inhabited

/-- How a start-up phase's unit or a reset pass ended. -/
inductive Verdict where
  | pass | fail
deriving DecidableEq, Repr, Inhabited

/-- A section header of an image (Table 18-4). -/
structure SectionHdr where
  id : Nat
  offset : Nat
  size : Nat
deriving DecidableEq, Repr, Inhabited

/-- The contents of an image's sections (Table 18-5), as the registers they are destined for. -/
structure ImageBody where
  coord : Coord
  extent : Coord
  group : Nat
  member : Nat
  proxy : Bool
  portEnable : List Bool
  serLimit : Nat
  split : Nat
  routes : List (Nat × Nat)
  groupEn : Word
  unmasked : List Nat
  consoleRate : Nat
  mgmtRole : Nat
  peak : Nat
  sustLimit : Nat
  sustStart : Nat
  t1 : Nat
  t2 : Nat
  t3 : Nat
  tcrit : Nat
  fenceLimit : Nat
  throttle : Nat
  alert : Nat
  ceLimit : Nat
  period : Nat
  fbCfg : Word
  stormCfg : Word
  rowCfg : Word
  ctxCfg : Word
  rknCfg : Word
  fraction : Nat
  asyMin : Nat
  asyMax : Nat
  leaseGrace : Nat
  installerKey : List Byte
  /-- Whether the maker's signature over the installer key verifies (R523 step 2). -/
  installerKeyOk : Bool
  operatorKeys : List (List Byte)
deriving DecidableEq, Repr, Inhabited

/-- A configuration image (R521, Table 18-4). -/
structure Image where
  magic : Nat
  format : Nat
  nsect : Nat
  length : Nat
  serial : Nat
  part : Nat
  stepMask : Nat
  moduleDigest : List Byte
  headerReservedZero : Bool
  sections : List SectionHdr
  body : ImageBody
  signature : List Byte
  /-- Whether the signature verifies under the installer key over the bytes before it (R523 step 3). -/
  sigOk : Bool
deriving DecidableEq, Repr, Inhabited

/-- A firmware image as a PLDM update carries it (R484, R538, R539). -/
structure Firmware where
  bytes : List Byte
  svn : Nat
  /-- Whether the maker's signature over the firmware verifies (R538, R539). -/
  sigOk : Bool
deriving DecidableEq, Repr, Inhabited

/-- An uncommitted or staged PLDM transfer: its stage and its payload (R484, R525). -/
inductive PldmUpdate where
  | beginImage
  | imageData (img : Image)
  | firmware (fw : Firmware)
deriving DecidableEq, Repr, Inhabited

/-- What a PLDM monitoring command asks for (R484). -/
inductive PldmSensor where
  | dieTemp (dieType die : Nat)
  | stackTemp (st : SIx)
  | inputVoltage | inputCurrent | inputPower
  | railFamilyPower (family : Fin 4)
  | moduleState
  | stackState (st : SIx)
  | portState (l : LIx) (p : PortIx)
deriving DecidableEq, Repr, Inhabited

/-- The algorithm pairs an SPDM requester offers: registry and algorithm identifiers (Table 16-7). -/
structure SpdmOffer where
  extAsym : List (Nat × Nat)
  extHash : List (Nat × Nat)
deriving DecidableEq, Repr, Inhabited

/-- The reset domains a rail fault or a containment puts a die into (R509). -/
inductive DieName where
  | c (n : CIx) | s (n : SIx) | l (n : LIx) | h (n : HIx) | m
deriving DecidableEq, Repr, Inhabited

/-- The engines of a C-die, and the two others of Table 8-1 (R277). -/
inductive EngineName where
  | loom (d : CIx) | vec (d : CIx) | cpy (d : CIx) | coll | cooper (st : SIx)
deriving DecidableEq, Repr, Inhabited

/-- The syndrome of a failed Assayer test (Table 14-8, ASY_FAIL). -/
structure TestFailure where
  stress : Bool
  pattern : Nat
  digest : List Byte
deriving DecidableEq, Repr, Inhabited

/-- What the units found by the self-test and training of a start-up phase failed (Table 17-10). -/
structure PhaseReport where
  /-- Phase 1: the firmware slots that failed to boot. -/
  slotsFailed : List Nat
  /-- Phase 2: rails in window. -/
  rails : Nat
  /-- Phase 2: good phases of the converter and of P-dies 0, 1 and 2. -/
  phases : List Nat
  /-- Phase 2: link speed and width of each host port, 0 = down. -/
  hostSpeed : List Nat
  hostWidth : List Nat
  /-- Phase 5: unit identifiers that failed their nominal patterns. -/
  unitsFailed : List Word
  /-- Phase 3: remap entries that post-package repair freed: stack, then entry. -/
  freed : List (Nat × Nat)
deriving DecidableEq, Repr, Inhabited

/-- An MCTP message by type and payload (R483). -/
structure MctpMessage where
  msgType : Nat
  payload : List Byte
deriving DecidableEq, Repr, Inhabited

/-- The instructions of the TAP (R492): the two that act before a maker unlock, and every other by its opcode. -/
inductive JtagOp where
  | bypass | idcode
  | other (opcode : Nat)
deriving DecidableEq, Repr, Inhabited

/-- A command to the block: one constructor per row of spec/opcode_table.json. -/
inductive Instr where
  -- register access
  | registerWrite (rq : Requester) (addr size : Nat) (v : Word)
  | readLowWord (rq : Requester) (addr : Nat)
  | writeHighWord (rq : Requester) (addr : Nat) (v : Word)
  | readClear (rq : Requester) (addr : Nat)
  -- contexts
  | openCtx (rq : Requester) (j : JobIx)
  | regionTableLoad (j : JobIx)
  | close (rq : Requester) (j : JobIx)
  | resetJob (rq : Requester) (j : JobIx)
  | reloadRegions (rq : Requester) (j : JobIx)
  | contextCancelDone (j : JobIx)
  | contextScrubDone (j : JobIx)
  -- queues
  | queueEnable (rq : Requester) (j : JobIx) (e : EngIx)
  | queueDisable (rq : Requester) (j : JobIx) (e : EngIx)
  | queueResume (rq : Requester) (j : JobIx) (e : EngIx)
  | queueSkip (rq : Requester) (j : JobIx) (e : EngIx)
  | queueDrainDone (j : JobIx) (e : EngIx)
  | queueRingConfigWrite (rq : Requester) (addr : Nat) (v : Word)
  | doorbell (rq : Requester) (j : JobIx) (e : EngIx) (tail : Word)
  | commandFetch (j : JobIx) (e : EngIx)
  | listAdmission (j : JobIx) (e : EngIx)
  | commandWaitMet (j : JobIx) (e : EngIx)
  | commandComplete (j : JobIx) (e : EngIx) (k : Nat)
  | engineReset (eng : EngineName)
  -- control commands
  | nop (j : JobIx) (e : EngIx)
  | listHead (j : JobIx) (e : EngIx)
  | chain (j : JobIx) (e : EngIx)
  | branch (j : JobIx) (e : EngIx)
  -- Loom commands
  | matmul (j : JobIx)
  | matmulGrouped (j : JobIx)
  | sideDown (j : JobIx)
  | sideDownGrouped (j : JobIx)
  -- vector commands
  | elementwise (j : JobIx)
  | norm (j : JobIx)
  | softmax (j : JobIx)
  | quantise (j : JobIx)
  | routeTopk (j : JobIx)
  -- copy commands
  | copy (j : JobIx)
  | window (j : JobIx)
  | gather (j : JobIx)
  | scatter (j : JobIx)
  | scatterAdd (j : JobIx)
  | segmentSum (j : JobIx)
  | csrGather (j : JobIx)
  | dispatchBuild (j : JobIx)
  | touchBuild (j : JobIx)
  -- collective commands
  | reduceScatter (j : JobIx)
  | allReduce (j : JobIx)
  | allGather (j : JobIx)
  | allToAll (j : JobIx)
  | broadcast (j : JobIx)
  -- update commands
  | updMomentum (j : JobIx)
  | updAdaptive (j : JobIx)
  | updFactored (j : JobIx)
  | updBlockpre (j : JobIx)
  | regenerate (j : JobIx)
  | cooperPhaseAdvance (j : JobIx)
  -- tile happenings
  | loomPass (d : CIx) (t : TileIx) (k : Nat)
  | passRepeat (d : CIx) (t : TileIx) (k : Nat)
  | blockFinish (d : CIx) (t : TileIx) (k : Nat)
  | tileWakeDone (d : CIx) (t : TileIx)
  | tileGate (d : CIx) (t : TileIx)
  | stormTrip (d : CIx) (j : JobIx)
  | stormWindowEnd (d : CIx) (j : JobIx)
  | deadlineMiss (j : JobIx) (e : EngIx)
  -- stacks and memory
  | stackTempSample (st : SIx) (temp : Int)
  | stackStepDown (st : SIx)
  | stackFenceLimit (st : SIx)
  | stackTrainingDone (st : SIx) (ok : Verdict)
  | selfRefreshExit (st : SIx)
  | memRead (j : JobIx) (addr n : Nat) (hint : Hint) (ecc : EccOutcome) (parity : Bool)
  | memWrite (j : JobIx) (addr : Nat) (data : List Byte) (hint : Hint) (parity : Bool)
  | memAdd (j : JobIx) (addr fmt : Nat) (data : List Byte) (sr : Bool)
  | repairTableCommit (st : SIx)
  | patrolScrub (st : SIx) (unit : Nat) (ecc : EccOutcome)
  -- fabric ports and lanes
  | portEnable (rq : Requester) (l : LIx) (p : PortIx)
  | portDisable (rq : Requester) (l : LIx) (p : PortIx)
  | portTrainingDone (l : LIx) (p : PortIx) (lanes rtt : Nat)
  | portTrainingTimeout (l : LIx) (p : PortIx)
  | portDrainDone (l : LIx) (p : PortIx) (confirmed : Bool)
  | retrainDone (l : LIx) (p : PortIx)
  | retrainTimeout (l : LIx) (p : PortIx)
  | laneFail (l : LIx) (p : PortIx) (lane reason : Nat)
  | linkFrameReceive (l : LIx) (p : PortIx) (f : LinkFrame)
  | packetArrive (l : LIx)
  | packetInject (l : LIx)
  -- packets delivered in stream order: L-die and lease
  | write (l : LIx) (k : Nat)
  | add (l : LIx) (k : Nat)
  | coll (l : LIx) (k : Nat)
  | readReq (l : LIx) (k : Nat)
  | readRsp (l : LIx) (k : Nat)
  | ack (l : LIx) (k : Nat)
  | proxyReq (l : LIx) (k : Nat)
  | proxyRsp (l : LIx) (k : Nat)
  | ackTimer (l : LIx) (k : Nat)
  | reorderLeaseIdle (l : LIx) (k : Nat)
  | streamTimeout (l : LIx) (k : Nat)
  | gapTimeout (l : LIx) (k : Nat)
  | routerReset (rq : Requester) (l : LIx)
  | routerDrainEnd (l : LIx)
  | routerLoss (l : LIx)
  | collectiveTimeout (j : JobIx) (ch : Fin 16)
  -- containment
  | fence (rq : Requester) (fenceBit unfenceBit : Bool)
  | unfence (rq : Requester)
  | unitWatchdog (unit : Word)
  | unitDrainDone (unit : Word)
  | leaseExpiry (k : Nat)
  | leaseRevokeDone (k : Nat)
  -- Assayer
  | assayerTestDue (unit : Word)
  | tileMigration (d : CIx) (t : TileIx)
  | assayerDeferLimit (unit : Word)
  | assayerTestPass (unit : Word)
  | assayerTestFail (unit : Word) (f : TestFailure)
  | tallySlotRelease (rq : Requester) (mask : Word)
  | stackPageTest (st : SIx) (page : Nat)
  | laneTest (l : LIx) (p : PortIx) (lane : Fin 18) (eye : Verdict)
  -- record ring
  | ringEnable (rq : Requester) (v : Word)
  | ringDisable (rq : Requester)
  | ringTailWrite (rq : Requester) (v : Word)
  -- events
  | eventSourceAssert (e : EventNo)
  | eventSourceWithdraw (e : EventNo)
  | evcPendSet (rq : Requester) (k : Fin 32) (v : Word)
  | evcPendClr (rq : Requester) (k : Fin 32) (v : Word)
  | evcMaskSet (rq : Requester) (k : Fin 32) (v : Word)
  | evcMaskClr (rq : Requester) (k : Fin 32) (v : Word)
  | evcClaim (rq : Requester) (t : Fin 3) (c : Fin 2)
  | evcComplete (rq : Requester) (t : Fin 3) (c : Fin 2) (v : Word)
  | serviceCoreFailure (core : Fin 2) (uncorrectable : Bool)
  | standbyPromoted
  | coreRestartDone (core : Fin 2) (ok : Verdict)
  -- host ports
  | bar0Request (h : HIx) (isWrite : Bool) (off len : Nat) (data : List Byte)
  | bar2Request (h : HIx) (isWrite : Bool) (off len : Nat) (data : List Byte) (ep : Bool)
  | bar4Request (h : HIx) (isWrite : Bool) (off len : Nat) (data : List Byte)
  | hostWindowReadCompletion (h : HIx) (addr : Nat) (data : List Byte) (ok : Bool)
  | functionLevelReset (h : HIx)
  | hotReset (h : HIx)
  | hostLinkDown (h : HIx)
  | persthN (h : HIx)
  | msixEntryUnmask (h : HIx) (entry : Nat)
  -- management port
  | entdaa (dynAddr : Nat)
  | mctpControl (m : MctpMessage)
  | pldmMonitoring (sensor : PldmSensor)
  | pldmSetPowerLimit (watts : Nat)
  | pldmFirmwareUpdate (u : PldmUpdate)
  | stageCheck
  | readRecords (seq : Nat)
  | readAudit (index : Nat)
  | getVersion
  | getCapabilities
  | negotiateAlgorithms (o : SpdmOffer)
  | getDigests
  | getCertificate (slot off len : Nat)
  | challenge (slot : Nat) (nonce : List Byte)
  | getMeasurements (index : Nat) (nonce : List Byte)
  -- console and JTAG
  | auth (role : Role) (sig : Option Verdict)
  | consoleIdleTimeout
  | consoleBreak
  | consoleLockExpire
  | jtagUnlock (token : Verdict)
  -- roles, configuration, firmware, audit
  | secChallenge (rq : Requester)
  | authGo (rq : Requester) (v : Word)
  | authVerifyDone (rq : Requester) (ok : Verdict)
  | authLockExpire (rq : Requester)
  | sessionEnd (rq : Requester)
  | adopt (rq : Requester)
  | activateFw (rq : Requester)
  | activateFwTimeout
  | auditCommit (ok : Verdict)
  | doorbellAuditTimer
  -- power
  | brownOut (volt : Nat)
  | overVoltage (volt : Nat)
  | thermalTrip (unit : Word) (temp : Int)
  | emergencyOffEnd
  | alwaysOnRailsGood
  | inputRestart (volt : Nat)
  | pwrEnRise
  | pwrEnFall
  | resetN
  | startPhaseDone (r : PhaseReport)
  | startPhaseTimeout
  | railFault (rail : Fin 12)
  | converterPhaseFail (k : Fin 12)
  | regulatorPhaseFail (pdie : Fin 3) (k : Nat)
  | limiterPeakStep (avg : Nat)
  | limiterSustainedStep (avg : Nat)
  | limiterStepUp (avg : Nat)
  | cdieThermalStepDown (d : CIx) (temp : Int)
  | cdieThermalStepUp (d : CIx) (temp : Int)
  | opChangeDone (d : CIx)
  | idleEntry
  | deepIdleEntry
  | wake
  | dieReset (d : DieName)
  | hostLinkUp (h : HIx) (speed width : Nat) (flit : Bool)
  | configurationRequest (h : HIx) (isWrite : Bool) (reg : Nat) (v : Word)
  | jtagInstruction (op : JtagOp)
  | vref3v3Loss
  | neighbourRouterDrain (l : LIx) (p : PortIx)
deriving DecidableEq, Repr

end Sys2Proof
end

