-- ==== Sys2Proof/Machine/Flags.lean ====
section
/-! DEFINITION. Flag words: the fields of the job status word (Table 8-13) and the Loom flag word (Table 3-4). -/

namespace Sys2Proof.Machine

/-- The bits of the job status word (Table 8-13). -/
def jsScaleClamp : Nat := 0
def jsQnan : Nat := 1
def jsSubnFlush : Nat := 2
def jsLongSum : Nat := 3
def jsAccOvf : Nat := 4
def jsFbTop : Nat := 5
def jsStorm : Nat := 6
def jsFwdClamp : Nat := 7
def jsGradSkip : Nat := 8
def jsGfactMax : Nat := 9
def jsRouteNan : Nat := 10
def jsPrecondDiag : Nat := 11
def jsLate : Nat := 12

/-- The fields of a Loom flag word. -/
structure LoomFlags where
  passes : Nat
  skipped : Nat
  level : Nat
  poison : Bool
  clamp : Bool
  amaxRatio : Bool
  outlierOvf : Bool
  e5m2Trunc : Bool
  nan : Bool
  inf : Bool
  ovf : Bool
deriving DecidableEq, Repr, Inhabited

/-- No pass has added anything yet. -/
def LoomFlags.none : LoomFlags := ⟨0, 0, 0, false, false, false, false, false, false, false, false⟩

/-- The OR and the counts of two passes' flags; the level is the higher (R103, R149). -/
def LoomFlags.join (a b : LoomFlags) : LoomFlags :=
  ⟨a.passes + b.passes, a.skipped + b.skipped, max a.level b.level, a.poison || b.poison, a.clamp || b.clamp,
   a.amaxRatio || b.amaxRatio, a.outlierOvf || b.outlierOvf, a.e5m2Trunc || b.e5m2Trunc, a.nan || b.nan, a.inf || b.inf,
   a.ovf || b.ovf⟩

/-- The flag word (Table 3-4). -/
def LoomFlags.word (f : LoomFlags) : Word :=
  Word.at' (min f.passes 255) 24 ||| Word.at' (min f.skipped 255) 16 ||| Word.at' (f.level % 4) 8 |||
  Word.flag f.poison 7 ||| Word.flag f.clamp 6 ||| Word.flag f.amaxRatio 5 ||| Word.flag f.outlierOvf 4 |||
  Word.flag f.e5m2Trunc 3 ||| Word.flag f.nan 2 ||| Word.flag f.inf 1 ||| Word.flag f.ovf 0

end Sys2Proof.Machine
end

