-- ==== Sys2Proof/Config.lean ====
section
/-! DEFINITION. What the spec leaves open: constants with no body, so that nothing can be proved about a value the
spec does not give. -/

namespace Sys2Proof.Config

/-- The `k`-th free value of a run, for a value or a choice the spec leaves open (log 2). DESIGN CHOICE. -/
opaque freeNat : Nat → Nat

/-- SHAKE256 with its 64-byte output (FIPS 202), uninterpreted (log 12). PRESUMED. -/
opaque shake256 : List Byte → List Byte

/-- Falcon-1024 signing with the module's identity key (FIPS 206), uninterpreted (log 12). PRESUMED. -/
opaque falconSign : List Byte → List Byte

/-- The bytes of a configuration image, signature included (R521): the spec gives the header's layout and not the
sections' (log 12). -/
opaque imageBytes : Image → List Byte

/-- A DER certificate chain of slot 0 (R535), which the maker provisions (log 12). -/
opaque certChain : List Byte

/-- The sigmoid of an FP32 value: R262 states no accuracy for it (log 13). -/
opaque sigmoid : Word → Word

/-- The hyperbolic tangent of an FP32 value: R262 states no accuracy for it (log 13). -/
opaque tanh : Word → Word

end Sys2Proof.Config
end

