-- ==== Sys2Proof/Machine/State.lean ====
section
/-! DEFINITION. The state of the block: everything the spec gives the machine, as plain data; why a step can stop;
and the machine right after reset. -/

namespace Sys2Proof.Machine

/-- A sparse memory: addresses strictly rising, no entry equal to what an unlisted address reads as (0x00). -/
abbrev Memory := List Host.Cell

/-! ### Operands of commands in flight (chapter 6) -/

/-- A tensor descriptor with its auxiliary record. -/
structure Desc where
  addr : Nat
  base : Nat
  dtype : Nat
  ndim : Nat
  layout : Nat
  rot : Nat
  smode : Nat
  hintCode : Nat
  dist : Nat
  imode : Nat
  sloc : Nat
  /-- Bits 71:67 and the fields of dimensions at or above NDIM are 0 (R190). -/
  clean : Bool
  tscale : Word
  fseed : Word
  tseed : Word
  exts : List Nat
  strides : List Nat
  auxAddr : Nat
  /-- The eight slots of Table 6-5; an absent array is 0. -/
  aux : List Nat
  /-- Every slot is 64-byte aligned and its bits 63:48 are 0. -/
  auxOk : Bool
  /-- The block extents and NBLOCKS of an owner table's header (Table 6-7); none for a LOCAL tensor. -/
  bext : List Nat
  nblocks : Nat
deriving DecidableEq, Repr, Inhabited

/-- A descriptor as a command of a step uses it: its tensor scale, or row scales. -/
structure Scaled where
  d : Desc
  row : Bool
  t : Word
deriving DecidableEq, Repr, Inhabited

/-! ### Contexts and queues (chapter 8) -/

/-- Context states (Table 8-8). -/
inductive CtxState where
  | free | opening | opened | faulted | resetting | closing | scrubbing
deriving DecidableEq, Repr, Inhabited

/-- Queue states (Table 8-10). -/
inductive QState where
  | disabled | idle | admitting | active | waiting | halted | draining | armed
deriving DecidableEq, Repr, Inhabited

/-- A fetched command that has not started: its one or two slots and where they were (R273, R274). -/
structure HeldCmd where
  bytes : List Byte
  ringIdx : Nat
  runIdx : Option Nat
deriving DecidableEq, Repr, Inhabited

/-- What the amax part of a DELAYED write holds until completion (R169). -/
structure AmaxPart where
  record : Nat
  die : Nat
  amax : Word
deriving DecidableEq, Repr, Inhabited

/-- The generator of a unit for one command: its state and the 16-bit values drawn and not used (R58 to R60). -/
structure UnitGen where
  unit : Word
  state : Nat
  left : List Nat
deriving DecidableEq, Repr, Inhabited

/-- A command started and not completed. `shares` counts the parts still running. -/
structure Flight where
  fid : Nat
  bytes : List Byte
  list : Option Nat
  startTick : Nat
  shares : Nat
  amax : List AmaxPart
  /-- Its operands as decode read them (R189). -/
  ops : List (Option Scaled)
  /-- A scoreboard and the value written to it at completion (R236). -/
  board : Option (Nat × Nat)
  /-- The generators of the units that have run parts of it. -/
  gens : List UnitGen
  /-- The C-dies that have run a share of it (R285). -/
  dies : List Nat
deriving DecidableEq, Repr, Inhabited

/-- What admission found of one command of a list (R299, R301). -/
structure PlanItem where
  conditional : Bool
  charge : Nat
  /-- For a CHAIN, the planned commands of its run, which follow it. -/
  run : Nat
deriving DecidableEq, Repr, Inhabited

/-- An admitted list (R302, R308). The reserve and the accounts 1 to 6 of Table 9-3, in order, are kept in clocks. -/
structure AdmList where
  lid : Nat
  acceptTick : Nat
  deadlineTick : Nat
  adm : Nat
  reserve : Int
  /-- The ticks that the engine of each C-die, the module's engine at 0, has spent on it, and the tick up to which they
  are counted. -/
  spent : List (Nat × Nat)
  accounts : List Nat
  engines : List Nat
  plan : List PlanItem
  firstStep : Word
  ended : Bool
  missed : Bool
  late : Bool
  /-- The code of Table 9-3 once it has missed. -/
  cause : Nat
deriving DecidableEq, Repr, Inhabited

/-- A queue (R251, R272, R283). -/
structure Queue where
  state : QState
  base : Nat
  log2 : Nat
  head : Nat
  tail : Nat
  cause : Nat
  faultCmd : Word
  held : List HeldCmd
  inflight : List Flight
  /-- Commands that a BRANCH still passes over (R269). -/
  skipLeft : Nat
  /-- A SKIP passes over everything up to the next LIST_HEAD (R283). -/
  skipHead : Bool
  /-- What a SKIP after an ADMIT rejection leaves held (R283). -/
  afterSkip : List HeldCmd
  /-- A list was in admission when the queue was disabled (R284). -/
  admitPend : Bool
  curList : Option Nat
  lists : List AdmList
  /-- The front command waits: the account of Table 9-3 that the wait goes to (0 to 5), and since when. -/
  waitSince : Option (Nat × Nat)
  /-- What R264 has found of the front command: 1 its WAIT is met, 2 its predicate holds too. -/
  passed : Nat
deriving DecidableEq, Repr, Inhabited

/-- A region table entry in use (Table 8-9). -/
structure Region where
  base : Nat
  pages : Nat
  kind : Nat
  die : Nat
  write : Bool
deriving DecidableEq, Repr, Inhabited

/-- A rank table entry (R395). -/
structure RankEntry where
  at' : Coord
  ctx : Nat
  valid : Bool
deriving DecidableEq, Repr, Inhabited

/-- The layer counts of one layer scoreboard (R151). -/
structure LayerCount where
  sb : Nat
  issued : Nat
  repeated : Nat
deriving DecidableEq, Repr, Inhabited

/-- A kept ROW(t) (R180). -/
structure RowKept where
  step : Word
  row : Bool
deriving DecidableEq, Repr, Inhabited

/-- A job context with its registers (chapters 4, 5, 8, 9, 12, 13). -/
structure Ctx where
  state : CtxState
  err : Bool
  cfg : Word
  seed : Nat
  rgn : Nat
  regions : List Region
  jobStatus : Word
  fault : Word
  faultCmd : Word
  faultStep : Word
  queues : Vector Queue 5
  sb : Vector Word 64
  rowCfg : Word
  rowStat : Word
  rowBase : Word
  rowStep : Word
  rowKept : List RowKept
  fbCfg : Word
  stormCfg : Word
  stormStat : Word
  stormEnd : Word
  rknCfg : Word
  admitStat : Word
  miss : Word
  missStep : Word
  layers : List LayerCount
  rankBase : Nat
  rankCfg : Word
  streamCfg : Word
  ranks : List RankEntry
  colBusy : Word
  colTag : Word
  colFlt : Word
  doorbells : Nat
  /-- Updates of a step that had started, for TORN (R311). -/
  updStarted : List Word
  /-- An accepted RELOAD_REGIONS whose read of the table waits at a stack (R280). -/
  reloads : Bool
  nextFid : Nat
  /-- Numbers the reads sent to other modules: the model's own. -/
  nextReq : Nat
  nextLid : Nat
deriving DecidableEq, Repr, Inhabited

/-! ### C-dies (chapters 3 to 9) -/

/-- Tile states (Table 3-7). -/
inductive TileState where
  | off | waking | idle | running | finishing | migrating | underTest | fenced
deriving DecidableEq, Repr, Inhabited

/-- Roles of a tile or bank (R31). `none` = fenced for failure: it holds neither. -/
inductive UnitRole where
  | service | spare | none
deriving DecidableEq, Repr, Inhabited

/-- A tally entry (Table 14-5). -/
structure TallyEntry where
  cmd : Word
  step : Word
  job : Nat
  level : Nat
  passes : Nat
deriving DecidableEq, Repr, Inhabited

/-- A step index per context (R447). -/
structure FirstStep where
  job : Nat
  step : Word
deriving DecidableEq, Repr, Inhabited

/-- The Assayer's view of one unit: when its last passing test began and ended, and what is due (R441, R445). -/
structure TestState where
  passStart : Nat
  passEnd : Nat
  due : Bool
  deferredSince : Option Nat
  /-- The unit goes back to test by an UNFENCE (R435). -/
  unfencing : Bool
  testStart : Nat
deriving DecidableEq, Repr, Inhabited

/-- A Loom tile. -/
structure Tile where
  state : TileState
  role : UnitRole
  job : Option Nat
  level : Nat
  cmd : Word
  step : Word
  fid : Nat
  idleSince : Nat
  tally : List TallyEntry
  wrapped : Bool
  first : List FirstStep
  test : TestState
  /-- Jobs whose work the Assayer migrated off this tile for the test in progress (R179). -/
  migrated : List Nat
  /-- The source of a fence that waits for a migration to complete (R433). -/
  fencePend : Option Nat
  /-- A tally publication kept for lack of a slot (R448). -/
  holding : Option (Nat × Word)
deriving DecidableEq, Repr, Inhabited

/-- States of a unit without a state table of its own (FLT_FENCE_STAT, Table 14-9). -/
inductive UnitState where
  | inService | draining | armed | fenced | underTest | spare
deriving DecidableEq, Repr, Inhabited

/-- A scratchpad bank (R31, R544): the position it serves, when it holds the service role. -/
structure Bank where
  state : UnitState
  pos : Option Nat
  test : TestState
deriving DecidableEq, Repr, Inhabited

/-- A vector unit, copy channel or other unit that is fenced and tested alone. -/
structure SimpleUnit where
  state : UnitState
  test : TestState
deriving DecidableEq, Repr, Inhabited

/-- Engine states that do not follow from the units and the work (R285). -/
inductive EngOverride where
  | none | draining | armed | fenced | resetting
deriving DecidableEq, Repr, Inhabited

/-- A context's own counts on one C-die. -/
structure CtxOnDie where
  winCount : Nat
  winStart : Nat
  /-- The step of the command whose repeat counted last, and whether the window has tripped. -/
  winStep : Word
  tripped : Bool
  zeroed : Word
  dropped : Word
deriving DecidableEq, Repr, Inhabited

/-- A C-die. -/
structure CDie where
  /-- VDD_S feeds the uncore island: ring stops, stack ports, dispatcher, Reckoner (Table 17-3). -/
  powered : Bool
  /-- The die's compute islands are held in die reset (R496). -/
  held : Bool
  loomCtrl : Word
  tiles : Vector Tile 136
  banks : Vector Bank 51
  vus : Vector SimpleUnit 16
  cps : Vector SimpleUnit 16
  loomEng : EngOverride
  vecEng : EngOverride
  cpyEng : EngOverride
  /-- Some vector unit, some copy channel is awake (R285). -/
  vecAwake : Bool
  cpyAwake : Bool
  passCnt : Nat
  stallCnt : Nat
  skipCnt : Word
  flagCnt : Word
  troubleCnt : Word
  scaleCnt : Word
  xformCnt : Word
  remoteCnt : Nat
  coalesceCnt : Nat
  ctxs : Vector CtxOnDie 64
  vnom : Nat
  op : Nat
  powerOp : Nat
  thermOp : Nat
  temp : Int
  /-- Tick of the last step down by temperature, and the first of the unbroken run of readings below THROTTLE less 5 °C
  (R500). -/
  thermSince : Nat
  coolSince : Option Nat
  /-- Tick at which the last wake of the compute islands completes (R504, R508). -/
  wakeEnd : Nat
deriving DecidableEq, Repr, Inhabited

/-! ### Loom work (chapters 3 and 4) -/

/-- An output block of a Loom command in execution (R94 to R96): its place in the grid, its segment and its band of
rows there, its position in the C-die's share, its passes and those that have reached P. -/
structure BlockWork where
  job : Nat
  fid : Nat
  die : Nat
  idx : Nat
  seg : Nat
  /-- The B descriptor that its segment takes. -/
  bsel : Nat
  band : Nat
  r0 : Nat
  rows : Nat
  c0 : Nat
  cols : Nat
  pos : Nat
  passes : Nat
  arrived : Nat
  flags : LoomFlags
  poisoned : Bool
  /-- P holds its preload. -/
  started : Bool
  split : Bool
  tile : Option Nat
  finished : Bool
deriving DecidableEq, Repr, Inhabited

/-- A pass or a queued repeat that has not run (R82, R147): its K range in groups from `g0`, whether it carries the
up-term, its level, how often it has been repeated, and whether it must be its tile's next pass. -/
structure PassWork where
  job : Nat
  fid : Nat
  die : Nat
  block : Nat
  up : Bool
  g0 : Nat
  groups : Nat
  level : Nat
  repeats : Nat
  next : Bool
  tile : Option Nat
deriving DecidableEq, Repr, Inhabited

/-! ### Stacks (chapters 10 and 11) -/

/-- Stack states (Table 10-1). -/
inductive StackState where
  | off | training | normal | step75 | step50 | step25 | fenced | selfRefresh | offline
deriving DecidableEq, Repr, Inhabited

/-- A row of a stack. -/
structure RowId where
  pc : Nat
  sid : Nat
  bank : Nat
  row : Nat
deriving DecidableEq, Repr, Inhabited

/-- A remap entry in use (Table 10-6). -/
structure Remap where
  row : RowId
  spare : Nat
deriving DecidableEq, Repr, Inhabited

/-- USED and BAD masks of a bank, as lists of spare rows (R337). -/
structure BankMask where
  pc : Nat
  sid : Nat
  bank : Nat
  used : List Nat
  bad : List Nat
deriving DecidableEq, Repr, Inhabited

/-- The repair tables of a stack (R337 to R339). -/
structure RepairTables where
  remaps : List Remap
  masks : List BankMask
  /-- Retired pages: stack offset of the page in 4 KiB units, and its pool page. -/
  retired : List (Nat × Nat)
deriving DecidableEq, Repr, Inhabited

/-- A row's correctable errors in the tracker (R337). -/
structure TrackedRow where
  row : RowId
  count : Nat
deriving DecidableEq, Repr, Inhabited

/-- An S-die with its stack. -/
structure SDie where
  held : Bool
  state : StackState
  temp : Int
  /-- A sample has been taken since the rails came up (R320). -/
  sampled : Bool
  /-- Tick of the first sample of the unbroken run below the own threshold minus 3 degrees (R319). -/
  coolSince : Option Nat
  fencedSince : Nat
  retained : Bool
  keepWays : Word
  /-- T1, T2, T3, TCRIT. -/
  t1 : Nat
  t2 : Nat
  t3 : Nat
  tcrit : Nat
  fenceLimit : Nat
  split : Nat
  ceLimit : Nat
  period : Nat
  eccCnt : Word
  poisonCnt : Word
  thermCnt : Word
  scrubUnit : Nat
  scrubPasses : Nat
  addCnt : Nat
  tables : RepairTables
  committed : RepairTables
  commitGen : Nat
  tracker : List TrackedRow
  /-- Ticks of recent parity errors per pseudo-channel, of failed row repairs, and rows of recent UEs (R432). -/
  parity : List (Nat × Nat)
  repairFails : List (Nat × Nat)
  ueRows : List (Nat × RowId)
  /-- Fenced pseudo-channels. -/
  pcFenced : List Nat
  /-- Poison windows (R438): ranges of device addresses, at most 16. -/
  windows : List (Nat × Nat)
  cprEng : EngOverride
  /-- Command ID and step of the current or last update command (R381). -/
  cprCmd : Word
  cprStep : Word
  cprElems : Nat
  cprEvent : Word
  cprCopy : Word
  cprRoot : Word
  /-- The held bandwidth step of a lost P-die phase: 0 none, 1 as T1, 2 as T2 (R494). -/
  powerHold : Nat
deriving DecidableEq, Repr, Inhabited

/-- The class of a cache line (R329). -/
inductive LineClass where
  | ordinary | prot
deriving DecidableEq, Repr, Inhabited

/-- A line of a memory-side cache (R328). Dirty and poison bits per 64 B unit. -/
structure Line where
  stack : Nat
  line : Nat
  cls : LineClass
  owner : Option Nat
  dirty : List Bool
  poison : List Bool
  data : List Byte
deriving DecidableEq, Repr, Inhabited

/-- An access that waits at a FENCED or sleeping stack (R322, R323). -/
inductive Waiting where
  | read (job addr n : Nat) (hint : Hint)
  | write (job addr : Nat) (data : List Byte) (hint : Hint) (bad : Bool)
  | add (job addr fmt : Nat) (data : List Byte) (sr : Bool)
deriving DecidableEq, Repr, Inhabited

/-- Memory as the module reaches it (R542). `dram` is keyed by stack number times 2^37 plus stack offset, so that
a remapped or retired place keeps its own contents; `pad` by window and offset; `host` by port and bus address. -/
structure MemSys where
  dram : Memory
  /-- Poisoned 64 B units of DRAM and of the scratchpad, by key / 64 (R335). -/
  dramPoison : Ranges
  pad : Memory
  padPoison : Ranges
  host : Memory
  /-- 64 B units of host memory, by key / 64, whose reads fail (R476). -/
  hostBad : Ranges
  /-- All lines of all caches, most recently used first. -/
  cache : List Line
  waiting : List Waiting
deriving DecidableEq, Repr, Inhabited

/-- The update command in execution on the 12 S-dies (R345, R358, R380). -/
structure CprRun where
  job : Nat
  fid : Nat
  opcode : Nat
  phase : Nat
  /-- The S-dies whose share waits for its Cooper or its stack, each with the account its wait goes to (R348). -/
  left : List (Nat × Nat)
deriving DecidableEq, Repr, Inhabited

/-! ### The fabric (chapters 12 and 13) -/

/-- Port states (Table 12-2). -/
inductive PortState where
  | off | training | up | retrain | draining | dead | fenced | armed
deriving DecidableEq, Repr, Inhabited

/-- A lane of a port (R388, R389). -/
structure Lane where
  inService : Bool
  /-- Trained and unused (R388). -/
  spare : Bool
  bad : Bool
  underTest : Bool
deriving DecidableEq, Repr, Inhabited

/-- A frame in the retry buffer (R392). -/
structure SentFrame where
  lseq : Nat
  pkt : Packet
  sends : Nat
deriving DecidableEq, Repr, Inhabited

/-- A fabric port (R385 to R393). -/
structure Port where
  state : PortState
  lanes : Vector Lane 18
  rtt : Nat
  txLseq : Nat
  rxLseq : Nat
  nakSent : Bool
  retry : List SentFrame
  retryCnt : Word
  stateSince : Nat
  /-- The drain ends in FENCED (R434). -/
  fencing : Bool
  /-- The neighbour's router drains: this output is dead to routing (R407). -/
  neighbourDrain : Bool
  enabledByImage : Bool
deriving DecidableEq, Repr, Inhabited

/-- Router states (DRV_ROUTER_STATUS). -/
inductive RouterState where
  | forwarding | draining | resetting | training
deriving DecidableEq, Repr, Inhabited

/-- A reorder lease of a stream at its destination (R403, R404). -/
structure Reorder where
  job : Nat
  srcRank : Nat
  srcAt : Coord
  channel : Nat
  sys : Bool
  next : Nat
  held : List Packet
  sinceAck : Nat
  unackedSince : Option Nat
  lastArrival : Nat
  gapSince : Option Nat
  err : Bool
  closed : Bool
  /-- Whether it holds a lease: the next SEQ stays known when the lease ends (R403). -/
  leased : Bool
  /-- The sending command whose adds arrive, by TAG and STEP, and the generators of the adder sets that they have met
  (R58, log 136). -/
  adds : Option (Word × Word)
  gens : List UnitGen
deriving DecidableEq, Repr, Inhabited

/-- A stream at its source (R401, R402). -/
structure SrcStream where
  job : Nat
  dstRank : Nat
  dstAt : Coord
  dstCtx : Nat
  channel : Nat
  sys : Bool
  nextSeq : Nat
  acked : Nat
  lastAck : Nat
  /-- Packets that wait to inject. -/
  waiting : List Packet
  /-- The engine and the flight of every packet not acknowledged yet, in SEQ order. -/
  sent : List (Nat × Nat)
  closed : Bool
deriving DecidableEq, Repr, Inhabited

/-- An L-die. -/
structure LDie where
  held : Bool
  ports : Vector Port 2
  router : RouterState
  drainStart : Nat
  serLimit : Word
  coord : Coord
  member : Nat
  proxy : Bool
  deflects : Nat
  golden : Word
  drop : Word
  colCnt : Word
  wireBytes : Nat
  leases : List Reorder
  streams : List SrcStream
  /-- Packets that arrived and wait for the slot's contest: by input, ports 0 and 1, cross links 2 and 3. -/
  inputs : List (Nat × Packet)
  /-- ACKs this module wants to send, and ACKs received, oldest first. -/
  acksOut : List Packet
  acksIn : List Packet
deriving DecidableEq, Repr, Inhabited

/-- What a collective has received of one part of another position's data: the sender's position, the phase, the
direction (0 = +), the hop, and its bytes so far. -/
structure ColPart where
  src : Nat
  phase : Nat
  dir : Nat
  hop : Nat
  got : List Byte
deriving DecidableEq, Repr, Inhabited

/-- A collective in execution (R413 to R428): the phase among those of its opcode, the next hop to send in each
direction, what has been received, the gathered bytes by their place in the result, the remainder header that its
completion writes, its units' generators, and the L-die of the phase. -/
structure ColRun where
  job : Nat
  ch : Nat
  fid : Nat
  opcode : Nat
  bytes : List Byte
  startTick : Nat
  phase : Nat
  hops : Nat × Nat
  recv : List ColPart
  data : List (Nat × List Byte)
  useOld : Bool
  header : Option (Nat × List Byte × Hint)
  gens : List UnitGen
  die : Nat
  /-- It has written its destination. -/
  finished : Bool
deriving DecidableEq, Repr, Inhabited

/-- Bytes that a copy command needs (R209): the module's rank (none = this module), address, length, whether they begin
a run, the request's number, and what has come back with its poison. -/
structure FarRead where
  rank : Option Nat
  addr : Nat
  n : Nat
  first : Bool
  req : Nat
  got : Option (List Byte × Bool)
deriving DecidableEq, Repr, Inhabited

/-- One item of a copy command: outer indices and element of its source (none = zeros), those of the destinations that
receive it, the address and the hint of its weight, whether a poisoned index named it, and whether it ends a group of
items that are written together. -/
structure Move where
  src : Option (List Nat × Nat)
  dsts : List (List Nat × Nat)
  weight : Option (Nat × Hint)
  bad : Bool
  ends : Bool
deriving DecidableEq, Repr, Inhabited

/-- A row (or an element) that a copy command has read and not yet written: its place, codes and scales, its values where
the command quantises, its poison, and the strands of remote woven records that it writes a part of. -/
structure HeldRow where
  place : List Nat × Nat
  codes : List Nat
  scales : List Nat
  xs : List Word
  poison : Bool
  old : List (List Byte × Bool)
deriving DecidableEq, Repr, Inhabited

/-- A share of a copy command that touches remote blocks: its items still to move, in order, the bytes that the first
of them waits for, the rows read for the group under way, its channel's generator, and the owner-table entries it has
read (address and word, R211). -/
structure FarRun where
  job : Nat
  fid : Nat
  die : Nat
  todo : List Move
  reads : List FarRead
  held : List HeldRow
  gen : UnitGen
  owners : List (Nat × Nat)
deriving DecidableEq, Repr, Inhabited

/-! ### Host ports (chapter 16) -/

/-- An H-die. -/
structure HDie where
  held : Bool
  linkUp : Bool
  inReset : Bool
  speed : Nat
  width : Nat
  flit : Bool
  hwinOffset : Nat
  bar2Win : Nat
  bar2Log2 : Nat
  errCnt : Word
  msixEnable : Bool
  msixMask : List Nat
  /-- Words of the MSI-X table's entries but their vector control, by offset. -/
  msixData : List (Nat × Word)
  pba : List Nat
  /-- Configuration-space registers that differ from their defaults. -/
  cfgSpace : List (Nat × Word)
  port : SimpleUnit
  /-- BAR4 reads that wait for a PROXY_RSP: member and offset. -/
  bar4Waiting : List (Nat × Nat)
deriving DecidableEq, Repr, Inhabited

/-! ### The M-die -/

/-- The event controller (chapter 15). `pend` holds the pending edge events, `cond` the level events whose source
asserts; both rising. -/
structure Evc where
  pend : List Nat
  cond : List Nat
  mask : Vector Word 32
  groupEn : Word
  routes : Vector Word 128
  insvc : Vector (Option Nat) 6
  thresh : Vector Word 6
  scratch : Vector Word 96
  hostPort : Nat
  spurious : Nat
  badComplete : Nat
  failovers : Nat
deriving DecidableEq, Repr, Inhabited

/-- An error record (Table 14-7). -/
structure ErrRec where
  unit : Word
  job : Option Nat
  opcode : Nat
  code : Nat
  severity : Nat
  cmd : Word
  step : Word
  tick : Nat
  temp : Nat
  rail : Nat
  seq : Word
  syndrome : List Byte
  addr : Option Nat
  aux : Word
deriving DecidableEq, Repr, Inhabited

/-- A lease (R436). -/
structure Lease where
  kind : Nat
  num : Nat
  job : Nat
  unit : Word
  fid : Nat
  base : Nat
  len : Nat
  /-- Further runs of addresses that it covers: the outputs of a Cooper tile in flight (R379). -/
  cover : List (Nat × Nat)
  expiry : Nat
  /-- The tick its revocation began, and why: 1 expired, 2 recovery (Table 14-8). -/
  revoking : Option (Nat × Nat)
deriving DecidableEq, Repr, Inhabited

/-- Fault, fence, lease and tally registers (chapter 14). -/
structure Flt where
  ringBase : Nat
  ringLog2 : Nat
  ringEn : Bool
  head : Nat
  tail : Nat
  lost : Nat
  seq : Nat
  recs : List ErrRec
  fenceUnit : Word
  /-- Fenced units that have no other place here: those outside Table 14-1. -/
  fenced : List Word
  grace : Nat
  leaseCnt : Word
  leases : List Lease
  nextLease : Nat
  tallyBase : Nat
  unread : Nat
  nextSlot : Nat
  /-- Which tile's publication each unread slot holds. -/
  slots : List (Nat × Word)
deriving DecidableEq, Repr, Inhabited

/-- The Assayer (R441 to R453). -/
structure Asy where
  fraction : Nat
  stressEn : Bool
  min : Nat
  max : Nat
  deferred : Nat
  cnt : Word
deriving DecidableEq, Repr, Inhabited

/-- A firmware slot (R529, R539). -/
structure FwSlot where
  fw : Option Firmware
  imageMark : Bool
  bootMark : Bool
  generation : Nat
deriving DecidableEq, Repr, Inhabited

/-- The configuration store and the identity of the module (R511, R522 to R539). -/
structure Cfg where
  /-- The maker public key matches the fused digest (R523 step 1). -/
  makerKeyOk : Bool
  /-- The image in force, as the M-die holds it. -/
  inForce : ImageBody
  serial : Nat
  /-- The two copies of the active partition: image and generation, when valid. -/
  copies : Vector (Option (Image × Nat)) 2
  activeCopy : Nat
  staged : Option Image
  stagedValid : Bool
  transferOpen : Bool
  pendingCold : Bool
  lastResult : Nat
  fw : Vector FwSlot 2
  fwSlot : Nat
  bootCount : Nat
  minSvn : Nat
  moduleDigest : List Byte
  /-- Fused digest of the maker public key (Table 18-3). -/
  makerDigest : List Byte
  /-- An activation under way: the tick it began and the core that held before. -/
  activating : Option (Nat × Nat)
  adopting : Bool
deriving DecidableEq, Repr, Inhabited

/-- Session states (SEC_SESSION). -/
inductive SessState where
  | none | verifying | opened | locked
deriving DecidableEq, Repr, Inhabited

/-- What a requester owns: its latches, its selections and its session (R5, R518, R548). -/
structure ReqState where
  readLatch : List (Nat × Word)
  writeLatch : List (Nat × Word)
  tileSel : Word
  rknSel : Word
  recSel : Word
  routeLock : Bool
  authCtrl : Word
  sess : SessState
  role : Role
  keySlot : Nat
  chal : List Byte
  chalLive : Bool
  tries : Nat
  fails : Nat
  lockUntil : Nat
  sig : List (Nat × Word)
deriving DecidableEq, Repr, Inhabited

/-- An action whose audit record is pending (R531). -/
inductive PendingAct where
  | regWrite (addr : Nat) (v : Word)
  | ctxOp (op : Nat) (j : JobIx)
  | queueOp (op : Nat) (j : JobIx) (e : EngIx)
  | portOp (op : Nat) (l : LIx) (p : PortIx)
  | routerReset (l : LIx)
  | fence | unfence
  | adopt | activateFw
  | powerLimit (v : Nat)
  | jtagUnlock
  /-- Nothing follows the record. -/
  | note
deriving DecidableEq, Repr, Inhabited

/-- An audit record (Table 18-7). -/
structure AuditRec where
  seq : Nat
  tick : Nat
  boot : Nat
  role : Nat
  req : Nat
  action : Nat
  result : Nat
  keyId : Word
  target : Nat
  old : Nat
  new : Nat
  detail : List Byte
  prev : List Byte
  digest : List Byte
deriving DecidableEq, Repr, Inhabited

/-- A record that waits for its commit and the action it releases. -/
structure PendingRec where
  rec' : AuditRec
  act : PendingAct
deriving DecidableEq, Repr, Inhabited

/-- The security engine (R516 to R534). -/
structure Sec where
  auditRefused : Nat
  auditFail : Bool
  unlocked : Bool
  pending : List PendingRec
  log : List AuditRec
  nextSeq : Nat
  lastDoorbell : Nat
deriving DecidableEq, Repr, Inhabited

/-- States of a service core (EVC_CORE_STAT). -/
inductive CoreState where
  | active | standby | failed | restarting
deriving DecidableEq, Repr, Inhabited

/-- A service core (R537). -/
structure Core where
  state : CoreState
  failedAt : Option Nat
  /-- The core was started from the journal and is to become active (R537). -/
  promoting : Bool
  fenced : Bool
deriving DecidableEq, Repr, Inhabited

/-- Module power states (Table 17-7). -/
inductive PwrState where
  | off | standby | starting | active | idle | deepIdle | safe | emergency
deriving DecidableEq, Repr, Inhabited

/-- Power, clocks and sideband pins (chapter 17). -/
structure Power where
  state : PwrState
  phase : Nat
  safeCause : Nat
  degraded : Bool
  peak : Nat
  sustained : Nat
  sustLimit : Nat
  volt : Nat
  curr : Nat
  avg10 : Nat
  avg1u : Nat
  idleCfg : Word
  good : Nat
  orderFlt : Nat
  conv : Nat
  pPhases : Vector Nat 3
  throttleCnt : Word
  startTick : Vector Nat 6
  trip : Nat
  alert : Nat
  throttle : Nat
  emergencyAt : Nat
  idleSince : Nat
  /-- Last tick at which R507's conditions did not hold, or at which the module became ACTIVE (log 95). -/
  busyAt : Nat
  stepUpSince : Nat
  /-- The OP at which P-dies 0 and 1 hold their C-dies for want of phases (R494). -/
  opHold : Vector Nat 2
  /-- Logic dies at or above ALERT. -/
  hotDies : List Word
  pwrEn : Bool
  resetN : Bool
  vref : Bool
  pwrGood : Bool
  thermtripN : Bool
deriving DecidableEq, Repr, Inhabited

/-- The management port (R483 to R487). -/
structure Mgmt where
  dynAddr : Option Nat
  eid : Nat
  versionSeen : Bool
  capsSeen : Bool
  algsSeen : Bool
  /-- The SPDM messages since GET_VERSION, which signatures cover (R487). -/
  transcript : List Byte
deriving DecidableEq, Repr, Inhabited

/-- The console and the TAP (R491, R492). -/
structure Console where
  chalPending : Bool
  chal : List Byte
  lastInput : Nat
  tries : Nat
  lockUntil : Nat
  rate : Nat
deriving DecidableEq, Repr, Inhabited

/-- What the TAP has selected (R492). -/
structure Jtag where
  instr : JtagOp
deriving DecidableEq, Repr, Inhabited

/-- The last answer to a requester or partner (the model's own port). -/
inductive Answer where
  | none
  | word (v : Word)
  | bytes (b : List Byte) (ep : Bool)
  | unsupportedRequest
  | requestRetry
  | completerAbort
  | retryLater
  | refused (reason : Nat)
deriving DecidableEq, Repr, Inhabited

/-- What the module sends out through a pin or a port (the model's own port): newest first. -/
inductive Out where
  | msix (port entry : Nat)
  | frame (l p : Nat) (f : LinkFrame)
  | memberMsix (entry : Nat)
deriving DecidableEq, Repr, Inhabited

/-- The block: everything the spec gives it, the queue of commands that wait, and two ports of the model's own. -/
structure State where
  pending : List Instr
  tick : Nat
  pwr : Power
  ctxs : Vector Ctx 64
  cdies : Vector CDie 4
  sdies : Vector SDie 12
  ldies : Vector LDie 3
  hdies : Vector HDie 2
  mem : MemSys
  blocks : List BlockWork
  passes : List PassWork
  cpr : Option CprRun
  cols : List ColRun
  far : List FarRun
  evc : Evc
  flt : Flt
  asy : Asy
  cfg : Cfg
  sec : Sec
  req : Vector ReqState 7
  cores : Vector Core 2
  mgmt : Mgmt
  con : Console
  jtag : Jtag
  rsp : Answer
  outs : List Out
  /-- The tick at which a stack below full bandwidth, or a C-die below OP 0, last became another (Table 9-3). -/
  slowEnd : Nat
  /-- Numbers the free values drawn so far: the model's own counter, not the spec's. -/
  freeCtr : Nat
deriving DecidableEq, Repr, Inhabited

/-- Why a run stops on a fault. Both leave no false claim provable. -/
inductive Fault where
  /-- An idle step would carry the tick counter past 64 bits, which R313 says never happens in service. Raised by
  `step` alone. Safe: the machine stops where the spec says no machine comes. -/
  | tickWrap
deriving DecidableEq, Repr

/-- Why a command has no meaning. -/
inductive Refusal where
  /-- A command of the table that the model gives no meaning yet. Raised by `exec`'s arms alone. Safe: it stops. -/
  | notModelled (mnemonic : String)
  /-- A TAP instruction other than BYPASS and IDCODE after a maker unlock: R492 enables it and says nothing of what
  it does. Raised by JTAG_INSTRUCTION. Safe: it stops. -/
  | debugInstruction
deriving DecidableEq, Repr

/-! ### The machine right after reset -/

namespace Reset

/-- The default configuration image: every section at the reset value of the register it is destined for. -/
def imageBody : ImageBody where
  coord := ⟨0, 0, 0⟩
  extent := ⟨16, 16, 16⟩
  group := 0
  member := 0
  proxy := false
  portEnable := [true, true, true, true, true, true]
  serLimit := 0x10
  split := 32
  routes :=
    (List.range 64).map (fun j => (j, 4)) ++ (List.range 64).map (fun j => (64 + j, 5)) ++
    (List.range 64).map (fun j => (128 + j, 5)) ++ (List.range 64).map (fun j => (192 + j, 4)) ++
    (List.range 12).map (fun i => (256 + i, 4)) ++ (List.range 24).map (fun i => (268 + i, 5)) ++
    (List.range 7).map (fun i => (296 + i, 1)) ++ (List.range 3).map (fun i => (303 + i, 5)) ++
    [(320, 1), (321, 5), (322, 5), (323, 1), (324, 13), (325, 4), (326, 15), (327, 9), (328, 13), (329, 4)]
  groupEn := 0x7FF#32
  unmasked := List.range 292 ++ rangeFrom 296 10 ++ rangeFrom 320 10
  consoleRate := 115200
  mgmtRole := 0
  peak := 4000
  sustLimit := 3600
  sustStart := 3600
  t1 := 0x5A
  t2 := 0x5F
  t3 := 0x64
  tcrit := 0x69
  fenceLimit := 25000000
  throttle := 0x5F
  alert := 0x64
  ceLimit := 4
  period := 24
  fbCfg := 0x00023440#32
  stormCfg := 0x14141000#32
  rowCfg := 0x80000032#32
  ctxCfg := 0x00000090#32
  rknCfg := 0x009C400F#32
  fraction := 4
  asyMin := 1
  asyMax := 25
  leaseGrace := 0x3D090
  installerKey := []
  installerKeyOk := true
  operatorKeys := [[], [], [], []]

/-- The image that copy 0 of the active partition holds (log 8). -/
def image : Image where
  magic := 0x4A514346
  format := 1
  nsect := 12
  length := 65536
  serial := 0
  part := 0x412
  stepMask := 4
  moduleDigest := []
  headerReservedZero := true
  sections := [⟨1, 512, 64⟩, ⟨2, 576, 64⟩, ⟨3, 640, 64⟩, ⟨4, 704, 64⟩, ⟨5, 768, 64⟩, ⟨6, 832, 64⟩,
    ⟨0x10, 896, 64⟩, ⟨0x11, 960, 64⟩, ⟨0x12, 1024, 64⟩, ⟨0x13, 1088, 64⟩, ⟨0x20, 1152, 3073⟩, ⟨0x21, 4228, 7172⟩]
  body := imageBody
  signature := []
  sigOk := true

def queue : Queue :=
  ⟨.disabled, 0, 6, 0, 0, 0, 0, [], [], 0, false, [], false, none, [], none, 0⟩

def ctx : Ctx where
  state := .free
  err := false
  cfg := 0x00000090#32
  seed := 0
  rgn := 0
  regions := []
  jobStatus := 0
  fault := 0
  faultCmd := 0
  faultStep := 0
  queues := Vector.replicate 5 queue
  sb := Vector.replicate 64 0
  rowCfg := 0x80000032#32
  rowStat := 0
  rowBase := 0
  rowStep := 0
  rowKept := []
  fbCfg := 0x00023440#32
  stormCfg := 0x14141000#32
  stormStat := 0
  stormEnd := 0
  rknCfg := 0x009C400F#32
  admitStat := 0
  miss := 0
  missStep := 0
  layers := []
  rankBase := 0
  rankCfg := 0
  streamCfg := 0x09C409C4#32
  ranks := []
  colBusy := 0
  colTag := 0
  colFlt := 0
  doorbells := 0
  updStarted := []
  reloads := false
  nextFid := 0
  nextReq := 0
  nextLid := 0

def test : TestState := ⟨0, 0, false, none, false, 0⟩

/-- Roles are assigned at the end of self-test (R512, Table 17-10). -/
def tile : Tile :=
  ⟨.off, .none, none, 0, 0, 0, 0, 0, [], false, [], test, [], none, none⟩

def bank : Bank := ⟨.inService, none, test⟩

def unit : SimpleUnit := ⟨.inService, test⟩

def cdie : CDie where
  powered := false
  held := false
  loomCtrl := 0x0000FA03#32
  tiles := Vector.replicate 136 tile
  banks := Vector.replicate 51 bank
  vus := Vector.replicate 16 unit
  cps := Vector.replicate 16 unit
  loomEng := .none
  vecEng := .none
  cpyEng := .none
  vecAwake := false
  cpyAwake := false
  passCnt := 0
  stallCnt := 0
  skipCnt := 0
  flagCnt := 0
  troubleCnt := 0
  scaleCnt := 0
  xformCnt := 0
  remoteCnt := 0
  coalesceCnt := 0
  ctxs := Vector.replicate 64 ⟨0, 0, 0, false, 0, 0⟩
  vnom := 0x96
  op := 0
  powerOp := 0
  thermOp := 0
  temp := 0
  thermSince := 0
  coolSince := none
  wakeEnd := 0

def sdie : SDie where
  held := true
  state := .off
  temp := 0
  sampled := false
  coolSince := none
  fencedSince := 0
  retained := true
  keepWays := 8
  t1 := 0x5A
  t2 := 0x5F
  t3 := 0x64
  tcrit := 0x69
  fenceLimit := 25000000
  split := 32
  ceLimit := 4
  period := 24
  eccCnt := 0
  poisonCnt := 0
  thermCnt := 0
  scrubUnit := 0
  scrubPasses := 0
  addCnt := 0
  tables := ⟨[], [], []⟩
  committed := ⟨[], [], []⟩
  commitGen := 0
  tracker := []
  parity := []
  repairFails := []
  ueRows := []
  pcFenced := []
  windows := []
  cprEng := .none
  cprCmd := 0
  cprStep := 0
  cprElems := 0
  cprEvent := 0
  cprCopy := 0
  cprRoot := 0
  powerHold := 0

def port : Port where
  state := .off
  lanes := Vector.replicate 18 ⟨false, false, false, false⟩
  rtt := 0
  txLseq := 0
  rxLseq := 0
  nakSent := false
  retry := []
  retryCnt := 0
  stateSince := 0
  fencing := false
  neighbourDrain := false
  enabledByImage := true

def ldie : LDie where
  held := true
  ports := Vector.replicate 2 port
  router := .forwarding
  drainStart := 0
  serLimit := 0x10
  coord := ⟨0, 0, 0⟩
  member := 0
  proxy := false
  deflects := 0
  golden := 0
  drop := 0
  colCnt := 0
  wireBytes := 0
  leases := []
  streams := []
  inputs := []
  acksOut := []
  acksIn := []

def hdie : HDie where
  held := true
  linkUp := false
  inReset := true
  speed := 0
  width := 0
  flit := false
  hwinOffset := 0
  bar2Win := 0
  bar2Log2 := 41
  errCnt := 0
  msixEnable := false
  msixMask := List.range 130
  msixData := []
  pba := []
  cfgSpace := []
  port := unit
  bar4Waiting := []

def evc : Evc where
  pend := []
  cond := []
  mask := Vector.replicate 32 0xFFFFFFFF#32
  groupEn := 0
  routes := Vector.replicate 128 0
  insvc := Vector.replicate 6 none
  thresh := Vector.replicate 6 0x400#32
  scratch := Vector.replicate 96 0
  hostPort := 0
  spurious := 0
  badComplete := 0
  failovers := 0

def flt : Flt where
  ringBase := 0
  ringLog2 := 0x0A
  ringEn := false
  head := 0
  tail := 0
  lost := 0
  seq := 0
  recs := []
  fenceUnit := 0
  fenced := []
  grace := 0x3D090
  leaseCnt := 0
  leases := []
  nextLease := 0
  tallyBase := 0
  unread := 0
  nextSlot := 0
  slots := []

def cfg : Cfg where
  makerKeyOk := true
  inForce := imageBody
  serial := 0
  copies := #v[some (image, 1), none]
  activeCopy := 0
  staged := none
  stagedValid := false
  transferOpen := false
  pendingCold := false
  lastResult := 0
  fw := #v[⟨some ⟨[], 0, true⟩, true, true, 1⟩, ⟨none, false, false, 0⟩]
  fwSlot := 0
  bootCount := 0
  minSvn := 0
  moduleDigest := []
  makerDigest := []
  activating := none
  adopting := false

def reqState : ReqState where
  readLatch := []
  writeLatch := []
  tileSel := 0
  rknSel := 0
  recSel := 0
  routeLock := false
  authCtrl := 0
  sess := .none
  role := .none
  keySlot := 0
  chal := []
  chalLive := false
  tries := 0
  fails := 0
  lockUntil := 0
  sig := []

def power : Power where
  state := .standby
  phase := 0
  safeCause := 0
  degraded := false
  peak := 4000
  sustained := 3600
  sustLimit := 3600
  volt := 0
  curr := 0
  avg10 := 0
  avg1u := 0
  idleCfg := 0x640161A8#32
  good := 0
  orderFlt := 0
  conv := 0
  pPhases := Vector.replicate 3 0
  throttleCnt := 0
  startTick := Vector.replicate 6 0
  trip := 0x73
  alert := 0x64
  throttle := 0x5F
  emergencyAt := 0
  idleSince := 0
  busyAt := 0
  stepUpSince := 0
  opHold := Vector.replicate 2 0
  hotDies := []
  pwrEn := false
  resetN := true
  vref := true
  pwrGood := false
  thermtripN := true

def mem : MemSys := ⟨[], [], [], [], [], [], [], []⟩

end Reset

/-- The machine right after reset: the Reset column of every register (R11), the always-on rails good, STANDBY and
start phase 0 (R506, R512), every other die unpowered, flash as log 8 names it. -/
def State.reset : State where
  pending := []
  tick := 0
  pwr := Reset.power
  ctxs := Vector.replicate 64 Reset.ctx
  cdies := Vector.replicate 4 Reset.cdie
  sdies := Vector.replicate 12 Reset.sdie
  ldies := Vector.replicate 3 Reset.ldie
  hdies := Vector.replicate 2 Reset.hdie
  mem := Reset.mem
  blocks := []
  passes := []
  cpr := none
  cols := []
  far := []
  evc := Reset.evc
  flt := Reset.flt
  asy := ⟨4, true, 1, 25, 0, 0⟩
  cfg := Reset.cfg
  sec := ⟨0, false, false, [], [], 0, 0⟩
  req := Vector.replicate 7 Reset.reqState
  cores := #v[⟨.active, none, false, false⟩, ⟨.standby, none, false, false⟩]
  mgmt := ⟨none, 0, false, false, false, []⟩
  con := ⟨false, [], 0, 0, 0, 115200⟩
  jtag := ⟨.idcode⟩
  rsp := .none
  outs := []
  slowEnd := 0
  freeCtr := 0

end Sys2Proof.Machine
end

