-- ==== Sys2Proof/Machine/Mem.lean ====
section
/-! DEFINITION. Sparse memories in canonical form, where a stack address lies (R327), and the memory-side cache
(R328 to R330). -/

namespace Sys2Proof.Machine

/-! ### Canonical sparse memory -/

/-- The byte at an address; an unlisted one reads 0x00 (log 5). -/
def Memory.read : Memory → Nat → Byte
  | [], _ => 0
  | (x, b) :: m, a => if a = x then b else if a < x then 0 else Memory.read m a

/-- A byte written, the form kept canonical. -/
def Memory.write : Memory → Nat → Byte → Memory
  | [], a, b => if b = 0 then [] else [(a, b)]
  | (x, c) :: m, a, b =>
    if a < x then (if b = 0 then (x, c) :: m else (a, b) :: (x, c) :: m)
    else if a = x then (if b = 0 then m else (a, b) :: m)
    else (x, c) :: Memory.write m a b

/-- `n` bytes from an address upward. -/
def Memory.readN (m : Memory) : Nat → Nat → List Byte
  | _, 0 => []
  | a, n + 1 => m.read a :: Memory.readN m (a + 1) n

/-- Bytes written from an address upward. -/
def Memory.writeN (m : Memory) : Nat → List Byte → Memory
  | _, [] => m
  | a, b :: bs => Memory.writeN (m.write a b) (a + 1) bs

/-- Every byte of `[lo, hi)` back to what an unlisted address reads as. -/
def Memory.clear (m : Memory) (lo hi : Nat) : Memory := m.filter (fun c => !(decide (lo ≤ c.1) && decide (c.1 < hi)))

/-- The canonical form: addresses strictly rising, no listed byte equal to what an unlisted one reads as. -/
def Memory.wf : Memory → Bool
  | [] => true
  | [(_, b)] => b != 0
  | (x, b) :: (y, c) :: m => decide (x < y) && b != 0 && Memory.wf ((y, c) :: m)

/-! ### Where an address lies -/

/-- The kinds of place of Table 19-1. -/
inductive Place where
  | stack (st off : Nat)
  | pad (die off : Nat)
  | host (port addr : Nat)
  | regs (off : Nat)
  | none
deriving DecidableEq, Repr

def gib : Nat := 2 ^ 30

/-- The stack and stack offset of a device address below 0x0120_0000_0000 (R327). -/
def stackOf (split a : Nat) : Nat × Nat :=
  if a < 12 * split * gib then
    ((a / 4096) % 12, (a / 4096 / 12) * 4096 + a % 4096)
  else
    let w := a - 12 * split * gib
    let span := 3 * (96 - split) * gib
    let g := (w % span) / 4096
    (3 * (w / span) + g % 3, split * gib + (g / 3) * 4096 + a % 4096)

/-- The device address of a stack offset below 96 GiB: the inverse of `stackOf`. -/
def deviceOf (split st off : Nat) : Nat :=
  if off < split * gib then (off / 4096 * 12 + st) * 4096 + off % 4096
  else
    let o := off - split * gib
    12 * split * gib + (st / 3) * (3 * (96 - split) * gib) + (o / 4096 * 3 + st % 3) * 4096 + off % 4096

/-- The pseudo-channel, stack ID, bank and row of a stack offset (R327). -/
def rowOf (off : Nat) : RowId where
  pc := Nat.xor (bitsOf off 13 8) (bitsOf off 19 14)
  sid := bitsOf off 21 20
  bank := bitsOf off 19 16
  row := off / 2 ^ 22

/-- The stack offset of slot `k` of a row: the inverse of `rowOf`. -/
def slotOffset (r : RowId) (k : Nat) : Nat :=
  r.row * 2 ^ 22 + r.sid * 2 ^ 20 + r.bank * 2 ^ 16 + k * 2 ^ 14 + Nat.xor r.pc (r.bank * 4 + k) * 2 ^ 8

/-- Where a stack offset's contents stand: a retired page at its pool page (R339), then a remapped row at its spare,
which stands past the 24,960 rows of its bank (R337). -/
def repaired (t : RepairTables) (off : Nat) : Nat :=
  let off := match t.retired.find? (fun p => p.1 == off / 4096) with
    | some p => p.2 * 4096 + off % 4096
    | none => off
  match t.remaps.find? (fun m => m.row == rowOf off) with
  | some m => (24960 + m.spare) * 2 ^ 22 + off % 2 ^ 22
  | none => off

/-- The stack offset whose contents stand at a place: the inverse of `repaired`. -/
def unrepaired (t : RepairTables) (off : Nat) : Nat :=
  let r := rowOf off
  let off := match t.remaps.find? (fun m => decide (24960 ≤ r.row) && m.spare == r.row - 24960 &&
      m.row.pc == r.pc && m.row.sid == r.sid && m.row.bank == r.bank) with
    | some m => m.row.row * 2 ^ 22 + off % 2 ^ 22
    | none => off
  match t.retired.find? (fun p => p.2 == off / 4096) with
  | some p => p.1 * 4096 + off % 4096
  | none => off

/-- The key of a stack byte in `dram`. -/
def dramKey (st off : Nat) : Nat := st * 2 ^ 37 + off

/-- The key of a scratchpad byte in `pad`: window and offset (R544). -/
def padKey (die off : Nat) : Nat := die * 2 ^ 28 + off

/-- The key of a host byte in `host`: port and host bus address (R475). -/
def hostKey (port addr : Nat) : Nat := port * 2 ^ 64 + addr

/-- The row of Table 19-1 that an address belongs to. -/
def placeOf (s : State) (a : Nat) : Place :=
  if a < 0x012000000000 then
    let p := stackOf (s.sdies[0].split) a
    .stack p.1 p.2
  else if 0x080000000000 ≤ a ∧ a < 0x080040000000 then
    let o := a - 0x080000000000
    if o % 0x10000000 < 0x0C000000 then .pad (o / 0x10000000) (o % 0x10000000) else .none
  else if 0x0C0000000000 ≤ a ∧ a < 0x0E0000000000 then
    let h := (a - 0x0C0000000000) / 2 ^ 40
    .host h ((s.hdies[Fin.ofNat 2 h].hwinOffset + (a - 0x0C0000000000 - h * 2 ^ 40)) % 2 ^ 64)
  else if 0x0F0000000000 ≤ a ∧ a < 0x0F0000440000 then .regs (a - 0x0F0000000000)
  else .none

/-! ### DRAM units -/

/-- Whether a DRAM unit (key / 64) is poisoned. -/
def dramPoisoned (s : State) (unit : Nat) : Bool := Ranges.has s.mem.dramPoison unit

/-- The poison of a DRAM unit set to `b`. -/
def MemSys.setDramPoison (m : MemSys) (unit : Nat) (b : Bool) : MemSys :=
  { m with dramPoison := Ranges.set m.dramPoison unit b }

/-- The 64 B unit `u` of line `line` of a stack, as DRAM holds it. -/
def dramUnit (s : State) (st line u : Nat) : List Byte × Bool :=
  let off := repaired s.sdies[Fin.ofNat 12 st].tables (line * 256 + u * 64)
  (s.mem.dram.readN (dramKey st off) 64, dramPoisoned s (dramKey st off / 64))

/-- A DRAM unit written whole with its poison (R336). -/
def writeDramUnit (s : State) (st line u : Nat) (data : List Byte) (poison : Bool) : State :=
  let d := s.sdies[Fin.ofNat 12 st]
  let k := dramKey st (repaired d.tables (line * 256 + u * 64))
  { s with mem := ({ s.mem with dram := s.mem.dram.writeN k data } : MemSys).setDramPoison (k / 64) poison }

/-! ### The memory-side cache -/

def Line.same (st line : Nat) (l : Line) : Bool := l.stack == st && l.line == line

/-- Lines of the same set of the same stack (R328). -/
def Line.sameSet (st line : Nat) (l : Line) : Bool := l.stack == st && l.line % 8192 == line % 8192

def MemSys.findLine (m : MemSys) (st line : Nat) : Option Line := m.cache.find? (Line.same st line)

def MemSys.dropLine (m : MemSys) (st line : Nat) : MemSys :=
  { m with cache := m.cache.filter (fun l => !l.same st line) }

/-- A line put in as the most recently used. -/
def MemSys.putLine (m : MemSys) (l : Line) : MemSys :=
  { m with cache := l :: (m.cache.filter (fun x => !x.same l.stack l.line)) }

/-- The dirty units of a line written back; poison in the line is kept (Table 10-5), otherwise cleared (R336). -/
def writeBack (s : State) (l : Line) : State :=
  (List.range 4).foldl (fun s u =>
    if l.dirty.getD u false then
      writeDramUnit s l.stack l.line u ((l.data.drop (64 * u)).take 64) (l.poison.getD u false)
    else s) s

/-- The quota of protected lines per set (R329, R342). -/
def quota (s : State) (st : Nat) : Nat := min 8 (s.sdies[Fin.ofNat 12 st].keepWays.field 3 0)

/-- The least recently used line of a set with a class. -/
def oldestOf (m : MemSys) (st line : Nat) (c : LineClass) : Option Line :=
  (m.cache.filter (fun l => l.sameSet st line && l.cls == c)).getLast?

def protCount (m : MemSys) (st line : Nat) : Nat :=
  (m.cache.filter (fun l => l.sameSet st line && l.cls == .prot)).length

/-- Whether every ordinary line of the set was used before the set's oldest protected line (R329). -/
def oldestProtNewer (m : MemSys) (st line : Nat) : Bool :=
  let set := m.cache.filter (fun l => l.sameSet st line)
  match set.reverse.findIdx? (fun l => l.cls == .prot), set.reverse.findIdx? (fun l => l.cls == .ordinary) with
  | some p, some _ => ((set.reverse.drop p).all (fun l => l.cls == .prot))
  | some _, none => true
  | none, _ => false

/-- A line of the set evicted: its dirty units written back, then dropped (R329). -/
def evict (s : State) (l : Line) : State :=
  let s := writeBack s l
  { s with mem := s.mem.dropLine l.stack l.line }

/-- Room made in a set for a line of class `c`, and the class the new line gets (R329). -/
def makeRoom (s : State) (st line : Nat) (c : LineClass) : State × LineClass :=
  let full := 16 ≤ (s.mem.cache.filter (fun l => l.sameSet st line)).length
  let quotaFull := quota s st ≤ protCount s.mem st line
  let c := if c == .prot && (quota s st == 0 || (quotaFull && oldestProtNewer s.mem st line)) then .ordinary else c
  if c == .prot && quotaFull then
    match oldestOf s.mem st line .prot with
    | some l => (evict s l, .prot)
    | none => (s, .prot)
  else if full then
    match oldestOf s.mem st line .ordinary with
    | some l => (evict s l, c)
    | none =>
      match oldestOf s.mem st line .prot with
      | some l => (evict s l, c)
      | none => (s, c)
  else (s, c)

/-- A line filled from DRAM. -/
def fillLine (s : State) (st line : Nat) (c : LineClass) (owner : Option Nat) : Line :=
  let u := (List.range 4).map (dramUnit s st line)
  { stack := st, line := line, cls := c, owner := owner, dirty := [false, false, false, false],
    poison := u.map (·.2), data := (u.map (·.1)).flatten }

/-- A line allocated and filled. -/
def allocate (s : State) (st line : Nat) (c : LineClass) (owner : Option Nat) : State × Line :=
  let (s, c) := makeRoom s st line c
  let l := fillLine s st line c (if c == .prot then owner else none)
  ({ s with mem := s.mem.putLine l }, l)

/-- A KEEP access that hits an ORDINARY line (R329). -/
def promote (s : State) (l : Line) (owner : Option Nat) : State × Line :=
  if l.cls == .prot then (s, l)
  else if protCount s.mem l.stack l.line < quota s l.stack then (s, { l with cls := .prot, owner := owner })
  else if quota s l.stack == 0 || oldestProtNewer s.mem l.stack l.line then (s, l)
  else
    match oldestOf s.mem l.stack l.line .prot with
    | some p =>
      let c := s.mem.cache.map (fun x => if x.same p.stack p.line then { x with cls := .ordinary, owner := none } else x)
      ({ s with mem := { s.mem with cache := c } }, { l with cls := .prot, owner := owner })
    | none => (s, l)

/-- Lowering the quota demotes the oldest protected lines of every set (R329). -/
def demoteExcess (m : MemSys) (st keep : Nat) : MemSys :=
  { m with cache := (List.range m.cache.length).map (fun i =>
      match m.cache[i]? with
      | none => default
      | some l =>
        if l.stack == st && l.cls == .prot &&
            keep ≤ ((m.cache.take i).filter (fun x => x.sameSet st l.line && x.cls == .prot)).length then
          { l with cls := .ordinary, owner := none }
        else l) }

/-- Protected lines that a context allocated become ordinary (R329). -/
def demoteOwner (m : MemSys) (j : Nat) : MemSys :=
  { m with cache := m.cache.map (fun l => if l.owner == some j then { l with cls := .ordinary, owner := none } else l) }

/-- Bytes of a list replaced from an offset. -/
def splice (l : List Byte) (off : Nat) (d : List Byte) : List Byte := l.take off ++ d ++ l.drop (off + d.length)

/-- What one 64 B unit's poison becomes when `[off, off+n)` of its line is written: a full write sets it to `p`, a
part write leaves it, or adds the writer's poison (R336). -/
def poisonAfter (old : List Bool) (off n : Nat) (p : Bool) : List Bool :=
  (List.range 4).map (fun u =>
    let o := old.getD u false
    if off ≤ 64 * u && 64 * (u + 1) ≤ off + n then p
    else if off < 64 * (u + 1) && 64 * u < off + n then o || p
    else o)

def dirtyAfter (old : List Bool) (off n : Nat) : List Bool :=
  (List.range 4).map (fun u => old.getD u false || (decide (off < 64 * (u + 1)) && decide (64 * u < off + n)))

/-- What one read returns: the bytes, and whether any unit they come from is poisoned. -/
structure ReadOut where
  data : List Byte
  poison : Bool
deriving DecidableEq, Repr, Inhabited

/-- Whether any unit of `[off, off+n)` is poisoned. -/
def anyPoison (p : List Bool) (off n : Nat) : Bool :=
  (List.range 4).any (fun u => p.getD u false && decide (off < 64 * (u + 1)) && decide (64 * u < off + n))

/-- A read of `n` bytes inside one line (Table 10-3). -/
def lineRead (s : State) (st line off n : Nat) (h : Hint) (owner : Option Nat) : ReadOut × State :=
  match s.mem.findLine st line with
  | some l =>
    let out : ReadOut := ⟨(l.data.drop off).take n, anyPoison l.poison off n⟩
    match h with
    | .stream => (out, { s with mem := s.mem.putLine l })
    | .keep =>
      let (s, l) := promote s l owner
      (out, { s with mem := s.mem.putLine l })
    | .last => (out, { s with mem := s.mem.dropLine st line })
  | none =>
    match h with
    | .keep =>
      let (s, l) := allocate s st line .prot owner
      (⟨(l.data.drop off).take n, anyPoison l.poison off n⟩, s)
    | _ =>
      let l := fillLine s st line .ordinary none
      (⟨(l.data.drop off).take n, anyPoison l.poison off n⟩, s)

/-- A line with bytes written into it. -/
def Line.written (l : Line) (off : Nat) (d : List Byte) (p : Bool) : Line :=
  { l with data := splice l.data off d, poison := poisonAfter l.poison off d.length p,
           dirty := dirtyAfter l.dirty off d.length }

/-- A write of bytes inside one line (Table 10-3). A write of part of a unit that misses is merged in DRAM. -/
def lineWrite (s : State) (st line off : Nat) (d : List Byte) (h : Hint) (p : Bool) (owner : Option Nat) : State :=
  match s.mem.findLine st line with
  | some l =>
    let (s, l) := if h == .keep then promote s l owner else (s, l)
    { s with mem := s.mem.putLine (l.written off d p) }
  | none =>
    match h with
    | .stream =>
      let l := (fillLine s st line .ordinary none).written off d p
      writeBack s l
    | .keep =>
      let (s, l) := allocate s st line .prot owner
      { s with mem := s.mem.putLine (l.written off d p) }
    | .last =>
      let (s, l) := allocate s st line .ordinary none
      { s with mem := s.mem.putLine (l.written off d p) }

/-- Lines read with LAST, by stack and number, leave the cache, dirty units discarded (R330). -/
def MemSys.dropLines (m : MemSys) (l : List (Nat × Nat)) : MemSys := l.foldl (fun m r => m.dropLine r.1 r.2) m

end Sys2Proof.Machine
end

