-- ==== Sys2Proof/Machine/Ops.lean ====
section
/-! DEFINITION. The operations every family shares: one part of the state replaced, free values, unit identifiers,
events (chapter 15), error records (R449, R450), accesses to memory, job faults (R276) and decode rejections (R275). -/

namespace Sys2Proof.Machine

/-! ### One part of the state replaced -/

def State.modCtx (s : State) (j : JobIx) (f : Ctx → Ctx) : State := { s with ctxs := upd s.ctxs j f }
def Ctx.modQ (c : Ctx) (e : EngIx) (f : Queue → Queue) : Ctx := { c with queues := upd c.queues e f }
def State.modQ (s : State) (j : JobIx) (e : EngIx) (f : Queue → Queue) : State := s.modCtx j (fun c => c.modQ e f)
def State.modCDie (s : State) (d : CIx) (f : CDie → CDie) : State := { s with cdies := upd s.cdies d f }
def State.modTile (s : State) (d : CIx) (t : TileIx) (f : Tile → Tile) : State :=
  s.modCDie d (fun c => { c with tiles := upd c.tiles t f })
def State.modSDie (s : State) (st : SIx) (f : SDie → SDie) : State := { s with sdies := upd s.sdies st f }
def State.modLDie (s : State) (l : LIx) (f : LDie → LDie) : State := { s with ldies := upd s.ldies l f }
def State.modPort (s : State) (l : LIx) (p : PortIx) (f : Port → Port) : State :=
  s.modLDie l (fun d => { d with ports := upd d.ports p f })
def State.modHDie (s : State) (h : HIx) (f : HDie → HDie) : State := { s with hdies := upd s.hdies h f }
def State.modReq (s : State) (rq : Requester) (f : ReqState → ReqState) : State :=
  { s with req := upd s.req rq.code f }
def State.ctx (s : State) (j : JobIx) : Ctx := s.ctxs[j]
def State.queue (s : State) (j : JobIx) (e : EngIx) : Queue := s.ctxs[j].queues[e]
def State.reqOf (s : State) (rq : Requester) : ReqState := s.req[rq.code]
def State.answer (s : State) (a : Answer) : State := { s with rsp := a }
def State.setFlt (s : State) (f : Flt → Flt) : State := { s with flt := f s.flt }
def State.modAsy (s : State) (f : Asy → Asy) : State := { s with asy := f s.asy }
def State.setPwr (s : State) (f : Power → Power) : State := { s with pwr := f s.pwr }

/-- The next free value of the run (log 2). -/
def State.free (s : State) : Nat := Config.freeNat s.freeCtr
def State.drawn (s : State) : State := { s with freeCtr := s.freeCtr + 1 }

/-- The `n` next free bytes. -/
def freeBytes (k n : Nat) : List Byte := (List.range n).map (fun i => BitVec.ofNat 8 (Config.freeNat k / 256 ^ i))

/-- A sticky field of the job status word set (R291). -/
def State.setStatus (s : State) (j : JobIx) (i : Nat) : State :=
  s.modCtx j (fun c => { c with jobStatus := c.jobStatus ||| Word.at' 1 i })

/-! ### Unit identifiers (R34, Table 1-5) -/

def unitId (dieType die cls ix : Nat) : Word := BitVec.ofNat 32 (dieType * 2 ^ 28 + die * 2 ^ 24 + cls * 2 ^ 16 + ix)

/-- The index range of a sub-unit class of a die (Table 1-5, R494, R35); 0 where the class is absent. -/
def classSize (dieType die cls : Nat) : Nat :=
  match dieType, cls with
  | 1, 0 | 2, 0 | 3, 0 | 4, 0 | 5, 0 | 6, 0 => 1
  | 1, 1 => 136 | 1, 2 => 51 | 1, 3 => 16 | 1, 4 => 16 | 1, 5 => 1 | 1, 6 => 1 | 1, 7 => 2
  | 2, 0x10 => 64 | 2, 0x11 => 1 | 2, 0x12 => 1 | 2, 0x13 => 1 | 2, 0x14 => 1 | 2, 0x15 => 1
  | 3, 0x20 => 2 | 3, 0x21 => 36 | 3, 0x22 => 1 | 3, 0x23 => 1 | 3, 0x24 => 1
  | 4, 0x30 => 1
  | 5, 0x40 => 2 | 5, 0x41 => 1 | 5, 0x42 => 1 | 5, 0x43 => 1 | 5, 0x44 => 1 | 5, 0x45 => 1 | 5, 0x46 => 12
  | 6, 0x50 => if die = 2 then 16 else 24
  | 6, 0x51 => if die = 2 then 3 else 2
  | _, _ => 0

def dieCount (dieType : Nat) : Nat :=
  match dieType with
  | 1 => 4 | 2 => 12 | 3 => 3 | 4 => 2 | 5 => 1 | 6 => 3 | _ => 0

/-- The four parts of a unit identifier. -/
structure UnitName where
  dieType : Nat
  die : Nat
  cls : Nat
  ix : Nat
deriving DecidableEq, Repr

def unitName (w : Word) : UnitName := ⟨w.field 31 28, w.field 27 24, w.field 23 16, w.field 15 0⟩

/-- Whether Table 1-5 has the unit (R35). -/
def unitExists (w : Word) : Bool :=
  let u := unitName w
  u.die < dieCount u.dieType && u.ix < classSize u.dieType u.die u.cls

/-! ### Events (chapter 15) -/

/-- The level events of Table 15-1. -/
def levelEvent (e : Nat) : Bool := (280 ≤ e && e < 292) || e == 302 || e == 320 || e == 325 || e == 327

/-- The numbers Table 15-1 marks reserved: writes to their bits are ignored (R455). -/
def reservedEvent (e : Nat) : Bool :=
  (292 ≤ e && e < 296) || (306 ≤ e && e < 320) || (330 ≤ e && e < 960)

/-- The reserved numbers and the spurious number never become pending (R455). -/
def neverPends (e : Nat) : Bool := reservedEvent e || decide (1023 ≤ e)

def Evc.maskBit (v : Evc) (e : Nat) : Bool := v.mask[Fin.ofNat 32 (e / 32)].bit (e % 32)
def Evc.route (v : Evc) (e : Nat) : Nat := v.routes[Fin.ofNat 128 (e / 8)].field (4 * (e % 8) + 3) (4 * (e % 8))
def bankIx (t : Fin 3) (c : Fin 2) : Fin 6 := ⟨2 * t.val + c.val, by omega⟩
def Evc.served (v : Evc) (e : Nat) : Bool := (List.range 6).any (fun i => v.insvc[Fin.ofNat 6 i] == some e)

/-- The pending bit of an event (R456). -/
def Evc.pending (v : Evc) (e : Nat) : Bool :=
  if levelEvent e then v.cond.contains e && !v.served e else v.pend.contains e

/-- Eligibility of an event for a bank (R459, R462). -/
def Evc.eligible (v : Evc) (t : Fin 3) (c : Fin 2) (e : Nat) : Bool :=
  v.pending e && !v.maskBit e && v.groupEn.bit (e / 32) && (v.route e).testBit t.val &&
  ((v.route e).testBit 3 == (c.val == 1)) && !v.served e && decide (e < (v.thresh[bankIx t c]).field 10 0) &&
  v.insvc[bankIx t c].isNone && (c.val == 1 || v.insvc[bankIx t 1].isNone)

/-- The lowest eligible event of a bank (R461). -/
def Evc.lowest (v : Evc) (t : Fin 3) (c : Fin 2) : Option Nat := ((v.pend ++ v.cond).filter (v.eligible t c)).min?

/-- A packet put behind the waiting ones of a stream, with the stream's next SEQ (R401, R402). `who` is the engine and
the flight that send it. -/
def SrcStream.push (x : SrcStream) (src : Coord) (who : Nat × Nat) (p : Packet) : SrcStream :=
  let p := { p with
    dst := x.dstAt
    src := src
    job := x.dstCtx
    channel := x.channel
    dstRank := x.dstRank
    sys := x.sys
    seq := x.nextSeq % 65536 }
  { x with
    waiting := x.waiting ++ [p]
    sent := x.sent ++ [who]
    nextSeq := (x.nextSeq + 1) % 65536 }

def LDie.pushOn (d : LDie) (sel : SrcStream → Bool) (who : Nat × Nat) (p : Packet) : LDie :=
  { d with streams := modFirst sel (fun x => x.push d.coord who p) d.streams }

/-- The sender of packets that no command waits for. -/
def nobody : Nat × Nat := (5, 0)

/-- A packet put behind the waiting ones of the module's system stream to its proxy, when it is open (R409). -/
def State.sendSystem (s : State) (p : Packet) : State :=
  let p := { p with srcRank := s.cfg.inForce.member }
  { s with ldies := s.ldies.map (fun (d : LDie) => d.pushOn (fun x => x.sys && !x.closed) nobody p) }

/-- A message of an entry of a port's MSI-X table: held in the PBA while masked or disabled (R478). -/
def HDie.message (d : HDie) (entry : Nat) : HDie :=
  if d.msixEnable && !d.msixMask.contains entry then d else { d with pba := insertNat entry d.pba }

def HDie.sends (d : HDie) (entry : Nat) : Bool := d.msixEnable && !d.msixMask.contains entry

/-- A port is down or fenced for MSI-X writes (R460). -/
def HDie.down (d : HDie) : Bool := !d.linkUp || d.inReset || d.held || d.port.state == .fenced

/-- The port an MSI-X write goes out on: the one EVC_HOST_CFG names, or the other when that is down (R460). -/
def State.msixPort (s : State) : HIx :=
  let h : HIx := Fin.ofNat 2 s.evc.hostPort
  let o : HIx := Fin.ofNat 2 (s.evc.hostPort + 1)
  if s.hdies[h].down && !s.hdies[o].down then o else h

def State.msixOn (s : State) (h : HIx) (entry : Nat) : State :=
  let s' := s.modHDie h (fun d => d.message entry)
  if s.hdies[h].sends entry then { s' with outs := .msix h.val entry :: s'.outs } else s'

/-- Whether the module is a member of a host group behind a proxy (R409). -/
def State.isMember (s : State) : Bool := s.cfg.inForce.group != 0 && !s.cfg.inForce.proxy

/-- An MSI-X write of class `c` (R460, R478). -/
def State.sendMsix (s : State) (c : Nat) : State :=
  if s.isMember then
    let p : Packet := { (default : Packet) with kind := .proxyRsp, length := 4, tag := 1 }
    let s := s.sendSystem { p with payload := BitVec.ofNat 8 c :: List.replicate 255 0 }
    { s with outs := .memberMsix c :: s.outs }
  else s.msixOn s.msixPort c

/-- The event controller changed, and the host told of a bank that has gained an eligible event (R460). -/
def State.evUpdate (s : State) (f : Evc → Evc) : State :=
  let v := f s.evc
  let fresh := fun c : Fin 2 => (s.evc.lowest 2 c).isNone && (v.lowest 2 c).isSome
  let s := { s with evc := v }
  let s := if fresh 0 then s.sendMsix 0 else s
  if fresh 1 then s.sendMsix 1 else s

/-- A source asserts an edge event (R456). -/
def State.raise (s : State) (e : Nat) : State :=
  if neverPends e || levelEvent e then s else s.evUpdate (fun v => { v with pend := insertNat e v.pend })

/-- A level source's condition becomes `b` (R456). -/
def State.setCond (s : State) (e : Nat) (b : Bool) : State :=
  if !levelEvent e then s
  else s.evUpdate (fun v => { v with cond := if b then insertNat e v.cond else eraseNat e v.cond })

/-! ### Access to memory -/

/-- How a stack meets an access (R322 to R324). -/
inductive StackAccess where
  | serves | waits | gone
deriving DecidableEq, Repr

def StackState.access : StackState → StackAccess
  | .normal | .step75 | .step50 | .step25 => .serves
  | .offline => .gone
  | .off | .training | .fenced | .selfRefresh => .waits

/-- How a stack offset meets an access: a fenced pseudo-channel's slots are gone (Table 14-1). -/
def slotAccess (s : State) (st off : Nat) : StackAccess :=
  let d := s.sdies[Fin.ofNat 12 st]
  match d.state.access with
  | .serves => if d.pcFenced.contains (rowOf off).pc then .gone else .serves
  | a => a

/-- Whether an address lies in one of its stack's poison windows (R438). -/
def inWindow (s : State) (st a n : Nat) : Bool :=
  s.sdies[Fin.ofNat 12 st].windows.any (fun w => decide (a < w.1 + w.2) && decide (w.1 < a + n))

/-- Whether the bank that serves a scratchpad position is gone: no bank holds the position (Table 14-1). -/
def padGone (s : State) (die off : Nat) : Bool :=
  let d := s.cdies[Fin.ofNat 4 die]
  d.held || !d.powered || !(List.range 51).any (fun i => d.banks[Fin.ofNat 51 i].pos == some ((off / 512) % 48))

/-- Whether a host port answers the module's requests (R476). -/
def hostServes (s : State) (h : Nat) : Bool := !s.hdies[Fin.ofNat 2 h].down

/-- Whether a 64 B unit of the scratchpad that `[off, off+n)` touches holds poison (R335, R336). -/
def padPoisoned (s : State) (die off n : Nat) : Bool :=
  (List.range (n / 64 + 2)).any (fun i =>
    decide (padKey die off / 64 + i ≤ (padKey die off + n - 1) / 64) &&
    Ranges.has s.mem.padPoison (padKey die off / 64 + i))

/-- The result of one access of a command. -/
structure Got where
  data : List Byte
  poison : Bool
  waits : Bool
  /-- The stacks that have given poison. -/
  bad : List Nat := []
deriving DecidableEq, Repr, Inhabited

/-- A read of `n` bytes that stay inside one 256 B line. -/
def readPiece (s : State) (j : Option Nat) (a n : Nat) (h : Hint) : Got × State :=
  match placeOf s a with
  | .stack st off =>
    match slotAccess s st off with
    | .waits => (⟨List.replicate n 0, false, true, []⟩, s)
    | .gone => (⟨List.replicate n 0, true, false, [st]⟩, s)
    | .serves =>
      let (o, s) := lineRead s st (off / 256) (off % 256) n h j
      let p := o.poison || inWindow s st a n
      (⟨o.data, p, false, if p then [st] else []⟩, s)
  | .pad die off =>
    (⟨s.mem.pad.readN (padKey die off) n, padGone s die off || padPoisoned s die off n, false, []⟩, s)
  | .host p b =>
    let bad := !hostServes s p || (List.range (n / 64 + 2)).any (fun i =>
      decide (b / 64 + i ≤ (b + n - 1) / 64) && Ranges.has s.mem.hostBad (hostKey p b / 64 + i))
    let s := if bad then s.modHDie (Fin.ofNat 2 p) (fun d => { d with errCnt := d.errCnt.bump 31 16 1 }) else s
    (⟨s.mem.host.readN (hostKey p b) n, bad, false, []⟩, s)
  | _ => (⟨List.replicate n 0, false, false, []⟩, s)

/-- The pieces of `[a, a+n)` that stay inside one 64 B unit each: fuel, address, length. -/
def pieces (step : Nat) : Nat → Nat → Nat → List (Nat × Nat)
  | 0, _, _ => []
  | _ + 1, _, 0 => []
  | f + 1, a, n => let k := min n (step - a % step); (a, k) :: pieces step f (a + k) (n - k)

/-- A read of any length: bytes in order, poison of any piece, and whether any piece waits. -/
def readMem (s : State) (j : Option Nat) (a n : Nat) (h : Hint) : Got × State :=
  (pieces 256 (n + 1) a n).foldl (fun (g, s) (a, k) =>
    let (r, s) := readPiece s j a k h
    (⟨g.data ++ r.data, g.poison || r.poison, g.waits || r.waits, (g.bad ++ r.bad).eraseDups⟩, s))
    (⟨[], false, false, []⟩, s)

/-- Units written poisoned and consumptions counted on a stack (R343). -/
def State.countPoison (s : State) (st written consumed : Nat) : State :=
  s.modSDie (Fin.ofNat 12 st) (fun d => { d with poisonCnt := (d.poisonCnt.bump 31 16 written).bump 15 0 consumed })

/-- A consumption counted on every stack that has given a read poison (R335, R343). -/
def State.countConsumed (s : State) (g : Got) : State := g.bad.foldl (fun s st => s.countPoison st 0 1) s

/-- A write of bytes that stay inside one 256 B line, with their poison (R324, R328, R336). -/
def writePiece (s : State) (j : Option Nat) (a : Nat) (d : List Byte) (h : Hint) (p : Bool) : State :=
  match placeOf s a with
  | .stack st off =>
    match slotAccess s st off with
    | .waits => { s with mem := { s.mem with waiting := s.mem.waiting ++ [.write (j.getD 64) a d h p] } }
    | .gone => s
    | .serves =>
      let s := if p then s.countPoison st 1 0 else s
      lineWrite s st (off / 256) (off % 256) d h p j
  | .pad die off =>
    if padGone s die off then s
    else
      let u := padKey die off / 64
      let now := padPoisoned s die off d.length
      let p' := if off % 64 == 0 && d.length == 64 then p else now || p
      { s with mem := { s.mem with
          pad := s.mem.pad.writeN (padKey die off) d
          padPoison := Ranges.set s.mem.padPoison u p' } }
  | .host q b =>
    if hostServes s q then { s with mem := { s.mem with host := s.mem.host.writeN (hostKey q b) d } } else s
  | _ => s

/-- The unit a piece ends in decides its poison, so bytes are written unit by unit. -/
def writeMem (s : State) (j : Option Nat) (a : Nat) (d : List Byte) (h : Hint) (p : Bool) : State :=
  (pieces 64 (d.length + 1) a d.length).foldl
    (fun s q => writePiece s j q.1 ((d.drop (q.1 - a)).take q.2) h p) s

/-! ### Error records (R449, R450, Table 14-7) -/

/-- A record with no operation and no syndrome. -/
def blankRec (unit : Word) (code severity : Nat) : ErrRec where
  unit := unit
  job := none
  opcode := 0xFF
  code := code
  severity := severity
  cmd := 0
  step := 0
  tick := 0
  temp := 0
  rail := 0
  seq := 0
  syndrome := []
  addr := none
  aux := 0

/-- The 64 bytes of a record. -/
def ErrRec.bytes (r : ErrRec) : List Byte :=
  leBytes 4 r.unit.toNat ++
  [BitVec.ofNat 8 (r.job.getD 0 + if r.job.isSome then 64 else 0), BitVec.ofNat 8 r.opcode, BitVec.ofNat 8 r.code,
   BitVec.ofNat 8 r.severity] ++
  leBytes 4 r.cmd.toNat ++ leBytes 4 r.step.toNat ++ leBytes 8 r.tick ++ leBytes 2 r.temp ++ leBytes 2 r.rail ++
  leBytes 4 r.seq.toNat ++ (r.syndrome ++ List.replicate 16 0).take 16 ++
  leBytes 8 (match r.addr with | some a => a + 2 ^ 63 | none => 0) ++ leBytes 4 r.aux.toNat ++ leBytes 4 0

/-- The temperature a record carries (R566): a C-die's or stack's own, none for board units, else a reading. -/
def recTemp (s : State) (w : Word) : Nat :=
  let u := unitName w
  if u.dieType == 1 then (s.cdies[Fin.ofNat 4 u.die].temp % 65536).toNat
  else if u.dieType == 2 then (s.sdies[Fin.ofNat 12 u.die].temp % 65536).toNat
  else if u.cls == 0x46 then 0x8000
  else s.free % 65536

/-- The next record number (R449). -/
def nextSeqNo (n : Nat) : Nat := if n = 0xFFFFFFFF then 1 else n + 1

/-- Whether a happening folds into the newest record (R450). -/
def folds (s : State) (r : ErrRec) : Bool :=
  r.severity == 0 && (match s.flt.recs.head? with
    | some n => n.code == r.code && n.unit == r.unit && decide (s.tick ≤ n.tick + 25)
    | none => false)

/-- The record in the ring, or LOST (R450). -/
def ringPut (s : State) (r : ErrRec) : State :=
  let f := s.flt
  if !f.ringEn then s
  else if (f.head + 1) % 2 ^ f.ringLog2 == f.tail then
    ({ s with flt := { f with lost := satAdd 0xFFFF f.lost 1 } }).raise 321
  else
    let s := writeMem s none (f.ringBase + f.head * 64) r.bytes .stream false
    ({ s with flt := { s.flt with head := (f.head + 1) % 2 ^ f.ringLog2 } }).setCond 320
      ((f.head + 1) % 2 ^ f.ringLog2 != f.tail)

/-- An error record numbered, kept and written to the ring (R449, R450). -/
def State.record (s : State) (r : ErrRec) : State :=
  if folds s r then s
  else
    let n := nextSeqNo s.flt.seq
    let r := { r with tick := s.tick, seq := BitVec.ofNat 32 n, temp := recTemp s r.unit, rail := s.free / 65536 % 65536 }
    let s := s.drawn
    ringPut { s with flt := { s.flt with seq := n, recs := (r :: s.flt.recs).take 64 } } r

/-! ### Job status, rejections and job faults -/

def slotField (b : List Byte) (lo n : Nat) : Nat := leNat ((b.drop lo).take n)
def cmdId (b : List Byte) : Word := BitVec.ofNat 32 (slotField b 4 4)
def cmdStep (b : List Byte) : Word := BitVec.ofNat 32 (slotField b 8 4)
def opcodeOf (b : List Byte) : Nat := slotField b 0 1
def homeOf (c : Ctx) : CIx := Fin.ofNat 4 (c.cfg.field 1 0)

/-- A command rejected at decode (R275). -/
def State.reject (s : State) (j : JobIx) (e : EngIx) (cause : Nat) (b : List Byte) : State :=
  let s := s.modQ j e (fun q => { q with state := .halted, cause := cause, faultCmd := cmdId b, waitSince := none, passed := 0 })
  let s := s.record { blankRec (unitId 1 (homeOf (s.ctx j)).val 5 0) cause 2 with
    job := some j.val, opcode := opcodeOf b, cmd := cmdId b, step := cmdStep b }
  s.raise (64 + j.val)

/-- What a job fault names (R276, R292). -/
structure FaultAt where
  e : EngIx
  cause : Nat
  dieType : Nat
  die : Nat
  unit : Word
  opcode : Nat
  cmd : Word
  step : Word
  slot : Bool
  inRun : Bool
deriving DecidableEq, Repr, Inhabited

def faultWord (f : FaultAt) : Word :=
  Word.flag f.inRun 25 ||| Word.flag f.slot 24 ||| Word.at' f.dieType 20 ||| Word.at' f.die 16 ||| Word.flag true 15 |||
  Word.at' f.e.val 12 ||| Word.at' f.cause 0

/-- A tile whose pass is dropped: awake, with no pass. -/
def Tile.dropPass (t : Tile) (p : Tile → Bool) (now : Nat) : Tile :=
  if p t && (t.state == .running || t.state == .finishing) then { t with state := .idle, job := none, idleSince := now }
  else t

/-- The tiles of a die that a predicate selects sent back to IDLE. -/
def CDie.releaseTiles (c : CDie) (p : Tile → Bool) (now : Nat) : CDie :=
  { c with tiles := c.tiles.map (fun t => t.dropPass p now) }

/-- A job's streams and its reorder leases end (R276). -/
def LDie.dropJob (d : LDie) (j : Nat) : LDie :=
  { d with streams := d.streams.filter (fun x => x.sys || x.job != j),
           leases := d.leases.filter (fun r => r.sys || r.job != j) }

/-- A queue with nothing in flight and no admitted list (R276, R307). -/
def Queue.cancelled (q : Queue) : Queue := { q with inflight := [], lists := [], curList := none, waitSince := none, passed := 0 }

/-- Clocks put on an account of a list (Table 9-3). -/
def Queue.accrue (q : Queue) (list : Option Nat) (account clocks : Nat) : Queue :=
  { q with
    lists := q.lists.map (fun l =>
      if some l.lid == list then { l with accounts := modAt l.accounts account (· + clocks) } else l) }

/-- Clocks put on an account of the list of a command in flight. -/
def Ctx.accrueFlight (c : Ctx) (fid account clocks : Nat) : Ctx :=
  { c with queues := c.queues.map (fun q =>
      match q.inflight.find? (fun f => f.fid == fid) with
      | some f => q.accrue f.list account clocks
      | none => q) }

/-- Clocks that a command has lost in a way the model does not count go to an account: a free value (log 133). -/
def State.accrueFree (s : State) (j : JobIx) (fid account : Nat) : State :=
  (s.modCtx j (fun c => c.accrueFlight fid account s.free)).drawn

/-- A job's work in flight cancelled on every die, its leases released and its lists ended (R276, R307). -/
def State.cancelWork (s : State) (j : JobIx) : State :=
  let flt := { s.flt with leases := s.flt.leases.filter (fun l => l.job != j.val || l.revoking.isSome) }
  let s := { s with
    blocks := s.blocks.filter (fun b => b.job != j.val)
    passes := s.passes.filter (fun p => p.job != j.val)
    cpr := if s.cpr.any (fun (r : CprRun) => r.job == j.val) then none else s.cpr
    cols := s.cols.filter (fun c => c.job != j.val)
    far := s.far.filter (fun r => r.job != j.val)
    cdies := s.cdies.map (fun (c : CDie) => CDie.releaseTiles c (fun t => t.job == some j.val) s.tick)
    ldies := s.ldies.map (fun (d : LDie) => LDie.dropJob d j.val)
    flt := flt }
  s.modCtx j (fun c => { c with colBusy := 0, queues := c.queues.map Queue.cancelled })

/-- What a job fault does to its context (R276): the first one is kept. -/
def State.faultCtx (s : State) (j : JobIx) (f : FaultAt) : State :=
  (s.cancelWork j).modCtx j (fun c => { c with
    state := .faulted
    fault := faultWord f
    faultCmd := f.cmd
    faultStep := f.step
    queues := c.queues.map (fun q => { q with state := .halted, cause := f.cause, faultCmd := f.cmd }) })

/-- A job fault (R276): the first one is recorded; a context that is not OPEN takes none. -/
def State.jobFault (s : State) (j : JobIx) (f : FaultAt) : State :=
  if (s.ctx j).state != .opened then s
  else
    let s := (s.faultCtx j f).record { blankRec f.unit f.cause 2 with
      job := some j.val, opcode := f.opcode, cmd := f.cmd, step := f.step }
    s.raise (64 + j.val)

/-- The fault of a command at one of its engines. -/
def faultOf (e : EngIx) (cause dieType die : Nat) (unit : Word) (b : List Byte) : FaultAt where
  e := e
  cause := cause
  dieType := dieType
  die := die
  unit := unit
  opcode := opcodeOf b
  cmd := cmdId b
  step := cmdStep b
  slot := false
  inRun := false

end Sys2Proof.Machine
end

