-- ==== Sys2Proof/Machine/Num.lean ====
section
/-! DEFINITION. Numbers: the values element formats decode to (R38, R39), rounding (R55 to R57, R74), FP32 arithmetic
on bit patterns, and the stochastic generator (R58, R59). -/

namespace Sys2Proof.Machine

/-! ### Values -/

/-- An exact value: `m × 2^e` with a sign, an infinity, or NaN. -/
inductive FV where
  | nan
  | inf (neg : Bool)
  | fin (neg : Bool) (m : Nat) (e : Int)
deriving DecidableEq, Repr, Inhabited

/-- What the top exponent of a format encodes (Table 2-2). -/
inductive Special where
  | none | nanOnly | ieee
deriving DecidableEq, Repr

/-- A floating-point format: exponent and mantissa widths, bias, special codes (Table 2-2). -/
structure Fp where
  ebits : Nat
  mbits : Nat
  bias : Nat
  special : Special
deriving DecidableEq, Repr

def Fp.e2m1 : Fp := ⟨2, 1, 1, .none⟩
def Fp.e2m3 : Fp := ⟨2, 3, 1, .none⟩
def Fp.e3m2 : Fp := ⟨3, 2, 3, .none⟩
def Fp.e4m3 : Fp := ⟨4, 3, 7, .nanOnly⟩
def Fp.e5m2 : Fp := ⟨5, 2, 15, .ieee⟩
def Fp.bf16 : Fp := ⟨8, 7, 127, .ieee⟩
def Fp.fp32 : Fp := ⟨8, 23, 127, .ieee⟩

/-- The magnitude codes of a format: `2^(ebits + mbits)`; the sign bit lies above them. -/
def Fp.signAt (f : Fp) : Nat := 2 ^ (f.ebits + f.mbits)
/-- The code of infinity in a format that has one. -/
def Fp.infCode (f : Fp) : Nat := (2 ^ f.ebits - 1) * 2 ^ f.mbits
/-- The magnitude code of the largest finite value. -/
def Fp.maxCode (f : Fp) : Nat :=
  match f.special with
  | .none => f.signAt - 1
  | .nanOnly => f.signAt - 2
  | .ieee => f.infCode - 1

/-- A finite magnitude code as `m × 2^e` (R38). -/
def Fp.magnitude (f : Fp) (c : Nat) : Nat × Int :=
  let e := c / 2 ^ f.mbits
  let m := c % 2 ^ f.mbits
  if e = 0 then (m, 1 - (f.bias : Int) - f.mbits) else (m + 2 ^ f.mbits, (e : Int) - f.bias - f.mbits)

/-- The value of a code (R38). -/
def Fp.decode (f : Fp) (code : Nat) : FV :=
  let neg := code / f.signAt % 2 == 1
  let c := code % f.signAt
  if c ≤ f.maxCode then .fin neg (f.magnitude c).1 (f.magnitude c).2
  else if f.special == .ieee && c == f.infCode then .inf neg
  else .nan

/-- A code with a sign. -/
def Fp.signed (f : Fp) (neg : Bool) (c : Nat) : Nat := if neg then f.signAt + c else c

/-! ### The generator (R58, R59) -/

/-- A unit's generator: its state, and the 16-bit values drawn and not used. -/
structure Gen where
  state : Nat
  left : List Nat
deriving DecidableEq, Repr, Inhabited

/-- `next()` of R58: the new state and the value. -/
def nextRandom (state : Nat) : Nat × Nat :=
  let s := (state + 0x9E3779B97F4A7C15) % 2 ^ 64
  let z := (Nat.xor s (s / 2 ^ 30) * 0xBF58476D1CE4E5B9) % 2 ^ 64
  let z := (Nat.xor z (z / 2 ^ 27) * 0x94D049BB133111EB) % 2 ^ 64
  (s, Nat.xor z (z / 2 ^ 31))

/-- The seed of a generator for a command (R58, R60). -/
def genSeed (jobSeed : Nat) (unit step cmd : Word) : Gen :=
  let s := Nat.xor jobSeed (unit.toNat * 2 ^ 32 + step.toNat)
  ⟨Nat.xor (nextRandom s).2 cmd.toNat, []⟩

/-- One 16-bit draw (R59). -/
def Gen.draw (g : Gen) : Nat × Gen :=
  match g.left with
  | r :: rs => (r, { g with left := rs })
  | [] =>
    let (s, z) := nextRandom g.state
    (z % 65536, ⟨s, [z / 65536 % 65536, z / 2 ^ 32 % 65536, z / 2 ^ 48]⟩)

/-! ### Rounding -/

/-- The rounding modes of Table 2-5 that a quantiser uses. -/
inductive Rnd where
  | rne | sr
deriving DecidableEq, Repr, Inhabited

/-- A power of two as a fraction. -/
def pow2num (e : Int) : Nat := 2 ^ e.toNat
def pow2den (e : Int) : Nat := 2 ^ (-e).toNat

/-- The integer part of log2 of a positive fraction. -/
def ilog2 (num den : Nat) : Int :=
  let l : Int := (Nat.log2 num : Int) - Nat.log2 den
  if num * pow2den l < den * pow2num l then l - 1 else l

/-- The smallest integer that log2 of a positive fraction does not exceed. -/
def clog2 (num den : Nat) : Int :=
  let l := ilog2 num den
  if num * pow2den l = den * pow2num l then l else l + 1

/-- A fraction over `2^q`, rounded to an integer (R55, R56). An exact value takes no draw. -/
def roundQ (mode : Rnd) (g : Gen) (num den : Nat) (q : Int) : Nat × Gen :=
  let n := num * pow2den q
  let d := den * pow2num q
  let k := n / d
  let r := n % d
  if r = 0 then (k, g)
  else match mode with
    | .rne => (if d < 2 * r ∨ (2 * r = d ∧ k % 2 = 1) then k + 1 else k, g)
    | .sr =>
      let (x, g) := g.draw
      (if 65536 ≤ r * 65536 / d + x then k + 1 else k, g)

/-- The quantum of a format at a positive magnitude. -/
def Fp.quantum (f : Fp) (num den : Nat) : Int := max (ilog2 num den) (1 - (f.bias : Int)) - f.mbits

/-- The magnitude code of a positive fraction, not limited above (R55, R56). -/
def Fp.roundCode (f : Fp) (mode : Rnd) (g : Gen) (num den : Nat) : Nat × Gen :=
  let q := f.quantum num den
  let (k, g) := roundQ mode g num den q
  ((q + f.mbits - (1 - (f.bias : Int))).toNat * 2 ^ f.mbits + k, g)

/-- A magnitude rounded to a format that overflows to infinity (FP32, BF16: R74). -/
def Fp.roundIeee (f : Fp) (mode : Rnd) (g : Gen) (num den : Nat) : Nat × Gen :=
  if num = 0 then (0, g)
  else if 2 ^ (f.bias + 1) * den ≤ num then (f.infCode, g)
  else
    let (c, g) := f.roundCode mode g num den
    (min c f.infCode, g)

/-- A magnitude rounded to a format that saturates (R50, R57). -/
def Fp.roundSat (f : Fp) (mode : Rnd) (g : Gen) (num den : Nat) : Nat × Gen :=
  let (m, e) := f.magnitude f.maxCode
  if num = 0 then (0, g)
  else if m * pow2num e * den ≤ num * pow2den e then (f.maxCode, g)
  else
    let (c, g) := f.roundCode mode g num den
    (min c f.maxCode, g)

/-- The canonical NaN of an IEEE format (R39). -/
def Fp.nanCode (f : Fp) : Nat := f.infCode + 2 ^ (f.mbits - 1)

def noGen : Gen := ⟨0, []⟩

/-- An exact value rounded to an IEEE format. -/
def Fp.encode (f : Fp) (mode : Rnd) (g : Gen) (v : FV) : Nat × Gen :=
  match v with
  | .nan => (f.nanCode, g)
  | .inf neg => (f.signed neg f.infCode, g)
  | .fin neg m e =>
    let (c, g) := f.roundIeee mode g (m * pow2num e) (pow2den e)
    (f.signed neg c, g)

/-! ### FP32 arithmetic -/

abbrev dec32 (w : Word) : FV := Fp.fp32.decode w.toNat

/-- Round to nearest FP32, ties to even. -/
def rne32 (v : FV) : Word := BitVec.ofNat 32 (Fp.fp32.encode .rne noGen v).1

/-- A fraction with a sign rounded to nearest FP32. -/
def rneFrac (neg : Bool) (num den : Nat) : Word :=
  BitVec.ofNat 32 (Fp.fp32.signed neg (Fp.fp32.roundIeee .rne noGen num den).1)

def FV.isFin : FV → Bool
  | .fin .. => true
  | _ => false

def FV.isZero : FV → Bool
  | .fin _ m _ => m == 0
  | _ => false

def FV.isNan : FV → Bool
  | .nan => true
  | _ => false

def FV.neg : FV → FV
  | .nan => .nan
  | .inf n => .inf !n
  | .fin n m e => .fin (!n) m e

def FV.isNeg : FV → Bool
  | .nan => false
  | .inf n => n
  | .fin n _ _ => n

/-- A finite value as a multiple of `2^q`, where `q` is at most its exponent. -/
def scaled (neg : Bool) (m : Nat) (e q : Int) : Int :=
  let v : Int := m * 2 ^ (e - q).toNat
  if neg then -v else v

def ofInt (v q : Int) : FV := .fin (v < 0) v.natAbs q

/-- The exact sum; opposite infinities give NaN, an exact zero sum is +0 unless both are negative (R102). -/
def FV.add (a b : FV) : FV :=
  match a, b with
  | .nan, _ | _, .nan => .nan
  | .inf x, .inf y => if x = y then .inf x else .nan
  | .inf x, _ => .inf x
  | _, .inf y => .inf y
  | .fin n m e, .fin n' m' e' =>
    let q := min e e'
    let v := scaled n m e q + scaled n' m' e' q
    if v = 0 then .fin (n && n') 0 0 else ofInt v q

/-- The exact product. -/
def FV.mul (a b : FV) : FV :=
  match a, b with
  | .nan, _ | _, .nan => .nan
  | .inf x, .inf y => .inf (x != y)
  | .inf x, .fin n m _ => if m = 0 then .nan else .inf (x != n)
  | .fin n m _, .inf y => if m = 0 then .nan else .inf (n != y)
  | .fin n m e, .fin n' m' e' => .fin (n != n') (m * m') (e + e')

def add32 (a b : Word) : Word := rne32 ((dec32 a).add (dec32 b))
def sub32 (a b : Word) : Word := rne32 ((dec32 a).add (dec32 b).neg)
def mul32 (a b : Word) : Word := rne32 ((dec32 a).mul (dec32 b))
def fma32 (a b c : Word) : Word := rne32 (((dec32 a).mul (dec32 b)).add (dec32 c))

/-- A quotient, rounded once. -/
def FV.div32 (a b : FV) : Word :=
  match a, b with
  | .nan, _ | _, .nan => 0x7FC00000#32
  | .inf x, .inf _ => let _ := x; 0x7FC00000#32
  | .inf x, .fin n _ _ => rne32 (.inf (x != n))
  | .fin n _ _, .inf y => rne32 (.fin (n != y) 0 0)
  | .fin n m e, .fin n' m' e' =>
    if m' = 0 then (if m = 0 then 0x7FC00000#32 else rne32 (.inf (n != n')))
    else rneFrac (n != n') (m * pow2num (e - e')) (m' * pow2den (e - e'))

def div32 (a b : Word) : Word := (dec32 a).div32 (dec32 b)

/-- The integer square root by bits: `k` bits of the answer are still open, `r` holds those found. -/
def isqrtGo (n : Nat) : Nat → Nat → Nat
  | 0, r => r
  | k + 1, r => let t := r + 2 ^ k; isqrtGo n k (if t * t ≤ n then t else r)

def isqrt (n : Nat) : Nat := isqrtGo n (Nat.log2 n / 2 + 1) 0

/-- A square root, rounded once: 64 bits of the root and a sticky bit below them. -/
def sqrt32 (w : Word) : Word :=
  match dec32 w with
  | .nan => 0x7FC00000#32
  | .inf neg => if neg then 0x7FC00000#32 else w
  | .fin neg m e =>
    if m = 0 then w
    else if neg then 0x7FC00000#32
    else
      let odd := (e % 2).toNat
      let n := m * 2 ^ (64 + odd)
      let r := isqrt n
      let s := if r * r = n then 0 else 1
      rne32 (.fin false (2 * r + s) ((e - 64 - odd) / 2 - 1))

/-! ### The exponential (R234, R262) -/

/-- ln 2 in units of 2^-160, cut. -/
def ln2Fixed : Nat := 0xb17217f7d1cf79abc9e3b39803f2f6af40f34326

/-- The Taylor sum of exp in units of 2^-160: fuel, the term's number, the term, the argument. -/
def expSeries : Nat → Nat → Nat → Nat → Nat
  | 0, _, _, _ => 0
  | k + 1, i, term, r => term + expSeries k (i + 1) (term * r / 2 ^ 160 / (i + 1)) r

/-- The magnitude code of exp of `±m × 2^e`, cut toward zero. -/
def expCode (neg : Bool) (m : Nat) (e : Int) : Nat :=
  let x : Int := scaled neg m e (-160)
  let n : Int := x / (ln2Fixed : Int)
  let r := (x - n * ln2Fixed).toNat
  if 128 ≤ n then Fp.fp32.infCode
  else if n < -160 then 0
  else
    let v := expSeries 48 0 (2 ^ 160) r
    let p := n - 160
    let num := v * pow2num p
    let den := pow2den p
    let q := Fp.fp32.quantum num den
    (q + 149).toNat * 2 ^ 23 + num * pow2den q / (den * pow2num q)

/-- An exponential within 2 ulp of the exact value; which value within them the spec does not say, so `k` chooses. -/
def exp32 (k : Nat) (w : Word) : Word :=
  match dec32 w with
  | .nan => 0x7FC00000#32
  | .inf neg => if neg then 0#32 else w
  | .fin neg m e => BitVec.ofNat 32 (min (expCode neg m e + k % 4 - 1) Fp.fp32.infCode)

/-! ### Plain facts of FP32 words -/

def one32 : Word := 0x3F800000#32
def zero32 : Word := 0#32
def nan32 : Word := 0x7FC00000#32
def abs32 (w : Word) : Word := w &&& 0x7FFFFFFF#32
def isNan32 (w : Word) : Bool := decide (0x7F800000 < (abs32 w).toNat)
def isInf32 (w : Word) : Bool := (abs32 w).toNat == 0x7F800000
def isFin32 (w : Word) : Bool := decide ((abs32 w).toNat < 0x7F800000)
def isZero32 (w : Word) : Bool := (abs32 w).toNat == 0
def isSubn32 (w : Word) : Bool := decide (0 < (abs32 w).toNat) && decide ((abs32 w).toNat < 0x800000)

/-- The larger of two magnitudes. -/
def maxMag (a b : Word) : Word := if (abs32 a).toNat < (abs32 b).toNat then abs32 b else abs32 a

/-- The largest magnitude among the finite values of a list (R47, R169). -/
def amaxOf (xs : List Word) : Word := xs.foldl (fun a x => if isFin32 x then maxMag a x else a) 0

/-- A number that orders FP32 values as their values order, both zeros alike; NaN is not asked. -/
def orderKey (w : Word) : Int := if w.bit 31 then -((abs32 w).toNat : Int) else (w.toNat : Int)

/-- A magnitude as a fraction. -/
def magFrac (w : Word) : Nat × Nat :=
  let (m, e) := Fp.fp32.magnitude (abs32 w).toNat
  (m * pow2num e, pow2den e)

/-- BF16 of an FP32 word, ties to even, NaN canonical. -/
def toBf16 (w : Word) : Nat := (Fp.bf16.encode .rne noGen (dec32 w)).1

/-- FP32 of a BF16 code (exact). -/
def ofBf16 (n : Nat) : Word := BitVec.ofNat 32 (n * 65536)

/-- A power of two as an FP32 word, for exponents in the normal range. -/
def pow2Word (e : Int) : Word := BitVec.ofNat 32 ((e + 127).toNat * 2 ^ 23)

end Sys2Proof.Machine
end

