-- ==== Sys2Proof/Machine/Quant.lean ====
section
/-! DEFINITION. Data types (Table 2-1), how elements and block scales decode (R40 to R45), and the quantisers: a block
(R50), a compensated pair (R70), a plain element (R39, R54, R74), flushing (R62 to R65). -/

namespace Sys2Proof.Machine

/-! ### Data types -/

/-- The codes of Table 2-1. -/
def dtypeKnown (c : Nat) : Bool := [1, 2, 3, 4, 8, 9, 0xA, 0xB, 0xC, 0xD, 0xE, 0x10, 0x11, 0x12].contains c

def dtFp32 : Nat := 1
def dtBf16 : Nat := 2
def dtE4m3 : Nat := 3
def dtE5m2 : Nat := 4
def dtMx8 : Nat := 8
def dtMx4 : Nat := 0xC
def dtFb8 : Nat := 0xD
def dtFb4 : Nat := 0xE
def dtInt32 : Nat := 0x10
def dtInt64 : Nat := 0x11
def dtU8 : Nat := 0x12

def isInt (c : Nat) : Bool := c == dtInt32 || c == dtInt64 || c == dtU8
def isMx (c : Nat) : Bool := 8 ≤ c && c ≤ 0xC
def isFine (c : Nat) : Bool := c == dtFb8 || c == dtFb4
def isBlock (c : Nat) : Bool := isMx c || isFine c
def isPlain8 (c : Nat) : Bool := c == dtE4m3 || c == dtE5m2
/-- The types the Loom's ports take (R79). -/
def loomType (c : Nat) : Bool := isBlock c || isPlain8 c

/-- The element format of a floating-point type. -/
def elemFp (c : Nat) : Fp :=
  match c with
  | 1 => .fp32 | 2 => .bf16 | 3 | 8 | 0xD => .e4m3 | 4 | 9 => .e5m2 | 0xA => .e2m3 | 0xB => .e3m2 | _ => .e2m1

/-- Elements per block scale (R44); 1 where there is none. -/
def blockSize (c : Nat) : Nat := if isMx c then 32 else if isFine c then 16 else 1

/-- Bits of one element. -/
def elemBits (c : Nat) : Nat :=
  match c with
  | 1 | 0x10 => 32 | 0x11 => 64 | 2 => 16 | 0xA | 0xB => 6 | 0xC | 0xE => 4 | _ => 8

/-- The largest finite value of a type's elements, as a fraction. -/
def emaxOf (c : Nat) : Nat × Nat :=
  let (m, e) := (elemFp c).magnitude (elemFp c).maxCode
  (m * pow2num e, pow2den e)

/-- The scale targets of Table 2-4. -/
def sTarget (c : Nat) : Nat :=
  if c == dtFb4 then 2688 else if c == dtFb8 then 200704 else if c == dtE4m3 then 448 else if c == dtE5m2 then 57344 else 1

/-- Element `i` of packed bytes (R40). -/
def elemAt (c : Nat) (b : List Byte) (i : Nat) : Nat :=
  let w := elemBits c
  leNat ((b.drop (i * w / 8)).take ((i * w % 8 + w + 7) / 8)) / 2 ^ (i * w % 8) % 2 ^ w

/-- Element codes packed into bytes (R40). -/
def packBits (w : Nat) (codes : List Nat) : Nat := codes.foldr (fun x acc => acc * 2 ^ w + x % 2 ^ w) 0

def packElems (c : Nat) (codes : List Nat) : List Byte :=
  leBytes ((codes.length * elemBits c + 7) / 8) (packBits (elemBits c) codes)

/-! ### Block scales (R41 to R43) -/

/-- The NaN code of a type's block scale. -/
def nanScale (c : Nat) : Nat := if isMx c then 0xFF else 0x7F

/-- The value of a block scale byte; 1 for a type without scales. -/
def scaleValue (c byte : Nat) : FV :=
  if isMx c then (if byte = 0xFF then .nan else .fin false 1 ((byte : Int) - 127))
  else if isFine c then (if 128 ≤ byte then .nan else Fp.e4m3.decode byte)
  else .fin false 1 0

/-- An element's value before T and g: q × s (exact). -/
def elemValue (c code scale : Nat) : FV := ((elemFp c).decode code).mul (scaleValue c scale)

/-- The decoded value in FP32: q × s × T × g, rounded once (R45). -/
def decodeElem (c code scale : Nat) (t g : Word) : Word :=
  rne32 (((elemValue c code scale).mul (dec32 t)).mul (dec32 g))

/-! ### Flushing (R62 to R65) -/

/-- An FP32 result in the subnormal mode of its job, and whether a non-zero result was flushed. -/
def flush32 (subn : Bool) (w : Word) : Word × Bool :=
  if subn && isSubn32 w then (w &&& 0x80000000#32, true) else (w, false)

/-- A code of a format flushed when it is subnormal. -/
def Fp.flush (f : Fp) (subn : Bool) (code : Nat) : Nat × Bool :=
  let m := code % f.signAt
  if subn && decide (0 < m) && decide (m < 2 ^ f.mbits) then (code - m, true) else (code, false)

/-! ### The quantisers -/

/-- What a quantiser leaves: element codes, block scale, the generator, and what it reports (R54). -/
structure Quant where
  scale : Nat
  codes : List Nat
  gen : Gen
  clampTop : Bool
  clampLow : Bool
  qnan : Bool
  flushed : Bool
deriving DecidableEq, Repr, Inhabited

/-- t_inv of R50. -/
def tInv (t g : Word) : Word := (FV.fin false 1 0).div32 ((dec32 t).mul (dec32 g))

/-- An E8M0 scale exponent (R50, R51): the exponent, and the clamps at the top and at the bottom. -/
def mxScale (c : Nat) (amax : Word) : Int × Bool × Bool :=
  if isZero32 amax then (-127, false, false)
  else
    let (n, d) := magFrac amax
    let (en, ed) := emaxOf c
    let x := clog2 (n * ed) (d * en)
    if 127 < x then (127, true, false) else if x < -127 then (-127, false, true) else (x, false, false)

/-- A fine-block scale code (R50, R52): the code, and the clamps at the top and at the bottom. -/
def fineScale (c : Nat) (amax : Word) : Nat × Bool × Bool :=
  if isZero32 amax then (0, false, false)
  else
    let (n, d) := magFrac amax
    let (en, ed) := emaxOf c
    let k := (Fp.e4m3.roundCode .rne noGen (n * ed) (d * en)).1
    if 0x7E < k then (0x7E, true, false) else if k = 0 then (1, false, true) else (k, false, false)

/-- One element of a block: y / s rounded to the element format, saturating, then flushed (R50, R57, R65). -/
def quantElem (c : Nat) (mode : Rnd) (g : Gen) (subn : Bool) (y : Word) (s : FV) : Nat × Gen × Bool :=
  match s with
  | .fin _ sm se =>
    if sm = 0 then (0, g, false)
    else
      let (n, d) := magFrac y
      let (k, g) := (elemFp c).roundSat mode g (n * pow2den se) (d * sm * pow2num se)
      let (k, f) := if elemBits c = 8 then (elemFp c).flush subn k else (k, false)
      ((elemFp c).signed (y.bit 31) k, g, f)
  | _ => (0, g, false)

/-- The elements of a block in order, one generator through them all. -/
def quantElems (c : Nat) (mode : Rnd) (subn : Bool) (s : FV) : List Word → Gen → List Nat × Gen × Bool
  | [], g => ([], g, false)
  | y :: ys, g =>
    let (k, g, f) := quantElem c mode g subn y s
    let (ks, g, f') := quantElems c mode subn s ys g
    (k :: ks, g, f || f')

/-- A block of values `y` after t_inv (R50). `out` marks values left out of amax (R132). -/
def quantY (c : Nat) (mode : Rnd) (subn : Bool) (g : Gen) (ys : List Word) (out : List Bool) : Quant :=
  if ys.any (fun y => !isFin32 y) then ⟨nanScale c, ys.map (fun _ => 0), g, false, false, true, false⟩
  else
    let amax := (List.zipWith (fun y o => if o then 0#32 else y) ys (out ++ List.replicate ys.length false)).foldl maxMag 0
    let (code, top, low) :=
      if isMx c then let (x, t, l) := mxScale c amax; ((x + 127).toNat, t, l) else fineScale c amax
    let (ks, g, f) := quantElems c mode subn (scaleValue c code) ys g
    ⟨code, ks, g, top, low, false, f⟩

/-- R50 on a block of inputs. -/
def quantBlock (c : Nat) (mode : Rnd) (subn : Bool) (g : Gen) (tinv : Word) (xs : List Word) : Quant :=
  quantY c mode subn g (xs.map (fun x => mul32 x tinv)) []

/-- A compensated pair block of MXFP8 E4M3 (R70): hi, then lo from one generator (Table 2-6). -/
def quantPair (mode : Rnd) (subn : Bool) (g : Gen) (tinv : Word) (xs : List Word) : Quant × Quant :=
  let hi := quantBlock dtMx8 mode subn g tinv xs
  if hi.qnan then (hi, ⟨0xFF, xs.map (fun _ => 0), hi.gen, false, false, true, false⟩)
  else
    let ds := List.zipWith (fun x k => rne32 ((dec32 (mul32 x tinv)).add (elemValue dtMx8 k hi.scale).neg)) xs hi.codes
    (hi, quantY dtMx8 mode subn hi.gen ds [])

/-- One element of a type without block scales: FP32 and BF16 round to nearest (R262, R101), plain FP8 in the site's
mode, saturating but for infinite and NaN inputs (R39, R54, R74); then the flush. -/
def quantPlain (c : Nat) (mode : Rnd) (subn : Bool) (g : Gen) (tinv x : Word) : Quant :=
  let y := mul32 x tinv
  let f := elemFp c
  if isPlain8 c then
    if isNan32 y || (isInf32 y && c == dtE4m3) then ⟨0, [0x7F], g, false, false, true, false⟩
    else if isInf32 y then ⟨0, [f.signed (y.bit 31) f.infCode], g, false, false, false, false⟩
    else
      let (n, d) := magFrac y
      let (k, g) := f.roundSat mode g n d
      let (k, fl) := f.flush subn k
      ⟨0, [f.signed (y.bit 31) k], g, false, false, false, fl⟩
  else
    let (k, fl) := f.flush subn (f.encode .rne noGen (dec32 y)).1
    ⟨0, [k], g, false, false, false, fl⟩

/-- The largest-magnitude target of a row scale (R47). -/
def rowScale (c : Nat) (amax : Word) : Word :=
  if isZero32 amax then one32
  else
    let (n, d) := magFrac amax
    let r := rneFrac false n (d * sTarget c)
    if r.toNat < 0x800000 then 0x00800000#32 else r

/-- A 24-bit master weight from an exact value: BF16 word and remainder byte (R67, R68), and whether it was flushed. -/
def masterOf (subn : Bool) (v : FV) : Nat × Nat × Bool :=
  let f : Fp := ⟨8, 15, 127, .ieee⟩
  let (c, fl) := f.flush subn (f.encode .rne noGen v).1
  (c / 256, c % 256, fl)

/-- The FP32 word of a master weight (R66). -/
def ofMaster (m r : Nat) : Word := BitVec.ofNat 32 (m * 65536 + r * 256)

end Sys2Proof.Machine
end

