-- ==== Sys2Proof/Machine/Adders.lean ====
section
/-! DEFINITION. Adds at the memory-side adders and the scratchpad banks (R331 to R333, R567, Table 10-4). -/

namespace Sys2Proof.Machine

/-- Bytes of one element of an adder format (Table 10-4). -/
def addWidth (fmt : Nat) : Nat := if fmt == dtBf16 then 2 else if fmt == dtInt64 then 8 else 4

/-- The formats the adders take (R332). -/
def addFormat (fmt : Nat) : Bool := fmt == dtFp32 || fmt == dtBf16 || fmt == dtInt32 || fmt == dtInt64

/-- One add, rounded and flushed by Table 10-4. -/
def addElem (fmt : Nat) (mode : Rnd) (subn : Bool) (g : Gen) (old new : Nat) : Nat × Gen × Bool :=
  if fmt == dtFp32 then
    let (w, f) := flush32 subn (add32 (BitVec.ofNat 32 old) (BitVec.ofNat 32 new))
    (w.toNat, g, f)
  else if fmt == dtBf16 then
    let (c, g) := Fp.bf16.encode mode g ((Fp.bf16.decode old).add (Fp.bf16.decode new))
    let (c, f) := Fp.bf16.flush subn c
    (c, g, f)
  else ((old + new) % 2 ^ (8 * addWidth fmt), g, false)

/-- Elements added in order: fuel, bytes held, bytes added. -/
def addBytes (fmt : Nat) (mode : Rnd) (subn : Bool) : Nat → Gen → List Byte → List Byte → List Byte × Gen × Bool
  | 0, g, old, _ => (old, g, false)
  | k + 1, g, old, new =>
    let w := addWidth fmt
    if new.length < w then (old, g, false)
    else
      let (c, g, f) := addElem fmt mode subn g (leNat (old.take w)) (leNat (new.take w))
      let (rest, g, f') := addBytes fmt mode subn k g (old.drop w) (new.drop w)
      (leBytes w c ++ rest, g, f || f')

/-- What an add leaves beside the state. -/
structure Added where
  gen : Gen
  consumed : Bool
  flushed : Bool
  waits : Bool
deriving DecidableEq, Repr, Inhabited

/-- An add into a line that a stack serves (R329, R331, R335): the line filled where it is absent, its class by the
hint, its units poisoned where the operand or they were. -/
def addLine (s : State) (j st line off fmt : Nat) (mode : Rnd) (subn poison : Bool) (h : Hint) (g : Gen)
    (d : List Byte) : Added × State :=
  let (s, l) := match s.mem.findLine st line with
    | some l => if h == Hint.keep then promote s l (some j) else (s, l)
    | none => allocate s st line (if h == Hint.keep then .prot else .ordinary) (some j)
  let bad := poison || anyPoison l.poison off d.length
  let (sum, g, f) := addBytes fmt mode subn (d.length + 1) g ((l.data.drop off).take d.length) d
  let l' := { l with
    data := splice l.data off (if bad then (l.data.drop off).take d.length else sum)
    dirty := dirtyAfter l.dirty off d.length
    poison := (List.range 4).map (fun u => l.poison.getD u false ||
      (bad && decide (off < 64 * (u + 1)) && decide (64 * u < off + d.length))) }
  let s := { s with mem := s.mem.putLine l' }
  let s := s.modSDie (Fin.ofNat 12 st) (fun x => { x with addCnt := (x.addCnt + 1) % 2 ^ 64 })
  let units := (List.range 4).filter (fun u => decide (off < 64 * (u + 1)) && decide (64 * u < off + d.length))
  let s := if bad then s.countPoison st units.length 1 else s
  (⟨g, bad, f && !bad, false⟩, s)

/-- One add that stays inside one 256 B line. An add at a scratchpad bank rounds to nearest (Table 2-5). -/
def addPiece (s : State) (j a fmt : Nat) (mode : Rnd) (subn poison : Bool) (h : Hint) (g : Gen) (d : List Byte) :
    Added × State :=
  match placeOf s a with
  | .stack st off =>
    match slotAccess s st off with
    | .waits => (⟨g, false, false, true⟩,
        { s with mem := { s.mem with waiting := s.mem.waiting ++ [.add j a fmt d (mode == .sr)] } })
    | .gone => (⟨g, true, false, false⟩, s.countPoison st 0 1)
    | .serves => addLine s j st (off / 256) (off % 256) fmt mode subn poison h g d
  | .pad die off =>
    if padGone s die off then (⟨g, true, false, false⟩, s)
    else
      let k := padKey die off
      let us := (List.range 5).map (k / 64 + ·) |>.filter (fun u => u * 64 < k + d.length)
      let bad := poison || us.any (fun u => Ranges.has s.mem.padPoison u)
      let old := s.mem.pad.readN k d.length
      let (sum, _, f) := addBytes fmt .rne subn (d.length + 1) noGen old d
      let m := { s.mem with
        pad := s.mem.pad.writeN k (if bad then old else sum)
        padPoison := if bad then us.foldl (fun r u => Ranges.set r u true) s.mem.padPoison else s.mem.padPoison }
      (⟨g, bad, f && !bad, false⟩, { s with mem := m })
  | _ => (⟨g, false, false, false⟩, s)

/-- An add of any length, line by line in address order. -/
def addMem (s : State) (j a fmt : Nat) (mode : Rnd) (subn poison : Bool) (h : Hint) (g : Gen) (d : List Byte) :
    Added × State :=
  (pieces 256 (d.length + 1) a d.length).foldl (fun (r, s) (q : Nat × Nat) =>
    let (x, s) := addPiece s j q.1 fmt mode subn poison h r.gen ((d.drop (q.1 - a)).take q.2)
    (⟨x.gen, r.consumed || x.consumed, r.flushed || x.flushed, r.waits || x.waits⟩, s)) (⟨g, false, false, false⟩, s)

end Sys2Proof.Machine
end

