-- ==== Sys2Proof/Machine/Audit.lean ====
section
/-! DEFINITION. Who may do what (R516, R517, R519), and the audit log that a privileged action waits for (R531 to
R534). -/

namespace Sys2Proof.Machine

/-! ### Rights -/

/-- What a write asks of its requester. -/
inductive Right where
  | anyone
  | operator
  | installer
  | adoptRight
  | installerOrCore
  /-- EVC routes, groups, host port and the route lock. -/
  | evcRoutes
  | evcMasks
  | evcPending
  | evcBank (t : Nat)
deriving DecidableEq, Repr

/-- How a write is met. -/
inductive Access where
  | atOnce | audited | refused
deriving DecidableEq, Repr

def Requester.isCore : Requester → Bool
  | .coreA | .coreB => true
  | _ => false

def Requester.isHost : Requester → Bool
  | .hostA | .hostB => true
  | _ => false

/-- The role a requester holds: that of its open session (R516). -/
def State.roleOf (s : State) (rq : Requester) : Role :=
  if (s.reqOf rq).sess == .opened then (s.reqOf rq).role else .none

/-- How a write that asks a right is met (Table 18-2 and the "writers" lines of the chapters). -/
def State.access (s : State) (rq : Requester) (r : Right) : Access :=
  let role := s.roleOf rq
  let byRole := fun ok : Bool => if ok then Access.audited else .refused
  match r with
  | .anyone => .atOnce
  | .operator => byRole (role == .operator)
  | .installer => byRole (role == .installer)
  | .adoptRight => byRole (role == .operator || role == .installer)
  | .installerOrCore | .evcRoutes => if Requester.isCore rq then .atOnce else byRole (role == .installer)
  | .evcMasks => if Requester.isCore rq || Requester.isHost rq then .atOnce else byRole (role == .installer)
  | .evcPending => if Requester.isCore rq || Requester.isHost rq then .atOnce else .refused
  | .evcBank t => if (t == 2 && Requester.isHost rq) || (t < 2 && Requester.isCore rq) then .atOnce else .refused

/-! ### Register access records -/

/-- The die that owns the page of a register offset, the M-die where the page is unpopulated (R566). -/
def pageUnit (off : Nat) : Word :=
  let page := off / 0x10000
  if 0x10 ≤ page ∧ page < 0x14 then unitId 1 (page - 0x10) 0 0
  else if 0x20 ≤ page ∧ page < 0x2C then unitId 2 (page - 0x20) 0 0
  else if 0x30 ≤ page ∧ page < 0x33 then unitId 3 (page - 0x30) 0 0
  else if 0x40 ≤ page ∧ page < 0x42 then unitId 4 (page - 0x40) 0 0
  else unitId 5 0 0 0

def regBase : Nat := 0x0F0000000000

/-- A REG_ACCESS record: reason 1 narrow, 2 unaligned, 3 role, 4 value refused (Table 14-8). -/
def State.regAccess (s : State) (rq : Requester) (addr reason : Nat) : State :=
  s.record { blankRec (pageUnit (addr - regBase)) 0x49 1 with
    syndrome := leBytes 4 addr ++ [BitVec.ofNat 8 rq.code.val, BitVec.ofNat 8 reason], addr := some addr }

/-! ### Audit records -/

/-- The audit action codes of Table 18-7. -/
inductive AuditAct where
  | auth | authFail | sessionEnd | regWrite | doorbell | stage | adopt | fwStage | activateFw | fence | unfence
  | jtagUnlock | fuse | makerRepair | failover
deriving DecidableEq, Repr

def AuditAct.code : AuditAct → Nat
  | .auth => 1 | .authFail => 2 | .sessionEnd => 3 | .regWrite => 0x10 | .doorbell => 0x11 | .stage => 0x20
  | .adopt => 0x21 | .fwStage => 0x22 | .activateFw => 0x23 | .fence => 0x30 | .unfence => 0x31 | .jtagUnlock => 0x40
  | .fuse => 0x41 | .makerRepair => 0x42 | .failover => 0x50

/-- The public key that a requester's session was opened with. -/
def State.sessionKey (s : State) (rq : Requester) : List Byte :=
  match s.roleOf rq with
  | .operator => s.cfg.inForce.operatorKeys.getD (s.reqOf rq).keySlot []
  | .installer => s.cfg.inForce.installerKey
  | _ => s.cfg.makerDigest

/-- A record not yet numbered (Table 18-7). -/
def State.auditRec (s : State) (rq : Requester) (a : AuditAct) (result target old new : Nat) : AuditRec where
  seq := 0
  tick := s.tick
  boot := s.cfg.bootCount
  role := (s.roleOf rq).code
  req := rq.code.val
  action := a.code
  result := result
  keyId := if s.roleOf rq == .none then 0
    else BitVec.ofNat 32 (leNat ((Config.shake256 (s.sessionKey rq)).take 4))
  target := target
  old := old
  new := new
  detail := []
  prev := []
  digest := []

/-- Bytes 0 to 187 of a record, which its digest covers. -/
def AuditRec.body (r : AuditRec) : List Byte :=
  leBytes 8 r.seq ++ leBytes 8 r.tick ++ leBytes 4 r.boot ++ [BitVec.ofNat 8 r.role, BitVec.ofNat 8 r.req] ++
  leBytes 2 r.action ++ [BitVec.ofNat 8 r.result, 0, 0, 0] ++ leBytes 4 r.keyId.toNat ++ leBytes 8 r.target ++
  leBytes 8 r.old ++ leBytes 8 r.new ++ (r.detail ++ List.replicate 68 0).take 68 ++ r.prev

/-- The 256 bytes of a record's page (R532). -/
def AuditRec.bytes (r : AuditRec) : List Byte := r.body ++ r.digest ++ leBytes 4 0x0000A55A

/-- A record numbered and chained to the one before it (R532). -/
def Sec.seal (c : Sec) (r : AuditRec) : AuditRec :=
  let r := { r with seq := c.nextSeq, prev := match c.log.head? with
    | some p => p.digest
    | none => List.replicate 64 0 }
  { r with digest := Config.shake256 r.body }

/-- Records that the log holds once one of the given SEQ is written: those of its sector, and the 65,280 of the other 255;
the next one is taken to be erased as the sector fills (R533, log 140). -/
def auditKept (seq : Nat) : Nat := 65280 + (seq % 256 + 1)

/-- A record committed to the log (R532, R533). -/
def Sec.commit (c : Sec) (r : AuditRec) : Sec :=
  { c with log := (c.seal r :: c.log).take (auditKept c.nextSeq), nextSeq := c.nextSeq + 1 }

/-- Whether a flash commit may start: none does in an emergency off (Table 17-5). -/
def State.flashOk (s : State) : Bool := s.pwr.state != .emergency && s.pwr.state != .off

/-- A record put behind the pending ones with what its commit releases; at most 64 wait (R531). -/
def State.pend (s : State) (r : AuditRec) (a : PendingAct) : State :=
  if s.sec.auditFail then s
  else if 64 ≤ s.sec.pending.length then
    { s with sec := { s.sec with auditRefused := satAdd 0xFFFF s.sec.auditRefused 1 } }
  else { s with sec := { s.sec with pending := s.sec.pending ++ [⟨r, a⟩] } }

/-- A happening that is recorded and releases nothing. -/
def State.note (s : State) (rq : Requester) (a : AuditAct) (result target old new : Nat) : State :=
  s.pend (s.auditRec rq a result target old new) .note

/-- A privileged action that has a command of its own: refused without its right (R519); done at once by a requester
whose acceptance depends on no role; otherwise done when its record commits, in this step where no record waits
before it (R531, log 14). -/
def State.privileged (s : State) (rq : Requester) (need : Right) (addr : Nat) (r : AuditRec) (a : PendingAct)
    (now : State → State) : State :=
  match s.access rq need with
  | .refused => s.regAccess rq addr 3
  | .atOnce => now s
  | .audited =>
    if s.sec.auditFail || s.sec.pending != [] || !s.flashOk then s.pend r a
    else now { s with sec := s.sec.commit r }

/-- An action that is recorded whoever asks it (a fence, R531). -/
def State.recorded (s : State) (rq : Requester) (need : Right) (addr : Nat) (r : AuditRec) (a : PendingAct)
    (now : State → State) : State :=
  match s.access rq need with
  | .refused => s.regAccess rq addr 3
  | _ =>
    if s.sec.auditFail || s.sec.pending != [] || !s.flashOk then s.pend r a
    else now { s with sec := s.sec.commit r }

end Sys2Proof.Machine
end

