-- ==== Sys2Proof/Machine/Leases.lean ====
section
/-! DEFINITION. Whole ranges of memory cleared or poisoned, and leases (R436 to R439). -/

namespace Sys2Proof.Machine

/-! ### Ranges of memory -/

/-- A run of stack offsets. -/
structure Span where
  st : Nat
  lo : Nat
  hi : Nat
deriving DecidableEq, Repr

/-- The stack offsets of pages `g0..g1` dealt over `m` stacks from stack `first`, offsets from `base` (R327). -/
def dealt (first m base lo hi : Nat) : List Span :=
  let g0 := lo / 4096
  let g1 := (hi - 1) / 4096
  (List.range m).filterMap (fun k =>
    let gf := g0 + (k + m - g0 % m) % m
    let gl := g1 - (g1 % m + m - k) % m
    if hi ≤ lo || gl < gf || g1 < (g1 % m + m - k) % m then none
    else some ⟨first + k,
      base + gf / m * 4096 + (if gf = g0 then lo % 4096 else 0),
      base + gl / m * 4096 + (if gl = g1 then (hi - 1) % 4096 + 1 else 4096)⟩)

/-- The runs of stack offsets that a device range inside one interleave covers (R327). -/
def spansOf (split lo hi : Nat) : List Span :=
  if lo < 12 * split * gib then dealt 0 12 0 lo hi
  else
    let w := lo - 12 * split * gib
    let span := 3 * (96 - split) * gib
    dealt (3 * (w / span)) 3 (split * gib) (w % span) (w % span + (hi - lo))

/-- Every unit of a run of stack offsets poisoned or cleaned, where its contents stand (R335). -/
def MemSys.poisonSpan (m : MemSys) (t : RepairTables) (p : Span) (b : Bool) : MemSys :=
  let mark := fun (r : Ranges) (lo hi : Nat) =>
    let a := dramKey p.st lo / 64
    let z := (dramKey p.st hi + 63) / 64
    if b then Ranges.put r a z else Ranges.cut r a z
  let r := mark m.dramPoison p.lo p.hi
  let r := t.remaps.foldl (fun r x => (List.range 4).foldl (fun r k =>
    let o := slotOffset x.row k
    let q := (24960 + x.spare) * 2 ^ 22 + o % 2 ^ 22
    if p.lo ≤ o ∧ o < p.hi then mark r q (q + 256) else r) r) r
  let r := t.retired.foldl (fun r x =>
    if p.lo ≤ x.1 * 4096 ∧ x.1 * 4096 < p.hi then mark r (x.2 * 4096) (x.2 * 4096 + 4096) else r) r
  { m with dramPoison := r }

/-- Every byte of a run of stack offsets back to zero, and its cache lines dropped without write-back. -/
def MemSys.clearSpan (m : MemSys) (t : RepairTables) (p : Span) : MemSys :=
  { m with
    dram := m.dram.filter (fun c => !(c.1 / 2 ^ 37 == p.st &&
      decide (p.lo ≤ unrepaired t (c.1 % 2 ^ 37)) && decide (unrepaired t (c.1 % 2 ^ 37) < p.hi)))
    cache := m.cache.filter (fun l => !(l.stack == p.st && decide (p.lo < (l.line + 1) * 256) && decide (l.line * 256 < p.hi))) }

/-- The poison of cached lines that a run covers set to `b`. -/
def MemSys.poisonCached (m : MemSys) (p : Span) (b : Bool) : MemSys :=
  { m with
    cache := m.cache.map (fun l =>
      if l.stack == p.st then
        { l with
          poison := (List.range 4).map (fun u =>
            if p.lo < l.line * 256 + 64 * (u + 1) ∧ l.line * 256 + 64 * u < p.hi then b else l.poison.getD u false) }
      else l) }

/-- A device range poisoned: stack memory and its cached lines, or a scratchpad window. -/
def State.poisonRange (s : State) (lo len : Nat) : State :=
  match placeOf s lo with
  | .stack .. =>
    (spansOf s.sdies[0].split lo (lo + len)).foldl (fun s p =>
      let t := s.sdies[Fin.ofNat 12 p.st].tables
      ({ s with mem := (s.mem.poisonSpan t p true).poisonCached p true }).countPoison p.st ((p.hi + 63) / 64 - p.lo / 64) 0) s
  | .pad die off =>
    { s with mem := { s.mem with
        padPoison := Ranges.put s.mem.padPoison (padKey die off / 64) ((padKey die (off + len) + 63) / 64) } }
  | _ => s

/-- A device range scrubbed to zero and its poison cleared (R282). -/
def State.scrubRange (s : State) (lo len : Nat) : State :=
  match placeOf s lo with
  | .stack .. =>
    (spansOf s.sdies[0].split lo (lo + len)).foldl (fun s p =>
      let t := s.sdies[Fin.ofNat 12 p.st].tables
      { s with mem := (s.mem.clearSpan t p).poisonSpan t p false }) s
  | .pad die off =>
    let k := padKey die off
    { s with mem := { s.mem with
        pad := s.mem.pad.clear k (k + len)
        padPoison := Ranges.cut s.mem.padPoison (k / 64) ((k + len + 63) / 64) } }
  | _ => s

/-! ### Leases -/

/-- A lease granted over a range and further runs of addresses (R436). -/
def State.grantOver (s : State) (kind job : Nat) (unit : Word) (fid base len : Nat) (cover : List (Nat × Nat)) : State :=
  s.setFlt (fun f =>
    let l : Lease := ⟨kind, f.nextLease, job, unit, fid, base, len, cover, s.tick + f.grace, none⟩
    { f with leases := f.leases ++ [l], nextLease := f.nextLease + 1 })

/-- A lease granted over a range. -/
def State.grant (s : State) (kind job : Nat) (unit : Word) (fid base len : Nat) : State :=
  s.grantOver kind job unit fid base len []

/-- Whether a lease is held for a piece of work, and its revocation has not begun. -/
def Lease.heldBy (l : Lease) (kind job fid : Nat) : Bool :=
  l.kind == kind && l.job == job && l.fid == fid && l.revoking.isNone

/-- The leases of a piece of work renewed (R436, R437). -/
def State.renew (s : State) (kind job fid : Nat) : State :=
  s.setFlt (fun f => { f with
    leases :=
    f.leases.map (fun l => if l.heldBy kind job fid then { l with expiry := s.tick + f.grace } else l) })

/-- The leases of a command ended by its completion (R436). -/
def State.release (s : State) (kinds : List Nat) (job fid : Nat) : State :=
  s.setFlt (fun f => { f with
    leases := f.leases.filter (fun l =>
    !(kinds.contains l.kind && l.job == job && l.fid == fid && l.revoking.isNone)) })

/-- Packets held by a reorder lease written to their addresses with all four poison bits set, the stream closed and
later arrivals discarded (R404). -/
def State.closeReorder (s : State) (l : LIx) (sel : Reorder → Bool) (poison : Bool) : State :=
  match s.ldies[l].leases.find? sel with
  | none => s
  | some r =>
    let s := if poison then
        r.held.foldl (fun s p =>
          if p.kind == .write || p.kind == .add then writeMem s (some p.job) p.addr (p.payload.take p.length) .stream true
          else s) s
      else s
    s.modLDie l (fun d => { d with leases := d.leases.map (fun x => if sel x then { x with held := [], closed := true, gapSince := none } else x) })

/-- A context's streams on a channel closed at both ends (R426). -/
def LDie.closeChannel (d : LDie) (j ch : Nat) : LDie :=
  { d with
    streams := d.streams.map (fun x =>
      if x.job == j && x.channel == ch && !x.sys then { x with closed := true, waiting := [] } else x)
    leases := d.leases.map (fun x =>
      if x.job == j && x.channel == ch && !x.sys then { x with closed := true, held := [] } else x) }

/-- A poison window opened (R438), at most 16 at a time. -/
def SDie.openWindow (d : SDie) (w : Nat × Nat) : SDie := { d with windows := (d.windows ++ [w]).take 16 }
def SDie.closeWindow (d : SDie) (w : Nat × Nat) : SDie := { d with windows := d.windows.filter (fun x => x != w) }

/-- Covered data starts to be poisoned: windows in stack memory, the range at once in a scratchpad (Table 14-3). -/
def State.startPoison (s : State) (base len : Nat) : State :=
  match placeOf s base with
  | .stack .. => { s with sdies := s.sdies.map (fun d => SDie.openWindow d (base, len)) }
  | _ => s.poisonRange base len

/-- A reducing collective fails with a sub-cause of Table 13-4 (R426): the job faults, the failure is recorded, its
streams on the channel close. -/
def State.colFail (s : State) (j : JobIx) (ch sub : Nat) : State :=
  match s.cols.find? (fun c => c.job == j.val && c.ch == ch) with
  | none => s
  | some r =>
    let s := s.modCtx j (fun c =>
      if c.colFlt.bit 8 then c
      else { c with
        colTag := BitVec.ofNat 32 (slotField r.bytes 64 4)
        colFlt := Word.flag true 8 ||| Word.at' ch 4 ||| Word.at' sub 0 })
    let s := { s with
      cols := s.cols.filter (fun c => !(c.job == j.val && c.ch == ch))
      ldies := s.ldies.map (fun d => LDie.closeChannel d j.val ch) }
    let s := if sub == 1 then s.modLDie (Fin.ofNat 3 r.die) (fun d => { d with colCnt := d.colCnt.bump 15 0 1 }) else s
    s.jobFault j (faultOf 3 0x2D 3 0 (unitId 3 0 0x23 0) r.bytes)

/-- A revocation begins (R438, Table 14-3): the holder loses access and the covered data starts to be poisoned. What its
command loses by it goes to LEASE (Table 9-3). -/
def State.revoke (s : State) (k cause : Nat) : State :=
  match s.flt.leases[k]? with
  | none => s
  | some l =>
    if l.revoking.isSome then s
    else
      let s := s.setFlt (fun f => { f with
        leases := modAt f.leases k (fun l => { l with revoking := some (s.tick, cause) })
        leaseCnt := if cause == 1 then f.leaseCnt.bump 31 16 1 else f.leaseCnt.bump 15 0 1 })
      match l.kind with
      | 2 => s.closeReorder (Fin.ofNat 3 (unitName l.unit).die)
          (fun r => r.job == l.job && r.srcRank * 16 + r.channel == l.fid && !r.sys) true
      | 3 =>
        let ch := ((s.cols.find? (fun c => c.job == l.job && c.fid == l.fid)).map (fun c => c.ch)).getD 16
        (s.startPoison l.base l.len).colFail (Fin.ofNat 64 l.job) ch 6
      | 4 => l.cover.foldl (fun s p => s.poisonRange p.1 p.2) (s.accrueFree (Fin.ofNat 64 l.job) l.fid 4)
      | _ => (s.accrueFree (Fin.ofNat 64 l.job) l.fid 4).startPoison l.base l.len

/-- A revocation completes: the data poisoned, the resource free, the record written, the event raised (R438). -/
def State.revokeDone (s : State) (k : Nat) : State :=
  match s.flt.leases[k]? with
  | none => s
  | some l =>
    match l.revoking with
    | none => s
    | some (_, cause) =>
      let s := s.poisonRange l.base l.len
      let s := { s with sdies := s.sdies.map (fun d => SDie.closeWindow d (l.base, l.len)) }
      let s := if l.kind == 2 then
          s.modLDie (Fin.ofNat 3 (unitName l.unit).die) (fun d => { d with
            leases := d.leases.filter (fun r =>
            !(r.job == l.job && r.srcRank * 16 + r.channel == l.fid && !r.sys)) })
        else s
      let s := s.setFlt (fun f => { f with leases := f.leases.eraseIdx k })
      let s := s.record { blankRec l.unit 0x48 1 with
        job := some l.job
        syndrome := [BitVec.ofNat 8 l.kind, BitVec.ofNat 8 cause] ++ leBytes 2 l.num ++ [BitVec.ofNat 8 l.job] }
      s.raise 323

/-- Every lease of a context revoked for recovery (R282, R438). -/
def State.revokeJob (s : State) (j : JobIx) : State :=
  (List.range s.flt.leases.length).foldl (fun s k =>
    if s.flt.leases[k]?.any (fun l => l.job == j.val) then s.revoke k 2 else s) s

/-- LEASE_EXPIRY: a lease reaches its expiry tick with its holder still holding it (R437). -/
def execLeaseExpiry (k : Nat) (s : State) : Host.Outcome State Fault Refusal :=
  .next (if s.flt.leases[k]?.any (fun l => l.revoking.isNone && decide (l.expiry ≤ s.tick)) then s.revoke k 1 else s)

/-- LEASE_REVOKE_DONE (R438). -/
def execLeaseRevokeDone (k : Nat) (s : State) : Host.Outcome State Fault Refusal := .next (s.revokeDone k)

end Sys2Proof.Machine
end

