-- ==== Sys2Proof/Machine/Contexts.lean ====
section
/-! DEFINITION. Job contexts and queues (R272, R273, R278 to R284): the operations of DSP_CTX_CMD and DSP_Q_CTRL. -/

namespace Sys2Proof.Machine

/-! ### Regions (R280) -/

/-- Whether the module is ready, so that contexts may open (R512). -/
def State.ready (s : State) : Bool := s.pwr.state == .active || s.pwr.state == .idle || s.pwr.state == .deepIdle

/-- A region table entry's fields (Table 8-9); none where VALID is 0. -/
def parseRegion (b : List Byte) : Option Region :=
  let k := slotField b 12 1
  if k.testBit 7 then some ⟨slotField b 0 6, slotField b 8 4, k % 8, k / 16 % 4, k.testBit 6⟩ else none

def Region.bytes (r : Region) : Nat := r.pages * 4096

/-- Whether an entry lies in the populated range of its kind (R280, R327, R475, R544). -/
def Region.inRange (split : Nat) (r : Region) : Bool :=
  let lo := r.base
  let hi := r.base + r.bytes
  match r.kind with
  | 0 => decide (hi ≤ 12 * split * gib)
  | 1 =>
    let w := 12 * split * gib + r.die * (3 * (96 - split) * gib)
    decide (w ≤ lo) && decide (hi ≤ w + 3 * (96 - split) * gib)
  | 2 => decide (0x080000000000 + r.die * 0x10000000 ≤ lo) && decide (hi ≤ 0x080000000000 + r.die * 0x10000000 + 0x0C000000)
  | 3 => decide (r.die < 2) && decide (0x0C0000000000 + r.die * 2 ^ 40 ≤ lo) && decide (hi ≤ 0x0C0000000000 + (r.die + 1) * 2 ^ 40)
  | _ => false

def Region.overlaps (a b : Region) : Bool := decide (a.base < b.base + b.bytes) && decide (b.base < a.base + a.bytes)

def pairwiseOk : List Region → Bool
  | [] => true
  | r :: rs => rs.all (fun x => !r.overlaps x) && pairwiseOk rs

/-- Whether a table of valid entries may be loaded for context `j` (R280). -/
def tableOk (s : State) (j : JobIx) (rs : List Region) : Bool :=
  rs.all (fun r => r.base % 4096 == 0 && r.pages != 0 && r.inRange s.sdies[0].split) && pairwiseOk rs &&
  (List.finRange 64).all (fun k => k == j || s.ctxs[k].regions.all (fun x => rs.all (fun r => !r.overlaps x)))

/-- The region of a context that holds a whole range. -/
def Ctx.regionOf (c : Ctx) (a n : Nat) : Option Region :=
  c.regions.find? (fun r => decide (r.base ≤ a) && decide (a + n ≤ r.base + r.bytes))

/-- Whether a port's window is locked: an OPEN context holds a KIND 3 region on it (R481). -/
def State.hwinLock (s : State) (h : HIx) : Bool :=
  (List.finRange 64).any (fun k => s.ctxs[k].state == .opened && s.ctxs[k].regions.any (fun r => r.kind == 3 && r.die == h.val))

/-- The entries of a 4 KiB table. -/
def parseTable (b : List Byte) : List Region :=
  (List.range 256).filterMap (fun i => parseRegion ((b.drop (16 * i)).take 16))

/-- The region table read and checked (R280): none while its stack waits; otherwise what it holds when it may load. -/
def readTable (s : State) (j : JobIx) : Option (Option (List Region) × Bool × State) :=
  let (g, s) := readMem s none (s.ctx j).rgn 4096 .stream
  if g.waits then none
  else
    let rs := parseTable g.data
    some (if !g.poison && tableOk s j rs then some rs else none, g.poison, s)

/-- A rank table entry (R395). -/
def parseRank (w : Nat) : RankEntry := ⟨⟨bitsOf w 3 0, bitsOf w 7 4, bitsOf w 11 8⟩, bitsOf w 17 12, w.testBit 31⟩

/-- The rank table as the L-dies load it when the context opens (R395); none while a stack keeps the read waiting. -/
def readRanks (s : State) (j : JobIx) : Option (List RankEntry × State) :=
  let n := (s.ctx j).rankCfg.field 12 0
  let (g, s) := readMem s none (s.ctx j).rankBase (4 * n) .stream
  if g.waits then none else some ((List.range n).map (fun r => parseRank (slotField g.data (4 * r) 4)), s)

/-! ### What opening and resetting a context leave -/

/-- A queue as a job reset leaves it (R281). -/
def Queue.reset (q : Queue) : Queue := { Reset.queue with base := q.base, log2 := q.log2 }

/-- The registers and records of a job that OPEN and a job reset clear or load (R185, R266, R281, R292, R316, R429). -/
def Ctx.cleared (c : Ctx) (b : ImageBody) : Ctx :=
  { c with
    jobStatus := 0
    fault := 0
    faultCmd := 0
    faultStep := 0
    queues := c.queues.map Queue.reset
    sb := Vector.replicate 64 0
    rowCfg := b.rowCfg
    rowStat := c.rowStat.setField 0 0 0
    rowBase := 0
    rowStep := 0
    rowKept := []
    fbCfg := b.fbCfg
    stormCfg := b.stormCfg
    rknCfg := b.rknCfg
    miss := 0
    missStep := 0
    layers := []
    colBusy := 0
    colTag := 0
    colFlt := 0
    updStarted := []
    reloads := false }

/-- A context's index and drop counts on one C-die cleared (R248, R249). -/
def CDie.clearCounts (d : CDie) (j : JobIx) : CDie :=
  { d with ctxs := upd d.ctxs j (fun x => { x with zeroed := 0, dropped := 0 }) }

/-- The effects that RESET_JOB and CLOSE share (R281): work cancelled, queues DISABLED, registers cleared or loaded,
the context's protected lines demoted. -/
def State.resetJob (s : State) (j : JobIx) : State :=
  let s := s.cancelWork j
  let s := { s with
    mem := demoteOwner s.mem j.val
    cdies := s.cdies.map (fun d => CDie.clearCounts d j) }
  s.modCtx j (fun c => c.cleared s.cfg.inForce)

/-- ERR set by an operation that is not valid in the context's state (R286, R289). -/
def State.ctxErr (s : State) (j : JobIx) : State := s.modCtx j (fun c => { c with err := true })

/-- The pending bits of a context's events cleared (R458). -/
def Evc.clearCtx (v : Evc) (j : Nat) : Evc :=
  { v with pend := v.pend.filter (fun e => !(e == j || e == 64 + j || e == 128 + j || e == 192 + j)) }

/-- OPEN (R278, R286): a FREE context starts loading. -/
def State.ctxOpen (s : State) (j : JobIx) : State :=
  if (s.ctx j).state == .free && s.ready then
    let s := s.evUpdate (fun v => v.clearCtx j.val)
    let s := { s with cdies := s.cdies.map (fun d => CDie.clearCounts d j) }
    s.modCtx j (fun c => { c.cleared s.cfg.inForce with
      state := .opening
      err := false
      rowStat := 0
      stormStat := 0
      stormEnd := 0
      admitStat := 0
      doorbells := 0 })
  else s.ctxErr j

/-- RESET_JOB (R278, R281). -/
def State.ctxReset (s : State) (j : JobIx) : State :=
  if (s.ctx j).state == .opened || (s.ctx j).state == .faulted then
    (s.resetJob j).modCtx j (fun c => { c with state := .resetting, err := false })
  else s.ctxErr j

/-- CLOSE (R278, R282): leases revoked first, then as RESET_JOB; its doorbells are recorded (R531). -/
def State.ctxClose (s : State) (rq : Requester) (j : JobIx) : State :=
  if (s.ctx j).state == .opened || (s.ctx j).state == .faulted then
    let s := s.revokeJob j
    let n := (s.ctx j).doorbells
    let s := if n == 0 then s else s.note rq .doorbell 0 j.val 0 n
    (s.resetJob j).modCtx j (fun c => { c with state := .closing, err := false, doorbells := 0 })
  else s.ctxErr j

/-- RELOAD_REGIONS (R280): accepted while every queue of the OPEN context is DISABLED. A stack may keep its read waiting;
REGION_TABLE_LOAD then completes it. -/
def State.ctxReload (s : State) (j : JobIx) : State :=
  let c := s.ctx j
  if c.state == .opened && (c.reloads || c.queues.all (fun q => q.state == .disabled)) then
    match readTable s j with
    | none => s.modCtx j (fun c => { c with reloads := true })
    | some (some rs, _, s) => s.modCtx j (fun c => { c with regions := rs, err := false, reloads := false })
    | some (none, bad, s) =>
      let s := if bad then s.record { blankRec (unitId 1 (homeOf (s.ctx j)).val 5 0) 0x29 1 with job := some j.val } else s
      (s.modCtx j (fun c => { c with reloads := false })).ctxErr j
  else s.ctxErr j

/-- The operation codes of DSP_CTX_CMD (Table 8-11); other values are ignored. -/
def State.ctxOp (s : State) (rq : Requester) (op : Nat) (j : JobIx) : State :=
  match op with
  | 1 => s.ctxOpen j
  | 2 => s.ctxClose rq j
  | 3 => s.ctxReset j
  | 4 => s.ctxReload j
  | _ => s

/-- The address of DSP_CTX_CMD, and the word that names an operation of it. -/
def ctxCmdAddr : Nat := regBase + 0x101000
def ctxCmdWord (op : Nat) (j : JobIx) : Nat := op + j.val * 256

/-- A write of DSP_CTX_CMD by a requester (R279, R286, R531). -/
def State.ctxCmd (s : State) (rq : Requester) (op : Nat) (j : JobIx) : State :=
  s.privileged rq .operator ctxCmdAddr (s.auditRec rq .regWrite 0 ctxCmdAddr 0 (ctxCmdWord op j)) (.ctxOp op j)
    (fun s => s.ctxOp rq op j)

/-! ### Queues -/

/-- Whether a slot's bytes make a whole command: an extended one has both slots (R257). The slots of a chained run are
read together, so an extended command cut off by the run's end is held as it is (R270). -/
def HeldCmd.whole (h : HeldCmd) : Bool :=
  h.bytes.length == 128 || h.runIdx.isSome || (slotField h.bytes 1 1) % 2 == 0

def HeldCmd.isHead (h : HeldCmd) : Bool := opcodeOf h.bytes == 1
def HeldCmd.isEnd (h : HeldCmd) : Bool := (slotField h.bytes 1 1).testBit 1

/-- Where a queue that has something to do goes on (Table 8-10): held commands of an admitted list run on; IDLE with
something to fetch goes to ADMITTING, ACTIVE at the next LIST_HEAD; ACTIVE with nothing left idles, but for one that a
SKIP sent on to the next LIST_HEAD. -/
def Queue.settle (q : Queue) : Queue :=
  let more := q.held != [] || q.head != q.tail
  match q.state with
  | .idle => if q.curList.isSome then { q with state := .active } else if more then { q with state := .admitting } else q
  | .active =>
    if q.curList.isSome || q.skipHead then q
    else if q.held.head?.any (fun h => h.whole && h.isHead) then { q with state := .admitting }
    else if more then q
    else { q with state := .idle }
  | _ => q

/-- Whether the ring is well placed (R272). -/
def ringOk (c : Ctx) (q : Queue) : Bool :=
  decide (6 ≤ q.log2) && decide (q.log2 ≤ 20) && (c.regionOf q.base (2 ^ q.log2 * 64)).isSome

/-- A QUEUE record: 1 ring invalid, 2 TAIL out of range, 3 multiple CTRL bits (Table 14-8). -/
def State.queueRec (s : State) (j : JobIx) (e : EngIx) (why : Nat) : State :=
  s.record { blankRec (unitId 1 (homeOf (s.ctx j)).val 5 0) 0x4A 1 with
    job := some j.val
    syndrome := [BitVec.ofNat 8 j.val, BitVec.ofNat 8 e.val, BitVec.ofNat 8 why] }

/-- ENABLE (R272, R283, R284). -/
def State.qEnable (s : State) (j : JobIx) (e : EngIx) : State :=
  let q := s.queue j e
  match q.state with
  | .disabled =>
    if (s.ctx j).state != .opened then s
    else if ringOk (s.ctx j) q then s.modQ j e (fun q => Queue.settle { q with state := .idle })
    else s.queueRec j e 1
  | .draining => s.modQ j e (fun q => { q with state := .armed })
  | _ => s

/-- Ticks spent waiting go to the account of the wait (Table 9-3). -/
def Queue.accrueWait (q : Queue) (now : Nat) : Queue :=
  match q.waitSince with
  | none => q
  | some (a, t) => { q with
    waitSince := none
    lists := q.lists.map (fun l =>
      if some l.lid == q.curList then { l with accounts := modAt l.accounts a (· + 44 * (now - t)) } else l) }

/-- DISABLE (R284). -/
def State.qDisable (s : State) (j : JobIx) (e : EngIx) : State :=
  s.modQ j e (fun q =>
    match q.state with
    | .disabled => q
    | .admitting => { q with state := .draining, admitPend := q.held != [] || q.head != q.tail }
    | _ => { q.accrueWait s.tick with state := .draining })

/-- RESUME (R283): the halting command is decoded again; a rejected list is admitted again (Table 9-8). -/
def State.qResume (s : State) (j : JobIx) (e : EngIx) : State :=
  if (s.queue j e).state == .halted && (s.ctx j).state != .faulted then
    s.modQ j e (fun q => Queue.settle { q with state := .active, skipHead := false })
  else s

/-- The front command taken off; one with END ends its list (R268). -/
def Queue.pop (q : Queue) : Queue :=
  let ends := q.held.head?.any HeldCmd.isEnd
  { q with
    held := q.held.drop 1
    passed := 0
    skipLeft := if ends then 0 else q.skipLeft
    lists := if ends then q.lists.map (fun l => if some l.lid == q.curList then { l with ended := true } else l) else q.lists
    curList := if ends then none else q.curList }

/-- The plan of the current list without its next command; a CHAIN that is passed over takes its run with it. -/
def Queue.unplan (q : Queue) (ovr : Bool) : Queue :=
  { q with
    lists := q.lists.map (fun l =>
      if some l.lid == q.curList then
        { l with plan := l.plan.drop (1 + if ovr then (l.plan.head?.map (·.run)).getD 0 else 0) }
      else l) }

/-- Commands a BRANCH passes over, and everything up to the next LIST_HEAD after a SKIP there: fuel, the queue (R269,
R283). -/
def Queue.passOver : Nat → Queue → Queue
  | 0, q => q
  | k + 1, q =>
    match q.held with
    | [] => q
    | h :: rest =>
      if !h.whole then q
      else if q.skipHead then
        if h.isHead then { q with skipHead := false } else Queue.passOver k { q with held := rest }
      else if 0 < q.skipLeft then Queue.passOver k ({ q.unplan true with skipLeft := q.skipLeft - 1 }).pop
      else q

/-- SKIP (R283): over the halting command; over its whole list after ADMIT; up to the next LIST_HEAD after an OPCODE
fault where a list must begin. A halting command that ends its list ends it. -/
def Queue.skip (q : Queue) : Queue :=
  if q.cause == 0x11 then
    Queue.passOver (q.held.length + 1) { q with
      held := q.afterSkip
      afterSkip := []
      state := .active }
  else if q.curList.isNone then
    Queue.passOver (q.held.length + 1) { q with held := q.held.drop 1, skipHead := true, state := .active }
  else { (q.unplan true).pop with state := .active }

def State.qSkip (s : State) (j : JobIx) (e : EngIx) : State :=
  if (s.queue j e).state == .halted && (s.ctx j).state != .faulted then s.modQ j e (fun q => q.skip.settle) else s

/-- One bit of DSP_Q_CTRL (Table 8-15): 1 ENABLE, 2 DISABLE, 4 RESUME, 8 SKIP; more than one is ignored (R284). -/
def State.qCtrl (s : State) (j : JobIx) (e : EngIx) (v : Nat) : State :=
  match v with
  | 0 => s
  | 1 => s.qEnable j e
  | 2 => s.qDisable j e
  | 4 => s.qResume j e
  | 8 => s.qSkip j e
  | _ => s.queueRec j e 3

def queueAddr (j : JobIx) (e : EngIx) (off : Nat) : Nat := regBase + 0x108000 + j.val * 0x100 + e.val * 0x20 + off

/-- A write of DSP_Q_CTRL by a requester (R279, R531). -/
def State.qCtrlCmd (s : State) (rq : Requester) (j : JobIx) (e : EngIx) (v : Nat) : State :=
  s.privileged rq .operator (queueAddr j e 0x14) (s.auditRec rq .regWrite 0 (queueAddr j e 0x14) 0 v) (.queueOp v j e)
    (fun s => s.qCtrl j e v)

/-- A write of TAIL (R273): effective at once, counted for the DOORBELL record (R531). -/
def State.qTail (s : State) (j : JobIx) (e : EngIx) (v : Nat) : State :=
  if 2 ^ (s.queue j e).log2 ≤ v then s.queueRec j e 2
  else
    s.modCtx j (fun c => { c.modQ e (fun q => Queue.settle { q with tail := v }) with doorbells := c.doorbells + 1 })

/-- The held commands and their lists discarded (R284). -/
def Queue.discard (q : Queue) : Queue :=
  { q with held := [], afterSkip := [], lists := [], curList := none, skipLeft := 0, skipHead := false, admitPend := false, passed := 0 }

/-- A write of DSP_Q_BASE, DSP_Q_SIZE or DSP_Q_HEAD, taken only while DISABLED (R284, R293). `which`: 0 BASE, 1 SIZE,
2 HEAD. -/
def State.qRing (s : State) (j : JobIx) (e : EngIx) (which v : Nat) : State :=
  s.modQ j e (fun q =>
    if q.state != .disabled then q
    else match which with
      | 0 => { q.discard with base := bitsOf v 47 6 * 64 }
      | 1 => { q.discard with log2 := v % 32 }
      | _ => { q.discard with head := v % 2 ^ 20 })

/-! ### The commands -/

/-- OPEN (R278). -/
def execOpenCtx (rq : Requester) (j : JobIx) (s : State) : Host.Outcome State Fault Refusal := .next (s.ctxCmd rq 1 j)

/-- REGION_TABLE_LOAD (R278, R280, R395). -/
def execRegionTableLoad (j : JobIx) (s : State) : Host.Outcome State Fault Refusal :=
  .next (
    if (s.ctx j).reloads then s.ctxReload j
    else if (s.ctx j).state != .opening then s
    else match readTable s j with
      | none => s
      | some (some rs, _, s') =>
        match readRanks s' j with
        | none => s
        | some (rk, s) => s.modCtx j (fun c => { c with state := .opened, regions := rs, ranks := rk })
      | some (none, bad, s) =>
        let s := if bad then s.record { blankRec (unitId 1 (homeOf (s.ctx j)).val 5 0) 0x29 1 with job := some j.val } else s
        s.modCtx j (fun c => { c with state := .free, err := true }))

/-- CLOSE (R282). -/
def execClose (rq : Requester) (j : JobIx) (s : State) : Host.Outcome State Fault Refusal := .next (s.ctxCmd rq 2 j)

/-- RESET_JOB (R281). -/
def execResetJob (rq : Requester) (j : JobIx) (s : State) : Host.Outcome State Fault Refusal := .next (s.ctxCmd rq 3 j)

/-- RELOAD_REGIONS (R280). -/
def execReloadRegions (rq : Requester) (j : JobIx) (s : State) : Host.Outcome State Fault Refusal :=
  .next (s.ctxCmd rq 4 j)

/-- CONTEXT_CANCEL_DONE (R278): the work in flight is cancelled, and a closing context's revocations are complete. -/
def execContextCancelDone (j : JobIx) (s : State) : Host.Outcome State Fault Refusal :=
  .next (
    match (s.ctx j).state with
    | .resetting => s.modCtx j (fun c => { c with state := .opened })
    | .closing =>
      if s.flt.leases.any (fun l => l.job == j.val && l.revoking.isSome) then s
      else s.modCtx j (fun c => { c with state := .scrubbing })
    | _ => s)

/-- CONTEXT_SCRUB_DONE (R278, R282): every region but a host window's is zero and clean, and the context is FREE. -/
def execContextScrubDone (j : JobIx) (s : State) : Host.Outcome State Fault Refusal :=
  .next (
    if (s.ctx j).state != .scrubbing then s
    else
      let s := (s.ctx j).regions.foldl (fun s r => if r.kind < 3 then s.scrubRange r.base r.bytes else s) s
      s.modCtx j (fun c => { c with state := .free, regions := [], ranks := [] }))

/-- QUEUE_ENABLE (R283). -/
def execQueueEnable (rq : Requester) (j : JobIx) (e : EngIx) (s : State) : Host.Outcome State Fault Refusal :=
  .next (s.qCtrlCmd rq j e 1)

/-- QUEUE_DISABLE (R284). -/
def execQueueDisable (rq : Requester) (j : JobIx) (e : EngIx) (s : State) : Host.Outcome State Fault Refusal :=
  .next (s.qCtrlCmd rq j e 2)

/-- QUEUE_RESUME (R283). -/
def execQueueResume (rq : Requester) (j : JobIx) (e : EngIx) (s : State) : Host.Outcome State Fault Refusal :=
  .next (s.qCtrlCmd rq j e 4)

/-- QUEUE_SKIP (R283). -/
def execQueueSkip (rq : Requester) (j : JobIx) (e : EngIx) (s : State) : Host.Outcome State Fault Refusal :=
  .next (s.qCtrlCmd rq j e 8)

/-- QUEUE_DRAIN_DONE (R284): the started commands have completed and no list is in admission. -/
def execQueueDrainDone (j : JobIx) (e : EngIx) (s : State) : Host.Outcome State Fault Refusal :=
  .next (s.modQ j e (fun q =>
    if q.inflight != [] || (q.admitPend && (q.held != [] || q.head != q.tail)) then q
    else match q.state with
      | .draining => { q with state := .disabled }
      | .armed => Queue.settle { q with state := .idle }
      | _ => q))

/-- DOORBELL (R273, R279). -/
def execDoorbell (rq : Requester) (j : JobIx) (e : EngIx) (tail : Word) (s : State) :
    Host.Outcome State Fault Refusal :=
  .next (
    if s.access rq .operator == .audited then s.qTail j e (tail.field 19 0)
    else s.regAccess rq (queueAddr j e 0x10) 3)

end Sys2Proof.Machine
end

