-- ==== Sys2Proof/Machine/Fuller.lean ====
section
/-! DEFINITION. Rotation along K (R125, R126) and outlier lists (R131 to R135). -/

namespace Sys2Proof.Machine

/-- The signs of rotation block `b` under a seed (R125): true where the element is negated. -/
def rotSigns (seed : Word) (b : Nat) : List Bool :=
  let s0 := b * 2 ^ 32 + seed.toNat
  let (s1, z0) := nextRandom s0
  let (s2, z1) := nextRandom s1
  let (s3, z2) := nextRandom s2
  let (_, z3) := nextRandom s3
  [z0, z1, z2, z3].flatMap (fun z => (List.range 64).map (fun i => z.testBit i))

/-- One stage of the transform with stride `h`: fuel, then the values. -/
def butterfly (h : Nat) : Nat → List Word → List Word
  | 0, xs => xs
  | _ + 1, [] => []
  | k + 1, xs =>
    let a := xs.take h
    let c := (xs.drop h).take h
    List.zipWith add32 a c ++ List.zipWith sub32 a c ++ butterfly h k (xs.drop (2 * h))

/-- A rotation block of 256 values (R126). -/
def rotate (signs : List Bool) (xs : List Word) : List Word :=
  let xs := List.zipWith (fun n x => if n then x ^^^ 0x80000000#32 else x) signs xs
  let xs := [1, 2, 4, 8, 16, 32, 64, 128].foldl (fun xs h => butterfly h (xs.length + 1) xs) xs
  xs.map (fun x => mul32 x 0x3D800000#32)

/-- What the extraction of one rotation block leaves: the values with the listed ones zero, the list in order, and
which values stay as outliers beyond the fourth. -/
structure Extracted where
  vals : List Word
  list : List (Nat × Word)
  ovr : List Bool
deriving DecidableEq, Repr, Inhabited

/-- An outlier put into a list ordered by descending magnitude, the lower index first among equals. -/
def insertOutlier (x : Nat × Word) : List (Nat × Word) → List (Nat × Word)
  | [] => [x]
  | y :: ys => if (abs32 y.2).toNat < (abs32 x.2).toNat then x :: y :: ys else y :: insertOutlier x ys

/-- The outliers of a rotation block of 256 (R131, R132). -/
def extract (outShift : Nat) (xs : List Word) : Extracted :=
  if xs.any (fun x => !isFin32 x) then ⟨xs, [], xs.map (fun _ => false)⟩
  else
    let sum := xs.foldl (fun a x => add32 a (abs32 x)) 0
    let m := mul32 sum 0x3B800000#32
    let thr := rne32 ((dec32 m).mul (.fin false 1 outShift))
    let isOut := fun x : Word => decide (thr.toNat < (abs32 x).toNat)
    let all := ((List.range xs.length).zip xs).foldl (fun l p => if isOut p.2 then insertOutlier p l else l) []
    let four := all.take 4
    let listed := fun i : Nat => four.any (fun p => p.1 == i)
    let ix := (List.range xs.length).zip xs
    ⟨ix.map (fun p => if listed p.1 then 0#32 else p.2), four, ix.map (fun p => isOut p.2 && !listed p.1)⟩

/-- A list value in BF16 (R133). -/
def listValue (mode : Rnd) (g : Gen) (x : Word) : Nat × Gen := Fp.bf16.encode mode g (dec32 x)

/-- List values in order from one generator. -/
def listValues (mode : Rnd) : Gen → List (Nat × Word) → List (Nat × Nat) × Gen
  | g, [] => ([], g)
  | g, (i, x) :: xs =>
    let (v, g) := listValue mode g x
    let (vs, g) := listValues mode g xs
    ((i, v) :: vs, g)

/-- The 16 bytes of a stored list (Table 4-2). -/
def listBytes (l : List (Nat × Nat)) (ovf : Bool) : List Byte :=
  let at4 := fun i => l.getD i (0, 0)
  (List.range 4).map (fun i => BitVec.ofNat 8 (at4 i).1) ++ (List.range 4).flatMap (fun i => leBytes 2 (at4 i).2) ++
  [BitVec.ofNat 8 (l.length + if ovf then 128 else 0), 0, 0, 0]

/-- A stored list: its entries, whether its writer overflowed, and whether it is well formed (R134, R135). -/
def parseList (b : List Byte) : List (Nat × Word) × Bool × Bool :=
  let c := leNat ((b.drop 12).take 1)
  let n := c % 8
  let es := (List.range n).map (fun i => (leNat ((b.drop i).take 1), ofBf16 (leNat ((b.drop (4 + 2 * i)).take 2))))
  (es, c.testBit 7, n ≤ 4 && (es.map (·.1)).Nodup)

end Sys2Proof.Machine
end

