-- ==== Sys2Proof/Machine/Operands.lean ====
section
/-! DEFINITION. Operands of commands: tensor descriptors and their checks (chapter 6), where elements lie in every
layout, how rows are read, and the writer that every quantising engine shares (R44 to R49, R109, R143, R167 to R181). -/

namespace Sys2Proof.Machine

/-! ### A command in execution -/

/-- What a command in execution carries along: the state, its unit's generator, those of the adder sets it has used,
its parts of scale records, a job fault it has met, and whether it has met a stack that keeps it waiting. -/
structure Env where
  s : State
  job : JobIx
  gen : Gen
  agens : List (Nat × Gen)
  amax : List AmaxPart
  stop : Option Nat
  waits : Bool
  /-- The command's bytes, the number of its flight, and the C-die it runs on. -/
  bytes : List Byte
  fid : Nat
  die : Nat
  /-- The lines that the work item under way has read with LAST, by stack and number. -/
  lasts : List (Nat × Nat) := []
  /-- Owner-table entries read (R211), and the rows of a copy command that wait for the rest of their group. -/
  owners : List (Nat × Nat) := []
  held : List HeldRow := []
  /-- The C-dies that have run a share with something in it. -/
  dies : List Nat := []
deriving Repr, Inhabited

/-- The stack lines that `[a, a+n)` lies in. -/
def linesOf (s : State) (a n : Nat) : List (Nat × Nat) :=
  (pieces 256 (n + 1) a n).filterMap (fun q => match placeOf s q.1 with
    | .stack st off => some (st, off / 256)
    | _ => none)

/-- Steps of a command in execution. -/
abbrev Eng := StateM Env

namespace Eng

def onState (f : State → State) : Eng Unit := modify (fun e => { e with s := f e.s })
def state : Eng State := do return (← get).s
def job : Eng JobIx := do return (← get).job
def context : Eng Ctx := do let e ← get; return e.s.ctx e.job

/-- A job fault at the command, the first one kept (R276). -/
def fail (cause : Nat) : Eng Unit :=
  modify (fun e => if e.stop.isSome then e else { e with stop := some cause })

def failIf (b : Bool) (cause : Nat) : Eng Unit := if b then fail cause else pure ()
def stopped : Eng Bool := do let e ← get; return e.stop.isSome || e.waits
/-- Poison consumed (R335). -/
def consume (p : Bool) : Eng Unit := failIf p 0x29
def status (b : Bool) (i : Nat) : Eng Unit :=
  if b then modify (fun e => { e with s := e.s.setStatus e.job i }) else pure ()

/-- What a quantiser reports in the job status word (R53, R54, R64). -/
def quantStatus (q : Quant) : Eng Unit := do
  status (q.clampTop || q.clampLow) jsScaleClamp
  status q.qnan jsQnan
  status q.flushed jsSubnFlush

/-- A read of the command that consumes no poison: a merge of part of a unit (Table 10-5). Outside the context's regions
it faults the job (Table 8-7). A line read with LAST is invalidated once for all the reads of one work item (R230, R330;
log 15). -/
def get' (a n : Nat) (h : Hint) : Eng Got := do
  let e ← get
  if n == 0 then return ⟨[], false, false, []⟩
  else if ((e.s.ctx e.job).regionOf a n).isNone then
    fail 0x2A
    return ⟨List.replicate n 0, false, false, []⟩
  else
    let (g, s) := readMem e.s (some e.job.val) a n (if h == .last then .stream else h)
    set { e with
      s := s
      waits := e.waits || g.waits
      lasts := if h == Hint.last then (e.lasts ++ linesOf s a n).eraseDups else e.lasts }
    return g

/-- A read of the command: its bytes, and whether any unit they come from is poisoned, which its stack counts as
consumed (R343). -/
def rd (a n : Nat) (h : Hint) : Eng (List Byte × Bool) := do
  let g ← get' a n h
  onState (fun s => s.countConsumed g)
  return (g.data, g.poison)

/-- The lines read with LAST leave the cache: the work item under way has read them, and writes or ends (R330). -/
def settle : Eng Unit :=
  modify (fun e => if e.lasts == [] then e
    else { e with s := { e.s with mem := e.s.mem.dropLines e.lasts }, lasts := [] })

/-- A write of the command. Outside a writable region it faults the job. -/
def wr (a : Nat) (d : List Byte) (h : Hint) (p : Bool) : Eng Unit := do
  settle
  let e ← get
  if d == [] then return ()
  else if !((e.s.ctx e.job).regionOf a d.length).any (fun r => r.write) then fail 0x2A
  else
    match placeOf e.s a with
    | .stack st off => if slotAccess e.s st off == .waits then set { e with waits := true }
    | _ => pure ()
    onState (fun s => writeMem s (some e.job.val) a d h p)

/-- A little-endian word read, and its poison. -/
def wordP (a n : Nat) : Eng (Nat × Bool) := do
  let (d, p) ← rd a n .stream
  return (leNat d, p)

/-- A little-endian word read, its poison consumed. -/
def word (a n : Nat) : Eng Nat := do
  let (v, p) ← wordP a n
  consume p
  return v

/-- The generator used and put back. -/
def withGen {α : Type} (f : Gen → α × Gen) : Eng α := do
  let e ← get
  let (x, g) := f e.gen
  set { e with gen := g }
  return x

/-- The next free value of the run. -/
def free : Eng Nat := do
  let e ← get
  set { e with s := e.s.drawn }
  return e.s.free

/-- An add of the command at the adders or the banks (R331 to R333). A BF16 add rounds with the generator of its stack's
adder set (R58), or with that of the unit that sends it, `own` (Table 7-5). -/
def add (own : Bool) (a fmt : Nat) (sr poison : Bool) (h : Hint) (cmd step : Word) (d : List Byte) : Eng Unit := do
  settle
  let e ← get
  let c := e.s.ctx e.job
  if !(c.regionOf a d.length).any (fun r => r.write && r.kind < 3) then fail 0x2A
  else
    let st := match placeOf e.s a with
      | .stack st _ => st
      | _ => 12
    let g := if own then e.gen else match e.agens.find? (fun p => p.1 == st) with
      | some p => p.2
      | none => genSeed c.seed (unitId 2 st 0x12 0) step cmd
    let mode : Rnd := if sr && fmt == dtBf16 then .sr else .rne
    let (r, s) := addMem e.s e.job.val a fmt mode (c.cfg.bit 2) poison h g d
    set { e with
      s := s
      gen := if own then r.gen else e.gen
      agens := if own then e.agens else (st, r.gen) :: e.agens.filter (fun p => p.1 != st)
      waits := e.waits || r.waits }
    status r.flushed 2
    consume r.consumed

end Eng

/-! ### Descriptors (R188 to R191, R199) -/

def extBits : List (Nat × Nat) := [(199, 168), (265, 242), (319, 296), (373, 350), (427, 404), (481, 458)]
def strideBits : List (Nat × Nat) := [(0, 0), (295, 266), (349, 320), (403, 374), (457, 428), (511, 482)]

/-- A descriptor's 512 bits (Table 6-1); the auxiliary record is read apart. -/
def parseDesc (addr : Nat) (b : List Byte) : Desc :=
  let n := leNat b
  let ndim := bitsOf n 52 50
  let exts := extBits.map (fun p => bitsOf n p.1 p.2)
  let strides := 0 :: (strideBits.drop 1).map (fun p => bitsOf n p.1 p.2)
  { addr := addr
    base := bitsOf n 41 0 * 64
    dtype := bitsOf n 49 42
    ndim := ndim
    layout := bitsOf n 54 53
    rot := bitsOf n 56 55
    smode := bitsOf n 58 57
    hintCode := bitsOf n 60 59
    dist := bitsOf n 62 61
    imode := bitsOf n 64 63
    sloc := bitsOf n 66 65
    clean := bitsOf n 71 67 == 0 &&
      (List.range 6).all (fun k => k < ndim || (exts.getD k 0 == 0 && strides.getD k 0 == 0))
    tscale := BitVec.ofNat 32 (bitsOf n 103 72)
    fseed := BitVec.ofNat 32 (bitsOf n 135 104)
    tseed := BitVec.ofNat 32 (bitsOf n 167 136)
    exts := exts
    strides := strides
    auxAddr := bitsOf n 241 200 * 64
    aux := []
    auxOk := true
    bext := []
    nblocks := 0 }

namespace Desc

/-- The extent of a dimension; 1 at and above NDIM (R191). -/
def ext (d : Desc) (k : Nat) : Nat := if k < d.ndim then d.exts.getD k 1 else 1
/-- The stride of a dimension in bytes; 0 at and above NDIM. -/
def stride (d : Desc) (k : Nat) : Nat := if k < d.ndim then d.strides.getD k 0 * 64 else 0
/-- A slot of the auxiliary record (Table 6-5); 0 = absent. -/
def slot (d : Desc) (k : Nat) : Nat := d.aux.getD k 0
def rowScaleAt (d : Desc) : Nat := d.slot 0
def recordAt (d : Desc) : Nat := d.slot 1
def factorAt (d : Desc) : Nat := d.slot 2
def flagAt (d : Desc) : Nat := d.slot 3
def bitmapAt (d : Desc) : Nat := d.slot 4
def outlierAt (d : Desc) : Nat := d.slot 5
def ownerAt (d : Desc) : Nat := d.slot 6
def maskAt (d : Desc) : Nat := d.slot 7
def hint (d : Desc) : Hint := match d.hintCode with | 1 => .keep | 2 => .last | _ => .stream
def woven (d : Desc) : Bool := d.layout == 1 || d.layout == 2
def empty (d : Desc) : Bool := (List.range 6).any (fun k => d.ext k == 0)
def owner (d : Desc) : Bool := d.dist == 1
def isIndex (d : Desc) : Bool := d.dtype == dtInt32 || d.dtype == dtInt64

/-- Innermost rows, broadcast dimensions included. -/
def rows (d : Desc) : Nat := ((List.range 5).map (fun k => d.ext (k + 1))).foldl (· * ·) 1
/-- Distinct rows: the indexed extent of R220. -/
def distinct (d : Desc) : Nat :=
  ((List.range 5).map (fun k => if d.stride (k + 1) == 0 && k + 1 < d.ndim then 1 else d.ext (k + 1))).foldl (· * ·) 1

/-- Bytes of `n` elements of a type. -/
def elemBytes (c n : Nat) : Nat := (n * elemBits c + 7) / 8
def blockBytes (c : Nat) : Nat := blockSize c * elemBits c / 8
def blocks (d : Desc) (n : Nat) : Nat := ceilDiv n (blockSize d.dtype)
/-- Bytes of elements of a row of `n` elements, before its scales (R193). -/
def dataBytes (d : Desc) (n : Nat) : Nat :=
  if isBlock d.dtype then d.blocks n * blockBytes d.dtype else elemBytes d.dtype n
/-- ROW_BYTES of a row of `n` elements (R193). -/
def rowBytesOf (d : Desc) (n : Nat) : Nat :=
  64 * ceilDiv (d.dataBytes n + if isBlock d.dtype then d.blocks n else 0) 64
def rowBytes (d : Desc) : Nat := d.rowBytesOf (d.ext 0)

/-- Woven strands and records (Table 6-6). -/
def strandBytes (d : Desc) : Nat := if d.layout == 2 then 16 * elemBits d.dtype + 32 else 32 * elemBits d.dtype
def stripBytes (d : Desc) : Nat := if isMx d.dtype then 128 else if isFine d.dtype then 256 else 0
def recordBytes (d : Desc) : Nat := 16 * d.strandBytes + d.stripBytes
/-- The extents of a block: a LOCAL tensor is one block (R207). -/
def bextOf (d : Desc) (k : Nat) : Nat := if d.owner then max 1 (d.bext.getD k 0) else max 1 (d.ext k)
def panelBytes (d : Desc) : Nat := ceilDiv (if d.owner then d.bextOf 0 else d.ext 0) 32 * d.recordBytes
/-- Blocks of the tensor along a dimension. -/
def blocksOn (d : Desc) (k : Nat) : Nat := ceilDiv (d.ext k) (d.bextOf k)
/-- The number of blocks that R209 asks NBLOCKS to be. -/
def blockCount (d : Desc) : Nat := ((List.range 6).map d.blocksOn).foldl (· * ·) 1

/-- The bytes past BASE that a descriptor's rows reach (R197). -/
def span (d : Desc) : Nat :=
  (List.range 5).foldl (fun a k =>
    let n := if d.woven && k == 0 then ceilDiv (d.ext 1) 128 else d.ext (k + 1)
    a + (n - 1) * d.stride (k + 1)) (if d.woven then d.panelBytes else d.rowBytes)

/-- Outer indices (i1, …, i5) of row number `r`, dimension 1 fastest. -/
def coords (d : Desc) (r : Nat) : List Nat :=
  ((List.range 5).foldl (fun (p : List Nat × Nat) k => (p.1 ++ [p.2 % d.ext (k + 1)], p.2 / d.ext (k + 1))) ([], r)).1

/-- Outer indices of distinct row number `r` (R200): broadcast dimensions stay at 0. -/
def coordsDistinct (d : Desc) (r : Nat) : List Nat :=
  ((List.range 5).foldl (fun (p : List Nat × Nat) k =>
    if d.stride (k + 1) == 0 && k + 1 < d.ndim then (p.1 ++ [0], p.2)
    else (p.1 ++ [p.2 % d.ext (k + 1)], p.2 / d.ext (k + 1))) ([], r)).1

/-- The offset of a row-major row, or of a woven panel, past its base (R194, R203). -/
def rowOffset (d : Desc) (idx : List Nat) : Nat :=
  (List.range 5).foldl (fun a k =>
    let i := idx.getD k 0
    a + (if d.woven && k == 0 then i / 128 else i) * d.stride (k + 1)) 0

/-- The row index of R200 over dimensions `lo` and up; broadcast dimensions weigh 0. -/
def rowIndexFrom (d : Desc) (lo : Nat) (idx : List Nat) : Nat :=
  ((List.range 5).foldl (fun (p : Nat × Nat) k =>
    if k + 1 < lo || (d.stride (k + 1) == 0 && k + 1 < d.ndim) then p
    else (p.1 + idx.getD k 0 * p.2, p.2 * d.ext (k + 1))) (0, 1)).1
def rowIndex (d : Desc) (idx : List Nat) : Nat := d.rowIndexFrom 1 idx

/-- The scale block of an element (R200). -/
def scaleBlock (d : Desc) (idx : List Nat) (i0 : Nat) : Nat :=
  (d.rowIndexFrom 2 idx * ceilDiv (d.ext 1) 128 + idx.getD 0 0 / 128) * ceilDiv (d.ext 0) 128 + i0 / 128

/-- Bytes per row of the occupancy bitmap (R200). -/
def bitmapPitch (d : Desc) : Nat := 64 * ceilDiv (ceilDiv (ceilDiv (d.ext 0) 32) 8) 64
/-- The stored list of a row's rotation block (R200). -/
def listAt (d : Desc) (r b : Nat) : Nat := d.outlierAt + 16 * (r * ceilDiv (d.ext 0) 256 + b)
/-- The rotation seed on a contraction axis (R125). -/
def seedOn (d : Desc) (kaxis : Bool) : Word := if kaxis then d.tseed else d.fseed

end Desc

/-! ### Decode checks (Table 6-2) -/

/-- What a command asks of an operand. -/
structure Use where
  accepts : Nat → Bool
  write : Bool
  add : Bool
  /-- Owner tables are read by the copy engine alone (R209). -/
  copy : Bool
  wovenOk : Bool

def Use.input (accepts : Nat → Bool) : Use := ⟨accepts, false, false, false, false⟩
def Use.output (accepts : Nat → Bool) : Use := ⟨accepts, true, false, false, false⟩

/-- The arrays of Table 6-5 that a descriptor's modes require and lacks, other than those of R165. -/
def Desc.lacks (d : Desc) : Bool := d.owner && d.ownerAt == 0

/-- The owner table checks of R209 (Table 6-7). -/
def Desc.ownerBad (d : Desc) : Bool :=
  d.base != 0 || d.nblocks != d.blockCount || (isBlock d.dtype && d.bext.getD 0 0 % blockSize d.dtype != 0) ||
  (d.woven && (d.bext.getD 0 0 % 32 != 0 || d.bext.getD 1 0 % 128 != 0)) ||
  (List.range 6).any (fun k => (d.bext.getD k 0 == 0) == decide (k < d.ndim)) ||
  (List.range 5).any (fun k => k + 1 < d.ndim && d.stride (k + 1) == 0)

/-- The ranks of the failed checks of Table 6-2, each with its fault. Rank 6 is checked with the owner table. -/
def Desc.faults (c : Ctx) (u : Use) (d : Desc) : List (Nat × Nat) :=
  let chk := fun (bad : Bool) (rank cause : Nat) => if bad then [(rank, cause)] else []
  let woven := d.woven
  let fine := isFine d.dtype
  chk (d.addr % 64 != 0 || d.ndim == 0 || 6 < d.ndim || d.layout == 3 || d.hintCode == 3 || 2 ≤ d.dist || d.sloc == 3 ||
      (d.isIndex && d.imode == 3) || !d.clean || !d.auxOk || d.lacks) 1 3 ++
  chk (!dtypeKnown d.dtype || !u.accepts d.dtype) 2 4 ++
  chk (d.sloc != (if isBlock d.dtype then (if woven then 2 else 1) else 0)) 3 3 ++
  chk ((woven && (!loomType d.dtype || d.ndim < 2 || d.stride 1 == 0 || d.stride 1 < d.panelBytes || !u.wovenOk)) ||
      (u.write && !u.add && (List.range 5).any (fun k => k + 1 < d.ndim && d.stride (k + 1) == 0))) 4 3 ++
  chk ((d.owner && !c.cfg.bit 3) || (d.isIndex && !(c.cfg.field 6 4).testBit d.imode) || (fine && !c.cfg.bit 7)) 5 5 ++
  chk (d.owner && (!u.copy || d.ownerBad)) 6 6 ++
  chk (d.rot == 3 || (d.rot == 2 && (d.dtype == dtMx4 || d.dtype == dtFb4 || d.layout == 2)) ||
      (d.rot == 1 && d.ext 0 % 256 != 0)) 7 7 ++
  chk (d.smode == 3 ||
      (d.smode == 1 && (d.recordAt == 0 || d.rowScaleAt == 0 || d.factorAt == 0 || d.owner)) ||
      (d.smode == 2 && (d.factorAt == 0 || d.flagAt == 0 || d.rowScaleAt == 0 || d.owner))) 8 8 ++
  chk (!d.owner && !d.empty &&
      !(c.regionOf d.base d.span).any (fun r => (r.write || !(u.write || u.add)) && (!u.add || r.kind < 3))) 9 0x0A

/-- The fault that stands highest (R192); checks of the command itself follow those of the table. -/
def firstFault (l : List (Nat × Nat)) : Option Nat :=
  (l.foldl (fun (b : Option (Nat × Nat)) x => match b with
    | some y => if x.1 < y.1 then some x else b
    | none => some x) none).map (·.2)

/-- A descriptor read with its auxiliary record (R189, R199). Poison stops the command at decode. -/
def Eng.descriptor (a : Nat) : Eng Desc := do
  if a % 64 != 0 then return { (default : Desc) with addr := a }
  let (b, p) ← Eng.rd a 64 .stream
  Eng.consume p
  let d := parseDesc a b
  if d.auxAddr == 0 then return { d with aux := List.replicate 8 0 }
  let (x, q) ← Eng.rd d.auxAddr 64 .stream
  Eng.consume q
  let slots := (List.range 8).map (fun k => slotField x (8 * k) 8)
  let d := { d with aux := slots, auxOk := slots.all (fun v => v < 2 ^ 48 && v % 64 == 0) }
  if !d.owner || d.ownerAt == 0 then return d
  let (o, r) ← Eng.rd d.ownerAt 64 .keep
  Eng.consume r
  return { d with bext := (List.range 6).map (fun k => slotField o (4 * k) 4), nblocks := slotField o 24 4 }

/-! ### Row mode and tensor scales (R168, R179 to R181, R185) -/

/-- Whether a test of a tile that held the job's work is under way (Table 5-3). -/
def State.testedHere (s : State) (j : Nat) : Bool :=
  s.cdies.any (fun d => d.tiles.any (fun t => t.state == .underTest && t.migrated.contains j))

/-- The lowest step index kept. -/
def lowestKept (l : List RowKept) : Nat := l.foldl (fun a r => min a r.step.toNat) (2 ^ 32)

/-- Whether a command's step lies below the lowest of four kept (R180). -/
def Ctx.staleStep (c : Ctx) (step : Word) : Bool :=
  4 ≤ c.rowKept.length && !c.rowKept.any (fun r => r.step == step) && step.toNat < lowestKept c.rowKept

/-- The storm flag falls when the dispatcher runs a command whose step lies above its end (R154). -/
def Ctx.stormClear (c : Ctx) (step : Word) : Ctx :=
  if c.stormStat.bit 31 && c.stormEnd.toNat < step.toNat then { c with stormStat := c.stormStat.setField 31 31 0 } else c

/-- ROW(t) used, fixed first where it is not kept (R179, R180, R185; a step below FIRST_STEP counts from it modulo 2^32,
log 127). -/
def State.fixRow (s : State) (j : JobIx) (step : Word) : Bool × State :=
  let c := s.ctx j
  match c.rowKept.find? (fun r => r.step == step) with
  | some r => (r.row, s)
  | none =>
    let first := if c.rowStat.bit 0 then c.rowBase else step
    let warm := decide ((step - first).toNat < c.rowCfg.field 15 0)
    let test := c.rowCfg.bit 31 && s.testedHere j.val
    let storm := c.stormStat.bit 31 && decide (step.toNat ≤ c.stormEnd.toNat)
    let row := warm || test || storm
    let kept := c.rowKept ++ [⟨step, row⟩]
    let kept := if 4 < kept.length then kept.filter (fun r => r.step.toNat != lowestKept kept) else kept
    (row, s.modCtx j (fun c => { c with
      rowKept := kept
      rowBase := first
      rowStep := step
      rowStat := Word.flag row 31 ||| Word.flag warm 30 ||| Word.flag test 29 ||| Word.flag storm 28 ||| 1#32 }))

/-- The tensor scale that a scale record gives for a step (R168). -/
def delayedScale (rec' : List Byte) (dtype : Nat) (tscale step : Word) : Word :=
  let parts := (List.range 64).map (fun k =>
    (k / 4, BitVec.ofNat 32 (slotField rec' (8 * k) 4), slotField rec' (8 * k + 4) 4))
  let t := step.toNat
  let hits := parts.filter (fun p => (rangeFrom 1 16).any (fun d => decide (d ≤ t) && (t - d) % 16 == p.1 && p.2.2 == t - d))
  if hits == [] then tscale
  else
    let h := hits.foldl (fun (a : Word) p => maxMag a p.2.1) 0
    if isZero32 h then one32
    else
      let (n, d) := magFrac h
      pow2Word (min (max (clog2 n (d * sTarget dtype) + 1) (-126)) 127)

/-- How a command of a step reads or writes a tensor (R46, R164, R168, R181). -/
def Eng.scaledBy (d : Desc) (row : Bool) (step : Word) : Eng Scaled := do
  let row := row && d.smode != 0
  if d.smode == 1 && !row then
    let (b, p) ← Eng.rd d.recordAt 512 .stream
    Eng.consume p
    return ⟨d, row, delayedScale b d.dtype d.tscale step⟩
  else return ⟨d, row, d.tscale⟩

/-! ### Reading rows -/

/-- The codes of one row and the scales of its blocks, with the poison of what was read. -/
structure RowCodes where
  codes : List Nat
  scales : List Nat
  poison : Bool
deriving DecidableEq, Repr, Inhabited

/-- The codes of `n` packed elements. -/
def unpack (c : Nat) (b : List Byte) (n : Nat) : List Nat := (List.range n).map (elemAt c b)

/-- A row-major row of `n` elements at an address (R193, R194). -/
def Eng.readRowAt (d : Desc) (a n : Nat) : Eng RowCodes := do
  let nb := if isBlock d.dtype then d.blocks n else 0
  let len := d.dataBytes n
  let (b, p) ← Eng.rd a (len + nb) d.hint
  return ⟨unpack d.dtype b n, (b.drop len).map (fun x => x.toNat), p⟩

/-- Element `k` of column `c` of a dense strand (R203). -/
def strandElem (d : Desc) (b : List Byte) (c k : Nat) : Nat := elemAt d.dtype b (k * 8 + c % 8)

/-- The value and position pairs of a quad of a 2:4 strand (R204). -/
def quadOf (d : Desc) (b : List Byte) (c q : Nat) : (Nat × Nat) × (Nat × Nat) :=
  let w := elemBits d.dtype
  let pos := ((b.getD (16 * w + 4 * (c % 8) + q / 2) 0).toNat / 16 ^ (q % 2)) % 16
  ((pos % 4, elemAt d.dtype b (2 * q * 8 + c % 8)), (pos / 4, elemAt d.dtype b ((2 * q + 1) * 8 + c % 8)))

/-- The 32 codes of column `c` of one strand, dense or 2:4, and whether some quad that holds one of its first `n` K
elements is malformed (R107; a quad wholly beyond K is not decoded, log 120). -/
def strandColumn (d : Desc) (b : List Byte) (c n : Nat) : List Nat × Bool :=
  if d.layout == 2 then
    let qs := (List.range 8).map (quadOf d b c)
    ((List.range 32).map (fun k =>
        let q := qs.getD (k / 4) ((0, 0), (0, 0))
        if q.2.1 == k % 4 then q.2.2 else if q.1.1 == k % 4 then q.1.2 else 0),
      (qs.take (ceilDiv n 4)).any (fun q => q.1.1 == q.2.1))
  else ((List.range 32).map (strandElem d b c), false)

/-- The block scales of column `c` in a record's strips, one per 32 K rows or two per 16 (R203). -/
def stripScales (d : Desc) (strip : List Byte) (c : Nat) : List Nat :=
  if isMx d.dtype then [(strip.getD c 0).toNat]
  else if isFine d.dtype then [(strip.getD c 0).toNat, (strip.getD (128 + c) 0).toNat] else []

/-- One column of a woven tensor, group record by group record: its strand and its scales are read (R203, R204). -/
def Eng.readColumn (d : Desc) (base : Nat) (idx : List Nat) : Eng RowCodes := do
  let c := idx.getD 0 0 % 128
  let at' := base + d.rowOffset idx
  let rs ← (List.range (ceilDiv (d.ext 0) 32)).mapM (fun g => do
    let r := at' + g * d.recordBytes
    let (b, p) ← Eng.rd (r + c / 8 * d.strandBytes) d.strandBytes d.hint
    let sc ← (List.range (d.stripBytes / 128)).mapM (fun k => Eng.rd (r + 16 * d.strandBytes + 128 * k + c) 1 d.hint)
    let (codes, bad) := strandColumn d b c (d.ext 0 - 32 * g)
    Eng.failIf bad 0x20
    return (codes, sc.map (fun x => leNat x.1), p || sc.any (fun x => x.2)))
  return ⟨(rs.flatMap (fun r => r.1)).take (d.ext 0), rs.flatMap (fun r => r.2.1), rs.any (fun r => r.2.2)⟩

/-- One row of a LOCAL tensor in any layout: a row of a woven tensor is a column of its matrix (R200). -/
def Eng.readRow (d : Desc) (idx : List Nat) : Eng RowCodes :=
  if d.woven then Eng.readColumn d d.base idx else Eng.readRowAt d (d.base + d.rowOffset idx) (d.ext 0)

/-- The factors of the scale blocks that elements `i0` to `i0 + n - 1` of a row lie in (R49, R170), and their poison; 1
for a tensor that carries none. `i0` is a multiple of 128. -/
def Eng.factors (d : Desc) (idx : List Nat) (i0 n : Nat) : Eng (List Word × Bool) := do
  let m := ceilDiv n 128
  if d.smode == 0 then return (List.replicate m one32, false)
  let fs ← (List.range m).mapM (fun k => Eng.wordP (d.factorAt + 4 * d.scaleBlock idx (i0 + 128 * k)) 4)
  return (fs.map (fun f => BitVec.ofNat 32 f.1), fs.any (fun f => f.2))

/-- The tensor or row scale of a row (R46), and its poison. -/
def Eng.rowT (x : Scaled) (idx : List Nat) : Eng (Word × Bool) :=
  if x.row then do
    let (v, p) ← Eng.wordP (x.d.rowScaleAt + 4 * x.d.rowIndex idx) 4
    return (BitVec.ofNat 32 v, p)
  else pure (x.t, false)

/-- Codes decoded with their block scales, tensor or row scale and factors (R45). -/
def Scaled.values (x : Scaled) (r : RowCodes) (t : Word) (g : List Word) : List Word :=
  ((List.range r.codes.length).zip r.codes).map (fun p =>
    decodeElem x.d.dtype p.2 (r.scales.getD (p.1 / blockSize x.d.dtype) 0) t (g.getD (p.1 / 128) one32))

/-- A row's decoded FP32 values (R45) and the poison of all that they are decoded from (R335). -/
def Eng.rowValues (x : Scaled) (idx : List Nat) : Eng (List Word × Bool) := do
  let r ← Eng.readRow x.d idx
  let (g, gp) ← Eng.factors x.d idx 0 (x.d.ext 0)
  let (t, tp) ← Eng.rowT x idx
  return (x.values r t g, r.poison || gp || tp)

/-- Elements `i0` to `i0 + n - 1` of a row-major row, decoded, and their poison alone. `i0` is a multiple of 128. -/
def Eng.spanValues (x : Scaled) (idx : List Nat) (i0 n : Nat) : Eng (List Word × Bool) := do
  let d := x.d
  let n := min n (d.ext 0 - i0)
  let a := d.base + d.rowOffset idx
  let (b, p) ← Eng.rd (a + i0 * elemBits d.dtype / 8) (Desc.elemBytes d.dtype n) d.hint
  let nb := if isBlock d.dtype then d.blocks n else 0
  let (sc, q) ← Eng.rd (a + d.dataBytes (d.ext 0) + i0 / blockSize d.dtype) nb d.hint
  let (g, gp) ← Eng.factors d idx i0 n
  let (t, tp) ← Eng.rowT x idx
  return (x.values ⟨unpack d.dtype b n, sc.map (fun x => x.toNat), false⟩ t g, p || q || gp || tp)

/-! ### Writing rows -/

/-- Codes and scales of `n` elements as a row-major row's bytes, padded to ROW_BYTES (R193, R195). -/
def rowImage (d : Desc) (n : Nat) (codes scales : List Nat) : List Byte :=
  let data := packElems d.dtype codes
  let b := data ++ List.replicate (d.dataBytes n - data.length) 0 ++ scales.map (fun s => BitVec.ofNat 8 s)
  b ++ List.replicate (d.rowBytesOf n - b.length) 0

/-- Bits `[pos, pos + w)` of a list of bytes replaced. -/
def spliceBits (b : List Byte) (pos w v : Nat) : List Byte :=
  let n := leNat b
  leBytes b.length (n - bitsOf n (pos + w - 1) pos * 2 ^ pos + v % 2 ^ w * 2 ^ pos)

/-- Bits written into memory in place: the bytes that hold them read and written. -/
def Eng.wrBits (a pos w v : Nat) (h : Hint) (p : Bool) : Eng Unit := do
  let lo := a + pos / 8
  let n := (pos % 8 + w + 7) / 8
  let g ← Eng.get' lo n h
  Eng.wr lo (spliceBits g.data (pos % 8) w v) h p

/-- Elements `i0, i0+1, …` of a row-major row written with their block scales (R194). -/
def Eng.writePart (d : Desc) (a i0 : Nat) (codes scales : List Nat) (p : Bool) : Eng Unit := do
  let w := elemBits d.dtype
  Eng.wr (a + i0 * w / 8) (packElems d.dtype codes) d.hint p
  if isBlock d.dtype then
    Eng.wr (a + d.dataBytes (d.ext 0) + i0 / blockSize d.dtype) (scales.map (fun s => BitVec.ofNat 8 s)) d.hint p
  -- the row's end: absent elements of a partial block and the padding are zero (R195)
  if i0 + codes.length == d.ext 0 then
    let len := Desc.elemBytes d.dtype (d.ext 0)
    Eng.wr (a + len) (List.replicate (d.dataBytes (d.ext 0) - len) 0) d.hint p
    let used := d.dataBytes (d.ext 0) + if isBlock d.dtype then d.blocks (d.ext 0) else 0
    Eng.wr (a + used) (List.replicate (d.rowBytes - used) 0) d.hint p

/-- A whole row of codes and scales written in a LOCAL row-major tensor. -/
def Eng.writeRow (d : Desc) (row : HeldRow) : Eng Unit :=
  Eng.wr (d.base + d.rowOffset row.place.1) (rowImage d (d.ext 0) row.codes row.scales) d.hint row.poison

/-- A row's part for the writer: its outer indices, first element, FP32 values, the row's amax, and poison. -/
structure RowPart where
  idx : List Nat
  i0 : Nat
  xs : List Word
  amax : Word
  poison : Bool
  /-- The runs of 128 of its elements that stand in a Loom block whose P holds an infinity or NaN (R172). -/
  fixed : List Bool := []
deriving DecidableEq, Repr, Inhabited

/-- How the writer writes a tensor. -/
structure Writer where
  x : Scaled
  rnd : Rnd
  step : Word
  die : Nat
  kaxis : Bool
  /-- Part of each row stands written already: its row scale is kept. -/
  kept : Bool := false
  /-- The values stand rotated already (a copy of a STORED tensor). -/
  stored : Bool := false
  /-- How whole rows of codes go to memory. -/
  put : List HeldRow → Eng Unit := fun l => l.forM (Eng.writeRow x.d)

/-- What a scale block becomes (R170 to R175). -/
inductive BlockFate where
  | plain | halved | zeroed
deriving DecidableEq, Repr, Inhabited

/-- A run of a row's elements inside one scale block, after t_inv (and rotation): the scale block, its elements' first
index, the values y and those with t_inv halved, which of each are left out of their block's amax (R132), and whether its
scale block is not recomputed (R172). -/
structure Seg where
  q : Nat
  i0 : Nat
  ys : List Word
  half : List Word
  out : List Bool
  outHalf : List Bool
  fixed : Bool
deriving DecidableEq, Repr, Inhabited

/-- Lists cut into runs of `n`. -/
def chunks {α : Type} (n : Nat) : Nat → List α → List (List α)
  | 0, _ => []
  | _ + 1, [] => []
  | k + 1, l => l.take n :: chunks n k (l.drop n)

/-- The values of a block that its amax is taken over (R132). -/
def inAmax (ys : List Word) (out : List Bool) : List Word :=
  List.zipWith (fun y o => if o then 0#32 else y) ys (out ++ List.replicate ys.length false)

/-- Whether a block's scale would clamp at the top of its range (R170, R173). -/
def clampsTop (c : Nat) (ys : List Word) (out : List Bool) : Bool :=
  isBlock c && ys.all isFin32 &&
  (let a := (inAmax ys out).foldl maxMag 0
   if isMx c then (mxScale c a).2.1 else (fineScale c a).2.1)

/-- Whether some block of a run of values clamps at the top. -/
def runClamps (c : Nat) (ys : List Word) (out : List Bool) : Bool :=
  let n := max 1 (blockSize c)
  ((chunks n (ys.length + 1) ys).zip (chunks n (ys.length + 1) (out ++ List.replicate ys.length false))).any
    (fun p => clampsTop c p.1 p.2)

/-- The values of a row part after t_inv, cut at scale blocks. -/
def Writer.segs (w : Writer) (r : RowPart) (t : Word) (g : List (Nat × Word)) : List Seg :=
  let d := w.x.d
  let cut := (chunks 128 (r.xs.length + 1) r.xs)
  ((List.range cut.length).zip cut).map (fun p =>
    let i0 := r.i0 + 128 * p.1
    let q := if d.smode == 0 then 0 else d.scaleBlock r.idx i0
    let gq := match g.find? (fun x => x.1 == q) with
      | some x => x.2
      | none => one32
    let ti := tInv t gq
    ⟨q, i0, p.2.map (fun x => mul32 x ti), p.2.map (fun x => mul32 x (mul32 ti 0x3F000000#32)), [], [],
      r.fixed.getD p.1 false⟩)

/-- A stored rotated row: rotation blocks of 256 of the values after t_inv (R143). -/
def rotateRow (seed : Word) (ys : List Word) : List Word :=
  let bs := chunks 256 (ys.length + 1) ys
  (((List.range bs.length).zip bs).map (fun p => rotate (rotSigns seed p.1) p.2)).flatten

/-- The runs of a row part with the values (and the marks of R132) of its rotation blocks in place of their own. -/
def putBack (r : RowPart) (segs : List Seg) (y h : List Word) (o oh : List Bool) : List Seg :=
  segs.map (fun s =>
    let k := s.i0 - r.i0
    let n := s.ys.length
    { s with
      ys := (y.drop k).take n
      half := (h.drop k).take n
      out := (o.drop k).take n
      outHalf := (oh.drop k).take n })

/-- The runs of a row part after the rotation and extraction of R143, with the lists that the extraction leaves for the
plain and for the halved values. A tensor without an OUTLIER array keeps every value. -/
def Writer.rotated (w : Writer) (shift : Nat) (r : RowPart) (segs : List Seg) : List Seg × List (Extracted × Extracted) :=
  let d := w.x.d
  if d.rot != 1 || w.stored then (segs, [])
  else
    let ys := rotateRow (d.seedOn w.kaxis) (segs.flatMap (fun s => s.ys))
    let half := rotateRow (d.seedOn w.kaxis) (segs.flatMap (fun s => s.half))
    if d.outlierAt == 0 then (putBack r segs ys half [] [], [])
    else
      let es := (chunks 256 (ys.length + 1) ys).map (extract shift)
      let hs := (chunks 256 (half.length + 1) half).map (extract shift)
      (putBack r segs (es.flatMap (fun e => e.vals)) (hs.flatMap (fun e => e.vals)) (es.flatMap (fun e => e.ovr))
        (hs.flatMap (fun e => e.ovr)), es.zip hs)

/-- The occupancy bits of a row part's groups (R108, R109). -/
def Eng.writeBitmap (d : Desc) (r : RowPart) (nz : List Bool) : Eng Unit :=
  if d.bitmapAt == 0 then pure ()
  else
    let gs := chunks 32 (nz.length + 1) nz
    ((List.range gs.length).zip gs).forM (fun p =>
      Eng.wrBits (d.bitmapAt + d.rowIndex r.idx * d.bitmapPitch) (r.i0 / 32 + p.1) 1 (if p.2.any id then 1 else 0) .stream
        r.poison)

/-- What the writer reports of the elements it wrote (for the Loom's flag word). -/
structure WriteOut where
  clamp : Bool
  nan : Bool
  /-- The scale blocks recomputed (R170). -/
  halved : List Nat
deriving DecidableEq, Repr, Inhabited

/-- The elements of one scale-block run quantised and reported (R54, R171, R174): codes, scales, non-zero marks. -/
def Eng.quantRun (w : Writer) (subn : Bool) (fate : BlockFate) (s : Seg) :
    Eng (List Nat × List Nat × List Bool × Bool) := do
  let c := w.x.d.dtype
  let ys := if fate == .halved then s.half else s.ys
  let out := if fate == .halved then s.outHalf else s.out
  if fate == .zeroed then
    return (ys.map (fun _ => 0), if isBlock c then (chunks (blockSize c) (ys.length + 1) ys).map (fun _ => 0) else [],
      ys.map (fun _ => false), false)
  else
    let bs := chunks (max 1 (blockSize c)) (ys.length + 1) ys
    let os := chunks (max 1 (blockSize c)) (out.length + 1) out
    let qs ← ((List.range bs.length).zip bs).mapM (fun p => do
      let q ← Eng.withGen (fun g =>
        let q := if isBlock c then quantY c w.rnd subn g p.2 (os.getD p.1 [])
          else quantPlain c w.rnd subn g one32 (p.2.headD 0)
        (q, q.gen))
      Eng.quantStatus q
      return q)
    let codes := qs.flatMap (fun q => q.codes)
    let f := elemFp c
    let mag := fun k : Nat => k % f.signAt != 0
    return (codes, if isBlock c then qs.map (fun q => q.scale) else [],
      (qs.flatMap (fun q => q.codes.map (fun k => mag k || q.qnan))), qs.any (fun q => q.clampTop || q.clampLow))

/-- What a GRADIENT or DELAYED scale block becomes, its flag word, factors and counts written (R170 to R175, R181). -/
def Eng.judge (w : Writer) (q : Nat) (g : Word) (ss : List Seg) : Eng BlockFate := do
  let d := w.x.d
  let c := d.dtype
  let top := ss.any (fun s => runClamps c s.ys s.out)
  let die : CIx := Fin.ofNat 4 w.die
  if d.smode == 2 then
    if !top && !ss.any (fun s => s.ys.any (fun y => !isFin32 y)) then return .plain
    let old ← Eng.word (d.flagAt + 4 * q) 4
    Eng.wr (d.flagAt + 4 * q) (leBytes 4 w.step.toNat) .stream false
    Eng.status true 8
    if 0x4F800000 ≤ g.toNat then Eng.status true 9
    else if old != w.step.toNat then
      Eng.wr (d.factorAt + 4 * q) (leBytes 4 (mul32 g 0x40000000#32).toNat) .stream false
    Eng.onState (fun s => s.modCDie die (fun x => { x with scaleCnt := x.scaleCnt.bump 15 0 1 }))
    return .zeroed
  else if d.smode == 1 then
    let half := !w.x.row && top && !ss.any (fun s => s.fixed)
    Eng.wr (d.factorAt + 4 * q) (leBytes 4 (if half then 0x40000000 else 0x3F800000)) .stream false
    if !half then return .plain
    let again := ss.any (fun s => runClamps c s.half s.outHalf)
    Eng.status again 7
    Eng.onState (fun s => s.modCDie die (fun x => { x with
      scaleCnt := (x.scaleCnt.bump 31 24 1).bump 23 16 (if again then 1 else 0) }))
    return .halved
  else return .plain

/-- The entries of a stored list by what becomes of the scale block each stands in: plain, halved, or, in a flagged
block, left out with the zeros of R174 (log 121). -/
def listEntries (fateAt : Nat → BlockFate) (e h : Extracted) : List (Nat × Word) :=
  e.list.filterMap (fun x => match fateAt x.1 with
    | .plain => some x
    | .halved => some (x.1, match h.list.find? (fun y => y.1 == x.1) with
      | some y => y.2
      | none => mul32 x.2 0x3F000000#32)
    | .zeroed => none)

/-- List values as they are stored: BF16 results in the subnormal mode of the job (R62), and whether one was flushed. -/
def storedValues (subn : Bool) (l : List (Nat × Nat)) : List (Nat × Nat) × Bool :=
  let fs := l.map (fun x => (x.1, Fp.bf16.flush subn x.2))
  (fs.map (fun x => (x.1, x.2.1)), fs.any (fun x => x.2.2))

/-- The stored lists of a row part written, rotation block by rotation block (R133, R134, R143). -/
def Eng.writeLists (w : Writer) (subn : Bool) (r : RowPart) (fateAt : Nat → BlockFate) (es : List (Extracted × Extracted)) :
    Eng Unit :=
  ((List.range es.length).zip es).forM (fun p => do
    let i0 := r.i0 + 256 * p.1
    let l ← Eng.withGen (fun g => listValues w.rnd g (listEntries (fun k => fateAt (i0 + k)) p.2.1 p.2.2))
    let (l, f) := storedValues subn l
    Eng.status f jsSubnFlush
    Eng.wr (w.x.d.listAt (w.x.d.rowIndex r.idx) (i0 / 256)) (listBytes l (p.2.1.ovr.any id)) .stream false)

/-- A DELAYED tensor's part of its record grows (R169). -/
def mergeAmax (l : List AmaxPart) (record die : Nat) (a : Word) : List AmaxPart :=
  if l.any (fun p => p.record == record && p.die == die) then
    l.map (fun p => if p.record == record && p.die == die then { p with amax := maxMag p.amax a } else p)
  else l ++ [⟨record, die, a⟩]

/-- The scale blocks that row parts stand in. -/
def scaleBlocksOf (d : Desc) (parts : List RowPart) : List Nat :=
  if d.smode == 0 then []
  else (parts.flatMap (fun r =>
    (List.range (ceilDiv r.xs.length 128)).map (fun k => d.scaleBlock r.idx (r.i0 + 128 * k)))).eraseDups

/-- Row parts written through the quantiser: row scales (R47), scale blocks (R170 to R175), rotation and lists (R143),
bitmaps (R109). A poisoned part is written poisoned, is no ground for a recompute and adds nothing to the record's amax
(R169); a scale block of such parts alone keeps the factor 1.0. -/
def Eng.writeParts (w : Writer) (parts : List RowPart) : Eng WriteOut := do
  let d := w.x.d
  let c := d.dtype
  let ctx ← Eng.context
  let subn := ctx.cfg.bit 2
  let live := parts.filter (fun r => !r.poison)
  let qs := scaleBlocksOf d parts
  let gs ← if d.smode == 2 then qs.mapM (fun q => do return (q, BitVec.ofNat 32 (← Eng.word (d.factorAt + 4 * q) 4)))
    else pure (qs.map (fun q => (q, one32)))
  let rows ← live.mapM (fun r => do
    let t ← if w.x.row && w.kept then (do let (t, p) ← Eng.rowT w.x r.idx; Eng.consume p; return t)
      else pure (if w.x.row then rowScale c r.amax else w.x.t)
    if w.x.row && !w.kept then Eng.wr (d.rowScaleAt + 4 * d.rowIndex r.idx) (leBytes 4 t.toNat) .stream false
    return (r, w.rotated (ctx.fbCfg.field 15 12) r (w.segs r t gs)))
  let fates ← qs.mapM (fun q => do
    let f ← Eng.judge w q ((gs.find? (fun x => x.1 == q)).map (·.2) |>.getD one32)
      (rows.flatMap (fun r => r.2.1.filter (fun s => s.q == q)))
    return (q, f))
  let fateOf := fun q : Nat => ((fates.find? (fun x => x.1 == q)).map (·.2)).getD .plain
  let outs ← rows.mapM (fun r => do
    Eng.writeLists w subn r.1 (fun i => if d.smode == 0 then .plain else fateOf (d.scaleBlock r.1.idx i)) r.2.2
    let runs ← r.2.1.mapM (fun s => Eng.quantRun w subn (fateOf s.q) s)
    let codes := runs.flatMap (fun x => x.1)
    let scales := runs.flatMap (fun x => x.2.1)
    Eng.writeBitmap d r.1 (runs.flatMap (fun x => x.2.2.1))
    return (runs.any (fun x => x.2.2.2), (r.1.i0, (⟨(r.1.idx, 0), codes, scales, [], false, []⟩ : HeldRow))))
  let spoiled := (parts.filter (fun r => r.poison)).map (fun r =>
    let n := r.xs.length
    (r.i0, (⟨(r.idx, 0), List.replicate n 0, List.replicate (if isBlock c then ceilDiv n (blockSize c) else 0) 0, [], true,
      []⟩ : HeldRow)))
  let all := outs.map (fun o => o.2) ++ spoiled
  let whole := fun q : Nat × HeldRow => q.1 == 0 && q.2.codes.length == d.ext 0
  w.put ((all.filter whole).map (fun q => q.2))
  (all.filter (fun q => !whole q)).forM (fun q =>
    Eng.writePart d (d.base + d.rowOffset q.2.place.1) q.1 q.2.codes q.2.scales q.2.poison)
  if d.smode == 1 then
    let a := live.foldl (fun a r => maxMag a (amaxOf r.xs)) 0
    modify (fun e => { e with amax := mergeAmax e.amax d.recordAt w.die a })
  return ⟨outs.any (fun o => o.1), live.any (fun r => r.xs.any (fun x => !isFin32 x)),
    (fates.filter (fun f => f.2 == BlockFate.halved)).map (·.1)⟩

end Sys2Proof.Machine
end

