-- ==== Sys2Proof/Machine/Streams.lean ====
section
/-! DEFINITION. Ranks and the source side of streams (R395, R396, R401, R402). -/

namespace Sys2Proof.Machine

/-- The rank table entry of a rank, when the job may address it (R396). -/
def Ctx.rankAt (c : Ctx) (r : Nat) : Option RankEntry :=
  if r < c.rankCfg.field 12 0 then (c.ranks[r]?).filter (fun e => e.valid) else none

def Ctx.selfRank (c : Ctx) : Nat := c.rankCfg.field 27 16

/-- The L-die that keeps a stream's window, and the one that holds its reorder lease (R401). -/
def streamHome (rank ch : Nat) : LIx := Fin.ofNat 3 (rank + ch)

def SrcStream.is (x : SrcStream) (job rank ch : Nat) : Bool :=
  x.job == job && x.dstRank == rank && x.channel == ch && !x.sys

/-- A packet given to the stream to a rank, which opens with SEQ 0 (R401). An unknown rank sends nothing. -/
def State.sendTo (s : State) (j : JobIx) (rank ch : Nat) (who : Nat × Nat) (p : Packet) : State :=
  match (s.ctx j).rankAt rank with
  | none => s
  | some e =>
    let p := { p with srcRank := (s.ctx j).selfRank }
    let sel := fun x : SrcStream => x.is j.val rank ch
    s.modLDie (streamHome rank ch) (fun d =>
      let d := if d.streams.any sel then d
        else
          let x : SrcStream := ⟨j.val, rank, e.at', e.ctx, ch, false, 0, 0, s.tick, [], [], false⟩
          ({ d with streams := d.streams ++ [x] } : LDie)
      d.pushOn sel who p)

/-- A data packet of at most 256 bytes, its payload filled with zeros (R394, R397). -/
def dataPacket (kind : PktKind) (format addr : Nat) (poison sr : Bool) (tag step : Word) (d : List Byte) : Packet :=
  { (default : Packet) with
    kind := kind
    format := format
    addr := addr
    sr := sr
    poison := if poison then 2 ^ ((d.length + 63) / 64) - 1 else 0
    length := d.length
    tag := tag
    step := step
    payload := d ++ List.replicate (256 - d.length) 0 }

/-- Whether nothing of a flight is still on its way to or from another module. -/
def State.farIdle (s : State) (j : JobIx) (e : EngIx) (fid : Nat) : Bool :=
  s.ldies.all (fun d => d.streams.all (fun x => x.job != j.val || !x.sent.contains (e.val, fid))) &&
  s.far.all (fun r => !(r.job == j.val && r.fid == fid && e.val == 2))

end Sys2Proof.Machine
end

