-- ==== Sys2Proof/Machine/Control.lean ====
section
/-! DEFINITION. Command slots (R257 to R261), fetching (R273, R274), how a command starts and completes (R263 to R266,
R569, R305), and the control commands (R268 to R270). -/

namespace Sys2Proof.Machine

/-! ### Slots -/

namespace Slot

def flagsOf (b : List Byte) : Nat := slotField b 1 1
def ext (b : List Byte) : Bool := (flagsOf b).testBit 0
def fence (b : List Byte) : Bool := (flagsOf b).testBit 2
def event (b : List Byte) : Bool := (flagsOf b).testBit 3
def layerFirst (b : List Byte) : Bool := (flagsOf b).testBit 4
def keep (b : List Byte) : Bool := (flagsOf b).testBit 5
def kaxis (b : List Byte) : Bool := (flagsOf b).testBit 6
def srAdd (b : List Byte) : Bool := (flagsOf b).testBit 7
def jobOf (b : List Byte) : Nat := slotField b 2 1 % 64
/-- LEVEL; 3 acts as 2. -/
def level (b : List Byte) : Nat := min 2 (slotField b 2 1 / 64)
def dieMask (b : List Byte) : Nat := slotField b 3 1 % 16
def gradOut (b : List Byte) : Bool := (slotField b 3 1).testBit 4
def gradA (b : List Byte) : Bool := (slotField b 3 1).testBit 5
def gradB (b : List Byte) : Bool := (slotField b 3 1).testBit 6
def wait (b : List Byte) : Word := BitVec.ofNat 32 (slotField b 12 4)
def pred (b : List Byte) : Word := BitVec.ofNat 32 (slotField b 16 4)
def signal (b : List Byte) : Word := BitVec.ofNat 32 (slotField b 20 4)
def cost (b : List Byte) : Nat := slotField b 24 4
/-- Operand address D0 to D4. -/
def d (b : List Byte) (k : Nat) : Nat := slotField b (28 + 6 * k) 6
def imm (b : List Byte) : Nat := slotField b 58 6
/-- Bytes of the extension slot. -/
def extField (b : List Byte) (lo n : Nat) : Nat := slotField b (64 + lo) n

end Slot

/-- What Table 8-3, Table 8-4, Table 11-1 and Table 13-1 allow an opcode. -/
structure OpSpec where
  /-- The queue it belongs to; none = any. -/
  queue : Option Nat
  one : Bool
  two : Bool
  /-- Operands that may be non-zero, and those that must be. -/
  allowed : List Nat
  required : List Nat
  /-- Bits of IMM with a meaning. -/
  immMask : Nat
  /-- Bits of the extension slot with a meaning. -/
  extMask : Nat

/-- A mask of bytes `lo` to `hi`. -/
def byteMask (lo hi : Nat) : Nat := (2 ^ (8 * (hi + 1 - lo)) - 1) * 2 ^ (8 * lo)
def bitMask (hi lo : Nat) : Nat := (2 ^ (hi + 1 - lo) - 1) * 2 ^ lo

/-- Bits a number has outside a mask. -/
def outside (n mask : Nat) : Bool := n != Nat.land n mask

def opSpec (op : Nat) : Option OpSpec :=
  let ctl := fun (req : List Nat) (m : Nat) => some (⟨none, true, false, req, req, m, 0⟩ : OpSpec)
  let vec := fun (al req : List Nat) (m : Nat) => some (⟨some 1, true, false, al, req, m, 0⟩ : OpSpec)
  let cpy := fun (al req : List Nat) (m : Nat) => some (⟨some 2, true, false, al, req, m, 0⟩ : OpSpec)
  let col := fun (al req : List Nat) (m e : Nat) => some (⟨some 3, false, true, al, req, m, e⟩ : OpSpec)
  let upd := fun (al : List Nat) (e : Nat) => some (⟨some 4, false, true, al, [], 0, e⟩ : OpSpec)
  let mm := byteMask 0 29 + bitMask (42 * 8 + 6) (42 * 8) + byteMask 44 45
  let immC := bitMask 47 16
  let cExt := byteMask 0 7 + bitMask (8 * 8 + 11) 64 + bitMask (8 * 10 + 4) 80 + bitMask (8 * 11 + 4) 88 + bitMask (8 * 12 + 4) 96
  let copies := byteMask 32 49
  match op with
  | 0x00 => ctl [] 0
  | 0x01 => some ⟨none, true, false, [], [], 0, 0⟩
  | 0x02 => ctl [0] (bitMask 23 0)
  | 0x03 => ctl [] (bitMask 23 0)
  | 0x10 => some ⟨some 0, true, true, [0, 1, 2, 3, 4], [0, 1, 2, 4], bitMask 29 0, mm⟩
  | 0x11 => some ⟨some 0, false, true, [0, 1, 2, 3, 4], [0, 1, 2, 4], bitMask 29 0, mm + byteMask 30 41 + byteMask 46 47⟩
  | 0x12 => some ⟨some 0, true, false, [0, 1, 2], [0, 1, 2], 0, 0⟩
  | 0x13 => some ⟨some 0, false, true, [0, 1, 2], [0, 1, 2], 0, byteMask 30 41 + byteMask 46 47⟩
  | 0x20 => vec [0, 1, 2, 3] [0, 2] (bitMask 7 0 + immC)
  | 0x21 => vec [0, 1, 2, 3] [0, 2] (1 + immC)
  | 0x22 => vec [0, 2] [0, 2] immC
  | 0x23 => vec [0, 2] [0, 2] 0
  | 0x24 => vec [0, 2, 3] [0, 2, 3] (bitMask 4 0)
  | 0x30 => cpy [0, 1, 2] [0, 1] 0
  | 0x31 => cpy [0, 1] [0, 1] (bitMask 38 0)
  | 0x32 | 0x33 => cpy [0, 1, 2, 3] [0, 1, 2] 0
  | 0x34 => cpy [0, 1, 2, 3, 4] [0, 1, 2] 1
  | 0x35 => cpy [0, 1, 2, 3] [0, 1, 2] 1
  | 0x36 => cpy [0, 1, 2, 3] [0, 1, 2, 3] 0
  | 0x37 => some ⟨some 2, false, true, [0, 1, 2, 3, 4], [0, 1, 2, 3, 4],
      bitMask 29 0 + bitMask 34 32 + bitMask 41 35, byteMask 0 5⟩
  | 0x38 => some ⟨some 2, false, true, [0, 1, 2, 3], [0, 1, 2, 3], bitMask 33 3 + bitMask 2 0, byteMask 0 47⟩
  | 0x40 | 0x41 => col [0, 1, 2, 3] [0, 1, 2] (bitMask 12 0) cExt
  | 0x42 => col [0, 1] [0, 1] (bitMask 3 0) cExt
  | 0x43 => col [0, 1, 2, 3] [0, 1, 2, 3] (bitMask 3 0) cExt
  | 0x44 => col [0, 1] [0, 1] (bitMask 3 0) (cExt + bitMask (13 * 8 + 11) (13 * 8))
  | 0x50 => upd [0, 1, 2, 3] (byteMask 0 15 + copies + byteMask 50 61 + bitMask 496 496)
  | 0x51 => upd [0, 1, 2, 3, 4] (byteMask 0 31 + copies + byteMask 50 61 + bitMask 496 496)
  | 0x52 => upd [0, 1, 2, 3, 4] (byteMask 0 23 + copies + bitMask 496 496)
  | 0x53 => upd [0, 1, 2, 3, 4] (byteMask 0 31 + copies + byteMask 50 55 + bitMask 497 496)
  | 0x54 => upd [0, 1] (byteMask 32 43)
  | _ => none

/-- R415 on extension fields of collectives that are out of range. -/
def extRefused (op : Nat) (b : List Byte) : Bool :=
  if 0x40 ≤ op && op ≤ 0x44 then
    let g := [Slot.extField b 10 1, Slot.extField b 11 1, Slot.extField b 12 1]
    Slot.extField b 4 4 == 0 || g.any (fun x => x == 0 || 16 < x)
  else false

/-- R259: a command rejected with an OPCODE fault on queue `e`. -/
def opcodeRefused (e : Nat) (b : List Byte) : Bool :=
  match opSpec (opcodeOf b) with
  | none => true
  | some p =>
    let op := opcodeOf b
    let head := op == 1
    (p.queue.any (fun q => q != e)) ||
    (if Slot.ext b then !p.two || b.length != 128 else !p.one) ||
    (slotField b 3 1).testBit 7 || (!(0x10 ≤ op && op ≤ 0x13) && 64 ≤ slotField b 2 1) ||
    outside (slotField b 12 4) (bitMask 6 0 + bitMask 31 8) || outside (slotField b 16 4) (bitMask 8 0 + bitMask 31 16) ||
    (slotField b 20 1) / 64 == 3 ||
    (!head && ((List.range 5).any (fun k => Slot.d b k != 0 && !p.allowed.contains k) ||
      p.required.any (fun k => Slot.d b k == 0) || outside (Slot.imm b) p.immMask)) ||
    (Slot.ext b && outside (slotField b 64 64) p.extMask) || extRefused op b

/-! ### Scoreboards (R264 to R266) -/

/-- WAIT of a command is met. -/
def waitMet (c : Ctx) (b : List Byte) : Bool :=
  let w := Slot.wait b
  !w.bit 6 || decide (w.field 31 8 ≤ c.sb[Fin.ofNat 64 (w.field 5 0)].toNat)

/-- PRED of a command holds (Table 8-5). -/
def predHolds (c : Ctx) (b : List Byte) : Bool :=
  let w := Slot.pred b
  let v := c.sb[Fin.ofNat 64 (w.field 5 0)].toNat
  let x := w.field 31 16
  match w.field 8 6 with
  | 0 => true | 1 => v == x | 2 => v != x | 3 => v < x | 4 => x ≤ v | 5 => v ≤ x | 6 => x < v | _ => false

/-- A SIGNAL applied (R265, R266). -/
def Ctx.signalled (c : Ctx) (b : List Byte) : Ctx :=
  let w := Slot.signal b
  let i : Fin 64 := Fin.ofNat 64 (w.field 5 0)
  let v := BitVec.ofNat 32 (w.field 31 8)
  match w.field 7 6 with
  | 1 => { c with sb := upd c.sb i (fun x => x + v) }
  | 2 => { c with sb := upd c.sb i (fun _ => v) }
  | _ => c

/-! ### Completion -/

/-- Ticks that later lists of the queue have spent behind a late list go to its cause (R308). -/
def AdmList.behind (l late : AdmList) (now : Nat) : AdmList :=
  if late.missed && late.cause < 7 && decide (late.lid < l.lid) then
    { l with accounts := modAt l.accounts (late.cause - 1) (· + 44 * (now - max l.acceptTick late.deadlineTick)) }
  else l

/-- A queue whose lists with nothing left to run are gone (R302). -/
def Queue.dropEnded (q : Queue) (now : Nat) : Queue :=
  let ovr := fun (l : AdmList) => l.ended && !q.inflight.any (fun f => f.list == some l.lid)
  let gone := q.lists.filter ovr
  { q with lists := (q.lists.filter (fun l => !ovr l)).map (fun l => gone.foldl (fun l x => l.behind x now) l) }

/-- The effects every completed command has: its SIGNAL, its EVENT (R264, R265). -/
def State.completed (s : State) (j : JobIx) (b : List Byte) : State :=
  let s := s.modCtx j (fun c => c.signalled b)
  if Slot.event b then s.raise j.val else s

/-- A queue goes on with what it holds: what a BRANCH or a SKIP passes over leaves it (R269, R283). -/
def Queue.goOn (q : Queue) : Queue := Queue.settle (Queue.passOver (q.held.length + 1) q)

/-- A queue goes on after its front command left (R283). -/
def Queue.advance (q : Queue) : Queue := Queue.goOn { q with waitSince := none }

/-- A conditional command starts: its charge comes from the reserve and accrues to FALLBACK (R299, R306). -/
def Queue.spendConditional (q : Queue) : Queue :=
  { q with
    lists := q.lists.map (fun l =>
      if some l.lid == q.curList then
        match l.plan.head? with
        | some p => if p.conditional then
            { l with reserve := l.reserve - p.charge, accounts := modAt l.accounts 0 (· + p.charge) }
          else l
        | none => l
      else l) }

/-- The front command leaves at once, complete: a control command or one with nothing to write, which has started, or one
whose predicate is false, which has not (R264, R299). A list that it ends, or whose END it passes over, is gone. -/
def State.finishFront (s : State) (j : JobIx) (e : EngIx) (b : List Byte) (started : Bool) : State :=
  let s := s.modQ j e (fun q =>
    (((if started then q.spendConditional else q).unplan false).pop.advance).dropEnded s.tick)
  s.completed j b

/-- Whether the module runs commands of a context: power good and the context OPEN. -/
def State.runs (s : State) (j : JobIx) : Bool :=
  (s.ctx j).state == .opened && s.pwr.state != .emergency && s.pwr.state != .off && s.pwr.state != .standby &&
  s.pwr.state != .starting

/-! ### Order (R263, R305) -/

/-- Whether the command before has issued its last work item: no first pass of the job is without a tile, and no share
of a copy has rows to read after those it waits for. -/
def State.issued (s : State) (j : JobIx) (e : EngIx) : Bool :=
  match e.val with
  | 0 => s.passes.all (fun p => p.job != j.val || p.tile.isSome || p.repeats != 0)
  | 2 => s.far.all (fun r => r.job != j.val || r.todo.length < 2)
  | _ => true

/-- The rank of the current list of a queue in earliest-deadline-first order: late lists last (R305, R310). -/
def Queue.rank (q : Queue) : Nat × Nat :=
  match q.lists.find? (fun l => some l.lid == q.curList) with
  | some l => (if l.late then 1 else 0, l.deadlineTick)
  | none => (2, 0)

/-- Whether the front command of a queue is ready to start (R263, R264). -/
def State.readyAt (s : State) (j : JobIx) (e : EngIx) : Bool :=
  let q := s.queue j e
  s.runs j && (q.state == .active || q.state == .waiting) && q.curList.isSome && s.issued j e &&
  (match q.held.head? with
   | some h => h.whole && (!(Slot.fence h.bytes) || q.inflight == []) && 3 < opcodeOf h.bytes &&
      (0 < q.passed || waitMet (s.ctx j) h.bytes) && (1 < q.passed || predHolds (s.ctx j) h.bytes) &&
      (e != 3 || q.inflight.all (fun f => Slot.imm f.bytes % 16 != Slot.imm h.bytes % 16))
   | none => false)

/-- Whether an engine runs the work it has started (R434). -/
def EngOverride.goes (x : EngOverride) : Bool := x == .none || x == .draining || x == .armed

/-- The C-dies a Loom, vector or copy command is cut over: those of its mask, the home C-die where the mask is 0; the
fenced engine of a die leaves it out (R253, R285). -/
def State.diesOf (s : State) (j : JobIx) (e : EngIx) (b : List Byte) : List CIx :=
  let m := Slot.dieMask b
  let all := if m == 0 then [homeOf (s.ctx j)] else (List.finRange 4).filter (fun n => m.testBit n.val)
  all.filter (fun n =>
    let d := s.cdies[n]
    d.powered && !d.held &&
    (match e.val with
     | 0 => d.loomEng != .fenced && d.loomEng != .armed && d.loomEng != .draining
     | 1 => d.vecEng != .fenced && d.vecEng != .armed && d.vecEng != .draining && d.vus.any (fun u => u.state == .inService)
     | _ => d.cpyEng != .fenced && d.cpyEng != .armed && d.cpyEng != .draining && d.cps.any (fun u => u.state == .inService)))

/-- Whether another context's ready command comes first on an engine the command uses (R305). -/
def State.overtaken (s : State) (j : JobIx) (e : EngIx) (dies : List CIx) : Bool :=
  let (late, dl) := (s.queue j e).rank
  (List.finRange 64).any (fun k =>
    k != j && s.readyAt k e &&
    (match (s.queue k e).held.head? with
     | some h => 2 < e.val || (s.diesOf k e h.bytes).any (fun n => dies.contains n)
     | none => false) &&
    (let (late', dl') := (s.queue k e).rank
     decide (late' < late) || (late' == late && (decide (dl' < dl) || (dl' == dl && decide (k < j))))))

/-! ### Starting a command -/

/-- What a started command leaves in flight: shares still to run, its parts of scale records, its operands, a scoreboard
it writes at completion, and the C-dies that have run a share. -/
structure Started where
  shares : Nat := 0
  amax : List AmaxPart := []
  ops : List (Option Scaled) := []
  board : Option (Nat × Nat) := none
  dies : List Nat := []
deriving Repr

/-- A queue's command in flight of a number. -/
def State.flight (s : State) (j : JobIx) (e : EngIx) (fid : Nat) : Option Flight :=
  (s.queue j e).inflight.find? (fun f => f.fid == fid)

/-- How the decode and the start of a command end. -/
inductive Begin where
  /-- It cannot start yet: nothing changes. -/
  | stays
  | rejects (s : State) (cause : Nat)
  /-- The job faults at the command. -/
  | faults (s : State) (f : FaultAt)
  /-- Complete at once: a control command, or one with nothing to write (R191). -/
  | done (s : State)
  /-- Started. -/
  | starts (s : State) (m : Started)
deriving Repr

/-- A queue whose wait is met: `found` tells what R264 has found of its front command. -/
def Queue.resumeAt (q : Queue) (now found : Nat) : Queue :=
  let q := q.accrueWait now
  { q with state := .active, passed := max q.passed found }

/-- The account that a command kept from its start accrues to (Table 9-3): FENCE where a fenced engine keeps it, THERMAL
where a FENCED stack does; none where it waits for its turn (R285, R305, R323, R348). -/
def State.waitAccount (s : State) (j : JobIx) (e : EngIx) (b : List Byte) : Option Nat :=
  let dies := s.diesOf j e b
  if (e.val < 3 && dies == []) || (e == 4 && s.sdies.any (fun d => d.cprEng != .none)) then some 3
  else if s.overtaken j e dies || (e == 4 && s.cpr.isSome) then none
  else if s.sdies.any (fun d => d.state == .fenced) then some 1 else none

/-- A command has started on fewer C-dies than its mask names (R285): the extra time goes to FENCE. -/
def State.accrueFewer (s : State) (j : JobIx) (e : EngIx) (b : List Byte) (fid : Nat) : State :=
  let m := Slot.dieMask b
  if e.val < 3 && m != 0 && decide ((s.diesOf j e b).length < ((List.range 4).filter (fun i => m.testBit i)).length) then
    s.accrueFree j fid 3
  else s

/-- The front command becomes one in flight. -/
def Queue.start (q : Queue) (fid : Nat) (b : List Byte) (now : Nat) (m : Started) : Queue :=
  let f : Flight :=
    ⟨fid, b, q.curList, now, m.shares, m.amax, m.ops, m.board, [], m.dies⟩
  let q := (q.spendConditional.unplan false).pop
  Queue.advance { q with inflight := q.inflight ++ [f] }

/-- The checks every command meets at its turn, and its start: its opcode's own decode and effect are `f` (R259, R263,
R264, R569). `f` is given the command's bytes and the number its flight will have. -/
def State.runSlot (s : State) (j : JobIx) (e : EngIx) (op : Nat) (f : State → List Byte → Nat → Begin) : State :=
  let q := s.queue j e
  if !s.runs j || !(q.state == .active || q.state == .waiting) then s
  else match q.held.head? with
  | none => s
  | some h =>
    let b := h.bytes
    if !h.whole || !s.issued j e then s
    else if q.curList.isNone || opcodeRefused e.val b then s.reject j e 1 b
    else if Slot.jobOf b != j.val then s.reject j e 2 b
    else if opcodeOf b != op then s
    else if (Slot.fence b || op == 3) && q.inflight != [] then s
    else if q.passed == 0 && !waitMet (s.ctx j) b then
      s.modQ j e (fun q => { q with state := .waiting, waitSince := some (q.waitSince.getD (5, s.tick)) })
    else
      let s := s.modQ j e (fun q => q.resumeAt s.tick 1)
      if q.passed < 2 && !predHolds (s.ctx j) b then s.finishFront j e b false
      else
        let s := s.modQ j e (fun q => { q with passed := 2 })
        let fid := (s.ctx j).nextFid
        match f (s.modCtx j (fun c => c.stormClear (cmdStep b))) b fid with
        | .stays => s.modQ j e (fun q => { q with waitSince := (s.waitAccount j e b).map (fun a => (a, s.tick)) })
        | .rejects s cause => s.reject j e cause b
        | .faults s f => s.jobFault j f
        | .done s => s.finishFront j e b true
        | .starts s m =>
          (s.modCtx j (fun c => { c.modQ e (fun q => q.start fid b s.tick m) with
            nextFid := fid + 1 })).accrueFewer j e b fid

/-! ### Fetching (R273, R274) -/

/-- The slot at an address, for a context: none while its stack waits. -/
inductive Fetched where
  | waits
  | poison (s : State)
  | outside
  | slot (b : List Byte) (s : State)
deriving Repr

def State.readSlot (s : State) (j : JobIx) (a : Nat) : Fetched :=
  if ((s.ctx j).regionOf a 64).isNone then .outside
  else
    let (g, s) := readMem s (some j.val) a 64 .stream
    if g.waits then .waits else if g.poison then .poison (s.countConsumed g) else .slot g.data s

/-- The job fault of a slot (R274): cause, its ring index, and its place in a chained run. -/
def State.slotFaultAt (s : State) (j : JobIx) (e : EngIx) (cause ringIdx : Nat) (run : Option Nat) : FaultAt :=
  let home := (homeOf (s.ctx j)).val
  { e := e, cause := cause, dieType := 1, die := home, unit := unitId 1 home 5 0, opcode := 0xFF
    cmd := BitVec.ofNat 32 ringIdx, step := BitVec.ofNat 32 (run.getD 0), slot := true, inRun := run.isSome }

def State.slotFault (s : State) (j : JobIx) (e : EngIx) (cause ringIdx : Nat) (run : Option Nat) : State :=
  s.jobFault j (s.slotFaultAt j e cause ringIdx run)

/-- A fetched ring slot put behind the held ones: the second slot of an extended command, or a command of its own. -/
def Queue.hold (q : Queue) (b : List Byte) : Queue :=
  let idx := q.head
  let held := match q.held.getLast? with
    | some h => if h.whole then q.held ++ [⟨b, idx, none⟩] else q.held.dropLast ++ [{ h with bytes := h.bytes ++ b }]
    | none => [⟨b, idx, none⟩]
  { q with held := held, head := (q.head + 1) % 2 ^ q.log2 }

/-- One slot of the ring fetched, when there is one (R273). -/
def State.fetchOne (s : State) (j : JobIx) (e : EngIx) : Option State :=
  let q := s.queue j e
  if q.head == q.tail then none
  else match s.readSlot j (q.base + 64 * (q.head % 2 ^ q.log2)) with
    | .waits => none
    | .poison s => some (s.slotFault j e 0x29 q.head none)
    | .outside => some (s.slotFault j e 0x2A q.head none)
    | .slot b s => some (s.modQ j e (fun q => (q.hold b).goOn))

/-- COMMAND_FETCH (R273). -/
def execCommandFetch (j : JobIx) (e : EngIx) (s : State) : Host.Outcome State Fault Refusal :=
  .next (
    let st := (s.queue j e).state
    if s.runs j && (st == .admitting || st == .active || st == .waiting) then (s.fetchOne j e).getD s else s)

/-! ### Control commands -/

/-- NOP (Table 8-3). -/
def execNop (j : JobIx) (e : EngIx) (s : State) : Host.Outcome State Fault Refusal :=
  .next (s.runSlot j e 0 (fun s _ _ => .done s))

/-- LIST_HEAD (R268): the LIST_HEAD of an admitted list runs as a control command; one where a list must begin sends
its queue to admission. -/
def execListHead (j : JobIx) (e : EngIx) (s : State) : Host.Outcome State Fault Refusal :=
  .next (
    let q := s.queue j e
    if s.runs j && q.curList.isNone && (q.state == .idle || q.state == .active) && q.held.head?.any HeldCmd.isHead then
      s.modQ j e (fun q => { q with state := .admitting })
    else s.runSlot j e 1 (fun s _ _ => .done s))

/-- The slots of a run as commands: an extended one takes the next slot, where the run has one (R270). -/
def runCommands (ringIdx : Nat) : Nat → Nat → List (List Byte) → List HeldCmd
  | 0, _, _ => []
  | _ + 1, _, [] => []
  | k + 1, i, b :: bs =>
    match Slot.ext b, bs with
    | true, x :: xs => ⟨b ++ x, ringIdx, some i⟩ :: runCommands ringIdx k (i + 2) xs
    | _, _ => ⟨b, ringIdx, some i⟩ :: runCommands ringIdx k (i + 1) bs

/-- The `n` slots of a run in address order from slot `i` on: none while a stack waits, the index of a slot that is
poisoned or lies outside the regions, or the slots. -/
def State.readRun (j : JobIx) (base : Nat) : Nat → Nat → State → List (List Byte) →
    Option (Except (Nat × Nat × State) (List (List Byte) × State))
  | 0, _, s, acc => some (.ok (acc, s))
  | n + 1, i, s, acc =>
    match s.readSlot j (base + 64 * i) with
    | .waits => none
    | .poison s => some (.error (0x29, i, s))
    | .outside => some (.error (0x2A, i, s))
    | .slot b s => State.readRun j base n (i + 1) s (acc ++ [b])

/-- The slots of a CHAIN at the front of a queue, put before the slot after it (R270). -/
def State.chain (s : State) (j : JobIx) (e : EngIx) (b : List Byte) : Begin :=
  let here := (s.queue j e).held.head?
  let idx := (here.map (·.ringIdx)).getD 0
  let n := bitsOf (Slot.imm b) 23 0
  let a := Slot.d b 0
  if (here.bind (·.runIdx)).isSome || n == 0 || a % 64 != 0 then .rejects s 1
  else if ((s.ctx j).regionOf a (64 * n)).isNone then .rejects s 0x0A
  else match State.readRun j a n 0 s [] with
    | none => .stays
    | some (.error (cause, i, s)) => .faults s (s.slotFaultAt j e cause idx (some i))
    | some (.ok (bs, s)) =>
      .done (s.modQ j e (fun q => { q with held := q.held.take 1 ++ runCommands idx (n + 1) 0 bs ++ q.held.drop 1 }))

/-- CHAIN (R270). -/
def execChain (j : JobIx) (e : EngIx) (s : State) : Host.Outcome State Fault Refusal :=
  .next (s.runSlot j e 2 (fun s b _ => s.chain j e b))

/-- BRANCH (R269): its queue passes over the next SKIP commands. -/
def execBranch (j : JobIx) (e : EngIx) (s : State) : Host.Outcome State Fault Refusal :=
  .next (s.runSlot j e 3 (fun s b _ =>
    .done (s.modQ j e (fun q => { q with skipLeft := bitsOf (Slot.imm b) 23 0 }))))

/-- COMMAND_WAIT_MET (R264, Table 8-10). -/
def execCommandWaitMet (j : JobIx) (e : EngIx) (s : State) : Host.Outcome State Fault Refusal :=
  .next (
    let q := s.queue j e
    if q.state == .waiting && q.held.head?.any (fun h => waitMet (s.ctx j) h.bytes) then
      s.modQ j e (fun q => q.resumeAt s.tick 1)
    else s)

/-! ### COMMAND_COMPLETE -/

/-- Scale-record parts written (R169): the larger AMAX where the slot holds this step. -/
def State.writeAmax (s : State) (j : JobIx) (step : Word) (p : AmaxPart) : State :=
  let a := p.record + 32 * (step.toNat % 16) + 8 * p.die
  let (g, s) := readMem s (some j.val) a 8 .stream
  let v := if slotField g.data 4 4 == step.toNat then maxMag (BitVec.ofNat 32 (slotField g.data 0 4)) p.amax else p.amax
  writeMem s (some j.val) a (leBytes 4 v.toNat ++ leBytes 4 step.toNat) .stream false

/-- Whether an operand is four-bit at the multiplier at level 0 (R122, R123). -/
def fourBit (d : Desc) : Bool := d.dtype == dtMx4 || d.dtype == dtFb4 || d.rot == 2

/-- The base level of a command (R122). -/
def baseLevel (a b : Desc) : Nat := if fourBit a && fourBit b then 0 else 1

/-- The level of a Loom command in flight: the highest of its B operands' (R122, R151; log 122). -/
def Flight.level (f : Flight) : Nat :=
  let a := ((f.ops.getD 0 none).getD default).d
  (f.ops.drop 8).foldl (fun l x => max l (baseLevel a (x.getD default).d)) (Slot.level f.bytes)

/-- The layer scoreboard written at a Loom command's completion (R151). -/
def Ctx.layerWrite (c : Ctx) (b : List Byte) (lv : Nat) : Ctx :=
  let imm := Slot.imm b
  if !imm.testBit 28 || !(opcodeOf b == 0x10 || opcodeOf b == 0x11) then c
  else
    let k := bitsOf imm 27 22
    match c.layers.find? (fun l => l.sb == k) with
    | none => { c with sb := upd c.sb (Fin.ofNat 64 k) (fun _ => 0) }
    | some l =>
      let v := if c.fbCfg.field 7 0 * l.issued < l.repeated * 256 && lv + 1 ≤ min 2 (c.fbCfg.field 17 16) then lv + 1 else 0
      { c with sb := upd c.sb (Fin.ofNat 64 k) (fun _ => BitVec.ofNat 32 v) }

/-- Whether a command of queue `e` runs on the engine of C-die `n`; the module's one engine stands at 0 (R302). -/
def onEngine (home : CIx) (e : EngIx) (n : Nat) (b : List Byte) : Bool :=
  if e.val < 3 then (if Slot.dieMask b == 0 then n == home.val else (Slot.dieMask b).testBit n) else n == 0

/-- Ticks that an engine has spent on a list by now (R302): those counted, and those since, while a command of the list
is in flight on it. -/
def Queue.spentBy (q : Queue) (home : CIx) (e : EngIx) (l : AdmList) (n now : Nat) : Nat :=
  let (t, upTo) := l.spent.getD n (0, 0)
  match ((q.inflight.filter (fun f => f.list == some l.lid && onEngine home e n f.bytes)).map (fun f => f.startTick)).min? with
  | some a => t + (now - max a upTo)
  | none => t

/-- The ticks of the lists of a queue counted up to now (R302). -/
def Queue.countSpent (q : Queue) (home : CIx) (e : EngIx) (now : Nat) : Queue :=
  { q with
    lists := q.lists.map (fun l =>
      { l with spent := (List.range 4).map (fun n => (q.spentBy home e l n now, now)) }) }

/-- Whether stalls for heat or a lowered clock may lie between a tick and now (Table 9-3): a stack below full bandwidth or
a C-die below OP 0, now or since then. -/
def State.slowNow (s : State) : Bool :=
  s.sdies.any (fun d => d.state == .step75 || d.state == .step50 || d.state == .step25 || d.state == .fenced) ||
  s.cdies.any (fun c => c.op != 0)
def State.slowSince (s : State) (t : Nat) : Bool := s.slowNow || decide (t < s.slowEnd)

/-- The end of a slow stretch noted when a stack or a clock changes. -/
def State.noteSlow (s : State) : State := if s.slowNow then { s with slowEnd := s.tick } else s

/-- What a command in flight has lost by now, by account (Table 9-3): a collective beyond its budget and a copy's wait
for remote rows to REMOTE; an update's waiting shares to FENCE or THERMAL; and the stall clocks of a slow stretch, which
the model does not count, to THERMAL: a free value below the command's time (log 133). -/
def State.lostBy (s : State) (j : JobIx) (e : EngIx) (f : Flight) : List (Nat × Nat) :=
  let t := s.tick - f.startTick
  (if s.slowSince f.startTick then [(1, s.free % (44 * t + 1))] else []) ++
  (match e.val with
   | 2 => if s.far.any (fun r => r.job == j.val && r.fid == f.fid) then [(2, 44 * t)] else []
   | 3 => [(2, 44 * (t - (s.ctx j).rknCfg.field 31 12))]
   | 4 => (match s.cpr with
     | some r => if r.fid == f.fid && r.job == j.val then (r.left.map (fun x => x.2)).eraseDups.map (fun a => (a, 44 * t)) else []
     | none => [])
   | _ => [])

/-- A transform of a copy engine counted (R217). -/
def State.countXform (s : State) (die : CIx) (hi lo : Nat) : State :=
  s.modCDie die (fun d => { d with xformCnt := d.xformCnt.bump hi lo 1 })

/-- The C-die of a command that runs on one (R254). -/
def State.oneDieOf (s : State) (j : JobIx) (b : List Byte) : CIx :=
  ((List.finRange 4).find? (fun n => (Slot.dieMask b).testBit n.val)).getD (homeOf (s.ctx j))

/-- A collective ends: its remainder header is written last (R421), and its channel is free (R417). -/
def State.endCollective (s : State) (j : JobIx) (fid : Nat) : State :=
  match s.cols.find? (fun c => c.job == j.val && c.fid == fid) with
  | none => s
  | some r =>
    let s := match r.header with
      | some h => writeMem s (some j.val) h.1 h.2.1 h.2.2 false
      | none => s
    let s := { s with cols := s.cols.filter (fun c => !(c.job == j.val && c.fid == fid)) }
    s.modCtx j (fun c => { c with colBusy := c.colBusy.setField r.ch r.ch 0 })

end Sys2Proof.Machine
end

