-- ==== Sys2Proof/Machine/Vector.lean ====
section
/-! DEFINITION. How a C-die command is decoded and cut into shares (R253 to R255, R192), and the vector engine (R233,
R234, R262, Tables 8-6 and 10-5). -/

namespace Sys2Proof.Machine

/-! ### Decoding the operands of a command -/

def envOf (s : State) (j : JobIx) (b : List Byte) (fid : Nat) : Env := 
  { s := s, job := j, gen := noGen, agens := [], amax := [], stop := none, waits := false, bytes := b, fid := fid, die := 0 }

/-- How a command writes a tensor on a C-die. -/
def Writer.of (x : Scaled) (rnd : Rnd) (b : List Byte) (die : Nat) : Writer :=
  { x := x, rnd := rnd, step := cmdStep b, die := die, kaxis := Slot.kaxis b }

/-- The descriptors a command names, one after the other (an operand of 0 is absent), with the checks each fails. -/
def Eng.operands (c : Ctx) : List (Nat × Use) → Eng (List (Option Desc) × List (Nat × Nat))
  | [] => pure ([], [])
  | (a, u) :: rest => do
    if a == 0 then
      let (ds, fs) ← Eng.operands c rest
      return (none :: ds, fs)
    else
      let d ← Eng.descriptor a
      let (ds, fs) ← Eng.operands c rest
      return (some d :: ds, d.faults c u ++ fs)

/-- A job fault found on a C-die by one of its units. -/
def dieFault (e : EngIx) (cause die cls ix : Nat) (b : List Byte) : FaultAt :=
  faultOf e cause 1 die (unitId 1 die cls ix) b

/-- The outcome of a decode that has read operands and found `fs`: waiting, a fault, a rejection, or `k` (R189, R192,
R255). The lowest C-die of the command reports. -/
def settleDecode (e : EngIx) (b : List Byte) (die : Nat) (v : Env) (fs : List (Nat × Nat)) (k : State → Begin) : Begin :=
  if v.waits then .stays
  else match v.stop with
    | some cause => .faults v.s (dieFault e cause die 5 0 b)
    | none =>
      match firstFault fs with
      | some cause => .rejects v.s cause
      | none => k v.s

/-- The check that a command's step is still kept (R180). -/
def stepFault (c : Ctx) (b : List Byte) : List (Nat × Nat) := if c.staleStep (cmdStep b) then [(10, 0x0C)] else []

def rank10 (bad : Bool) (cause : Nat) : List (Nat × Nat) := if bad then [(10, cause)] else []

/-- A fault found at the row of rank `r` of Table 6-2, as `rank10` for the last rank (R192). -/
def rankAt (r : Nat) (bad : Bool) (cause : Nat) : List (Nat × Nat) := if bad then [(r, cause)] else []

/-- Items `⌊i·N/m⌋` to `⌊(i+1)·N/m⌋ − 1` of a list: share `i` of `m` (R253). -/
def shareOf {α : Type} (l : List α) (i m : Nat) : List α :=
  let n := l.length
  (l.drop (i * n / m)).take ((i + 1) * n / m - i * n / m)

/-- A unit in service that the dispatcher takes: the spec leaves the choice open (R99, R61). -/
def pickUnit (s : State) (us : List Nat) : Nat := us.getD (s.free % max 1 us.length) 0

/-- Work items of a share run one after the other until one of them meets a fault (R276). -/
def Eng.items {α : Type} (l : List α) (f : α → Eng Unit) : Eng Unit :=
  l.forM (fun x => do
    if !(← Eng.stopped) then
      f x
      Eng.settle)

/-- One share per C-die, each on a unit of its own with its own generator (R58, R253). -/
def runWhole {α : Type} (e : EngIx) (cls : Nat) (units : CDie → List Nat) (items : List α)
    (f : CIx → List α → Eng Unit) (die : CIx → CDie → CDie) (dies : List CIx) (v : Env) : Env × Option FaultAt :=
  let m := dies.length
  let b := v.bytes
  ((List.range m).zip dies).foldl (fun (r : Env × Option FaultAt) (p : Nat × CIx) =>
      if r.2.isSome || r.1.waits then r
      else
        let u := pickUnit r.1.s (units r.1.s.cdies[p.2])
        let g := genSeed (r.1.s.ctx v.job).seed (unitId 1 p.2.val cls u) (cmdStep b) (cmdId b)
        let (_, v) := (f p.2 (shareOf items p.1 m)).run
          { r.1 with s := (r.1.s.drawn).modCDie p.2 (die p.2), gen := g, die := p.2.val,
                     dies := if (shareOf items p.1 m).isEmpty then r.1.dies else p.2.val :: r.1.dies }
        (v, v.stop.map (fun cause => dieFault e cause p.2.val cls u b))) (v, none)

/-- The shares of a command whose items run one after the other and end with the command's row. -/
def runShares {α : Type} (e : EngIx) (cls : Nat) (b : List Byte) (fid : Nat) (units : CDie → List Nat) (items : List α)
    (f : CIx → α → Eng Unit) (die : CIx → CDie → CDie) (dies : List CIx) (s : State) (j : JobIx) : Begin :=
  let go := runWhole e cls units items (fun n l => Eng.items l (f n)) die dies (envOf s j b fid)
  if go.1.waits then .stays
  else match go.2 with
    | some x => .faults go.1.s x
    | none => .starts go.1.s { amax := go.1.amax, dies := go.1.dies }

/-! ### The vector engine -/

/-- The types the vector engine computes on. -/
def floatType (c : Nat) : Bool := dtypeKnown c && !isInt c

/-- Whether a tensor has the output's shape, zero strides broadcasting (R196). -/
def Desc.fits (d o : Desc) : Bool :=
  d.ext 0 == o.ext 0 && (List.range 5).all (fun k => d.ext (k + 1) == o.ext (k + 1) || d.stride (k + 1) == 0)

/-- An exponential with a free choice inside its 2 ulp (R262). -/
def Eng.exp (x : Word) : Eng Word := do
  let k ← Eng.free
  return exp32 k x

/-- ELEMENTWISE on one element (Table 8-6): every operation of the formula rounds once. -/
def Eng.elementwise (op : Nat) (c x y z : Word) : Eng Word :=
  match op with
  | 1 => pure (add32 x y)
  | 2 => pure (mul32 x y)
  | 3 => pure (fma32 x y z)
  | 4 => pure (mul32 c x)
  | 5 => pure (mul32 x (Config.sigmoid x))
  | 6 =>
    let x3 := mul32 (mul32 x x) x
    let u := mul32 0x3F4C422A#32 (add32 x (mul32 0x3D372713#32 x3))
    pure (mul32 (mul32 0x3F000000#32 x) (add32 one32 (Config.tanh u)))
  | 7 => Eng.exp (mul32 c x)
  | _ => pure (div32 one32 (sqrt32 x))

/-- NORM on one row (R262). -/
def normRow (layer : Bool) (eps : Word) (x g b : List Word) : List Word :=
  let n := rneFrac false x.length 1
  let mean := fun (l : List Word) => div32 (l.foldl add32 0) n
  if layer then
    let mu := mean x
    let dx := x.map (fun v => sub32 v mu)
    let den := sqrt32 (add32 (mean (dx.map (fun v => mul32 v v))) eps)
    List.zipWith add32 (List.zipWith (fun v k => div32 (mul32 v k) den) dx g) b
  else
    let den := sqrt32 (add32 (mean (x.map (fun v => mul32 v v))) eps)
    List.zipWith (fun v k => div32 (mul32 v k) den) x g

/-- The largest element of a row. -/
def rowMax (x : List Word) : Word :=
  (x.drop 1).foldl (fun m v => if orderKey m < orderKey v then v else m) (x.headD 0)

/-- SOFTMAX on one row (R262). -/
def Eng.softmax (c : Word) (x : List Word) : Eng (List Word) := do
  if x.any isNan32 then return x.map (fun _ => nan32)
  let m := rowMax x
  let t ← x.mapM (fun v => Eng.exp (mul32 c (sub32 v m)))
  let sum := t.foldl add32 0
  return t.map (fun v => div32 v sum)

/-- Experts ranked by descending logit, the lower index first among equals (R234). -/
def insertExpert (x : Nat × Word) : List (Nat × Word) → List (Nat × Word)
  | [] => [x]
  | y :: ys => if orderKey y.2 < orderKey x.2 then x :: y :: ys else y :: insertExpert x ys

/-- ROUTE_TOPK on one row (R234): identifiers and gates of the k selected experts, and whether the row selects none. -/
def Eng.route (k : Nat) (topk : Bool) (x : List Word) : Eng (List Word × List Word × Bool) := do
  if x.any (fun v => isNan32 v || (isInf32 v && !v.bit 31)) then
    return (List.replicate k 0xFFFFFFFF#32, List.replicate k 0, true)
  let ix := (List.range x.length).zip x
  let sel := (ix.foldl (fun l p => insertExpert p l) []).take k
  let m := rowMax x
  let t ← ix.mapM (fun p => do
    if isInf32 p.2 then return (p.1, zero32) else return (p.1, ← Eng.exp (sub32 p.2 m)))
  let inSum := fun i : Nat => !topk || sel.any (fun p => p.1 == i)
  let sum := t.foldl (fun a p => if inSum p.1 then add32 a p.2 else a) 0
  return (sel.map (fun p => BitVec.ofNat 32 p.1),
    sel.map (fun p => if isInf32 p.2 then zero32 else div32 (t.getD p.1 (0, zero32)).2 sum), false)

/-- Whether scale blocks of a tensor must stay whole in one work item: those of a GRADIENT tensor (R176), and those that a
step outside row mode may recompute (R170; log 130). -/
def Scaled.banded (o : Scaled) : Bool := o.d.smode == 2 || (o.d.smode == 1 && !o.row)

/-- The band of 128 rows, or the panel of 128 columns, that a row stands in. -/
def Desc.bandOf (d : Desc) (idx : List Nat) : Nat := d.rowIndexFrom 2 idx * ceilDiv (d.ext 1) 128 + idx.getD 0 0 / 128

/-- Things gathered by a key, in the order in which their keys first appear. -/
def gathered {α : Type} (key : α → Nat) (l : List α) : List (List α) :=
  ((l.map key).eraseDups).map (fun k => l.filter (fun x => key x == k))

/-- Rows of an output as work items: single rows, or bands of 128 rows where scale blocks must stay whole (R176,
R253). -/
def rowItems (o : Scaled) : List (List (List Nat)) :=
  let rs := (List.range o.d.rows).map o.d.coords
  if o.banded then gathered o.d.bandOf rs else rs.map (fun r => [r])

/-- The operands of a vector command, decoded: x, y, output, z (or identifiers and gates). -/
structure VecPlan where
  x : Desc
  y : Option Desc
  o : Desc
  z : Option Desc
deriving Repr, Inhabited

def vecIn (b : List Byte) : Nat → Bool :=
  if opcodeOf b == 0x24 then fun c => c == dtFp32 || c == dtBf16 else floatType

/-- The operands a vector command names and what each is for. -/
def vecUses (b : List Byte) : List (Nat × Use) :=
  let i := Use.input (vecIn b)
  if opcodeOf b == 0x24 then
    [(Slot.d b 0, i), (Slot.d b 2, Use.output (· == dtInt32)), (Slot.d b 3, Use.output (· == dtFp32))]
  else [(Slot.d b 0, i), (Slot.d b 1, i), (Slot.d b 2, Use.output floatType), (Slot.d b 3, i)]

/-- The decoded operands in their places. -/
def vecPlan (b : List Byte) (ds : List (Option Desc)) : VecPlan :=
  let g := fun k => (ds.getD k none)
  if opcodeOf b == 0x24 then ⟨(g 0).getD default, none, (g 1).getD default, g 2⟩
  else ⟨(g 0).getD default, g 1, (g 2).getD default, g 3⟩

/-- A vector command's own checks (R233, R262). -/
def vecChecks (b : List Byte) (p : VecPlan) : List (Nat × Nat) :=
  let op := opcodeOf b
  let imm := Slot.imm b
  if op == 0x24 then
    let k := bitsOf imm 3 0
    let e := p.x.ext 0
    let n := p.x.rows * k
    rank10 (e == 0 || 1024 < e || k == 0 || min 8 e < k) 0x0E ++
    rank10 (p.o.ext 0 < n || (p.z.getD default).ext 0 < n) 3
  else
    let unfit := fun d : Option Desc => d.any (fun d => !d.fits p.o)
    rank10 (!p.x.fits p.o) 3 ++
    (if op == 0x20 then
      let f := bitsOf imm 7 0
      (if f == 0 || 8 < f then [(0, 1)] else []) ++
      rank10 ((f ≤ 3 && p.y.isNone) || (f == 3 && p.z.isNone) || unfit p.y || unfit p.z) 3
     else if op == 0x21 then
      rank10 (p.y.any (fun d => d.ext 0 != p.o.ext 0) || p.z.any (fun d => d.ext 0 != p.o.ext 0)) 3
     else [])

/-- Element arrays of ROUTE_TOPK written for one row (R233). -/
def Eng.writeRoute (b : List Byte) (p : VecPlan) (idx : List Nat) (x : List Word) (poison : Bool) : Eng Unit := do
  let k := bitsOf (Slot.imm b) 3 0
  let (ids, gates, nanRow) ← Eng.route k ((Slot.imm b).testBit 4) x
  Eng.status nanRow jsRouteNan
  let c ← Eng.context
  let g := gates.map (flush32 (c.cfg.bit 2))
  Eng.status (g.any (fun x => x.2)) jsSubnFlush
  let z := p.z.getD default
  let at' := 4 * p.x.rowIndex idx * k
  Eng.wr (p.o.base + at') (ids.flatMap (fun w => leBytes 4 w.toNat)) p.o.hint poison
  Eng.wr (z.base + at') (g.flatMap (fun w => leBytes 4 w.1.toNat)) z.hint poison

/-- What a vector command's inputs are read with. -/
structure VecIn where
  x : Scaled
  y : Option Scaled
  o : Scaled
  z : Option Scaled
  vecY : List Word × Bool
  vecZ : List Word × Bool

/-- One output row's values and poison. -/
def Eng.vecRow (b : List Byte) (v : VecIn) (idx : List Nat) : Eng (List Word × Bool) := do
  let op := opcodeOf b
  let c := BitVec.ofNat 32 (bitsOf (Slot.imm b) 47 16)
  let (x, px) ← Eng.rowValues v.x idx
  match op with
  | 0x20 =>
    let f := bitsOf (Slot.imm b) 7 0
    let zs := (List.replicate x.length zero32, false)
    let (y, py) ← if f ≤ 3 then (match v.y with | some y => Eng.rowValues y idx | none => pure zs) else pure zs
    let (z, pz) ← if f == 3 then (match v.z with | some z => Eng.rowValues z idx | none => pure zs) else pure zs
    let r ← ((x.zip y).zip z).mapM (fun t => Eng.elementwise f c t.1.1 t.1.2 t.2)
    return (r, px || py || pz)
  | 0x21 => return (normRow ((Slot.imm b).testBit 0) c x v.vecY.1 v.vecZ.1, px || v.vecY.2 || v.vecZ.2)
  | 0x22 => return (← Eng.softmax c x, px)
  | _ => return (x, px)

/-- One work item: its rows computed, written, and their poison consumed (Table 10-5). -/
def Eng.vecItem (b : List Byte) (v : VecIn) (die : CIx) (rows : List (List Nat)) : Eng Unit := do
  let parts ← rows.mapM (fun idx => do
    let (x, p) ← Eng.vecRow b v idx
    return ({ idx := idx, i0 := 0, xs := x, amax := amaxOf x, poison := p } : RowPart))
  let rnd : Rnd := if Slot.gradOut b && isBlock v.o.d.dtype then .sr else .rne
  let _ ← Eng.writeParts (Writer.of v.o rnd b die.val) parts
  Eng.consume (parts.any (fun r => r.poison))

def Eng.scaledOpt (d : Option Desc) (row : Bool) (step : Word) : Eng (Option Scaled) :=
  match d with
  | some d => some <$> Eng.scaledBy d row step
  | none => pure none

/-- How the tensors of a vector command are read in its step. -/
def Eng.vecIn (b : List Byte) (p : VecPlan) (row : Bool) : Eng VecIn := do
  let x ← Eng.scaledBy p.x row (cmdStep b)
  let y ← Eng.scaledOpt p.y row (cmdStep b)
  let o ← Eng.scaledBy p.o row (cmdStep b)
  let z ← Eng.scaledOpt p.z row (cmdStep b)
  let n := p.o.ext 0
  let vec := fun (d : Option Scaled) (dflt : Word) => do
    match d with
    | some d => if opcodeOf b == 0x21 then Eng.rowValues d [0, 0, 0, 0, 0] else pure (List.replicate n dflt, false)
    | none => pure (List.replicate n dflt, false)
  return ⟨x, y, o, z, ← vec y one32, ← vec z zero32⟩

/-- One row of ROUTE_TOPK: read, routed and written, its poison consumed (R233, R234). -/
def Eng.routeItem (b : List Byte) (p : VecPlan) (row : Bool) (idx : List Nat) : Eng Unit := do
  let x ← Eng.scaledBy p.x row (cmdStep b)
  let (l, q) ← Eng.rowValues x idx
  Eng.writeRoute b p idx l q
  Eng.consume q

def vuUnits (d : CDie) : List Nat := (List.range 16).filter (fun i => d.vus[Fin.ofNat 16 i].state == .inService)

def CDie.wakeVec (d : CDie) : CDie := { d with vecAwake := true }

/-- A vector command decoded and run (R253, R262). -/
def State.vector (j : JobIx) (s : State) (b : List Byte) (fid : Nat) : Begin :=
  let c := s.ctx j
  let dies := s.diesOf j 1 b
  let home := (homeOf c).val
  if dies == [] || s.overtaken j 1 dies then .stays
  else
    let ((ds, fs), v) := (Eng.operands c (vecUses b)).run (envOf s j b fid)
    let p := vecPlan b ds
    settleDecode 1 b ((dies.head?.map (·.val)).getD home) v (fs ++ vecChecks b p ++ stepFault c b) (fun s =>
      let (row, s) := s.fixRow j (cmdStep b)
      if p.x.empty || p.o.empty then .done s
      else if opcodeOf b == 0x24 then
        runShares 1 3 b fid vuUnits ((List.range p.x.rows).map p.x.coords)
          (fun _ => Eng.routeItem b p row) (fun _ => CDie.wakeVec) dies s j
      else
        let (vi, v) := (Eng.vecIn b p row).run (envOf s j b fid)
        settleDecode 1 b home v [] (fun s =>
          runShares 1 3 b fid vuUnits (rowItems vi.o) (Eng.vecItem b vi) (fun _ => CDie.wakeVec) dies s j))

/-- ELEMENTWISE (R262, Table 8-6). -/
def execElementwise (j : JobIx) (s : State) : Host.Outcome State Fault Refusal := .next (s.runSlot j 1 0x20 (State.vector j))
/-- NORM (R262). -/
def execNorm (j : JobIx) (s : State) : Host.Outcome State Fault Refusal := .next (s.runSlot j 1 0x21 (State.vector j))
/-- SOFTMAX (R262). -/
def execSoftmax (j : JobIx) (s : State) : Host.Outcome State Fault Refusal := .next (s.runSlot j 1 0x22 (State.vector j))
/-- QUANTISE (R262). -/
def execQuantise (j : JobIx) (s : State) : Host.Outcome State Fault Refusal := .next (s.runSlot j 1 0x23 (State.vector j))
/-- ROUTE_TOPK (R233, R234). -/
def execRouteTopk (j : JobIx) (s : State) : Host.Outcome State Fault Refusal := .next (s.runSlot j 1 0x24 (State.vector j))

end Sys2Proof.Machine
end

