-- ==== Sys2Proof/Machine/Copy.lean ====
section
/-! DEFINITION. The copy engine: row moves in every layout and through owner tables (R206 to R211), COPY with its
overlap rules (R215, R216), WINDOW (R212 to R214), indexed moves (R220 to R232, R245, R246), DISPATCH_BUILD (R235,
R236) and TOUCH_BUILD (R242, R243). -/

namespace Sys2Proof.Machine

/-! ### Where the bytes of a row lie -/

/-- A run of bytes at a module of the job; no rank = this module. -/
structure Run where
  rank : Option Nat
  addr : Nat
  n : Nat
deriving DecidableEq, Repr, Inhabited

/-- The channel of copy traffic. DESIGN CHOICE (log 40). -/
def copyChannel : Nat := 0

/-- What a run is for: read, written or added to. -/
inductive RunUse where
  | read | write | add
deriving DecidableEq, Repr

/-- The bytes past a block's first that the block with indices `ks` reaches: only the elements that exist (R208), with
rows as long as BEXT0 makes them. -/
def Desc.blockSpan (d : Desc) (ks : List Nat) : Nat :=
  (List.range 5).foldl (fun a k =>
    let n := min (d.bextOf (k + 1)) (d.ext (k + 1) - ks.getD (k + 1) 0 * d.bextOf (k + 1))
    a + ((if d.woven && k == 0 then ceilDiv n 128 else n) - 1) * d.stride (k + 1))
    (if d.woven then d.panelBytes else d.rowBytesOf (d.bextOf 0))

/-- An entry of an owner table, read when its block is first touched (R211). -/
def Eng.ownerEntry (a : Nat) : Eng Nat := do
  match (← get).owners.find? (fun p => p.1 == a) with
  | some p => return p.2
  | none =>
    let (x, p) ← Eng.rd a 8 .keep
    Eng.consume p
    modify (fun e => { e with owners := (a, leNat x) :: e.owners })
    return leNat x

/-- Whether a range lies in a region that allows its use (R210, R567). -/
def Ctx.holds (c : Ctx) (a n : Nat) (u : RunUse) : Bool :=
  (c.regionOf a n).any (fun x => (x.write || u == .read) && (u != .add || x.kind < 3))

/-- The block of an owner table with block indices `ks` along the dimensions (R208, R210, R211): its owner and address.
The module checks the footprint of a block of its own. A LOCAL tensor is one block at its BASE. -/
def Eng.blockAt (d : Desc) (u : RunUse) (ks : List Nat) : Eng (Option Nat × Nat) := do
  if !d.owner then return (none, d.base)
  let b := ((List.range 6).foldl (fun (p : Nat × Nat) k => (p.1 + ks.getD k 0 * p.2, p.2 * d.blocksOn k)) (0, 1)).1
  let w ← Eng.ownerEntry (d.ownerAt + 64 + 8 * b)
  let r := bitsOf w 59 48
  let c ← Eng.context
  Eng.failIf (!w.testBit 63 || (c.rankAt r).isNone) 0x28
  if r == c.selfRank then
    Eng.failIf (!c.holds (bitsOf w 47 0) (d.blockSpan ks) u) 0x28
    return (none, bitsOf w 47 0)
  else return (some r, bitsOf w 47 0)

/-- The outer indices within a block, and the block's own indices along dimensions 1 to 5. -/
def Desc.inBlock (d : Desc) (idx : List Nat) : List Nat := (List.range 5).map (fun k => idx.getD k 0 % d.bextOf (k + 1))
def Desc.blockIx (d : Desc) (idx : List Nat) : List Nat := (List.range 5).map (fun k => idx.getD k 0 / d.bextOf (k + 1))

/-- Scale strips of a woven record. -/
def Desc.strips (d : Desc) : Nat := d.stripBytes / 128

/-- Where the codes of column `c` lie in a strand: bit position and width. A 2:4 strand has 16 values, then 8 pairs of
positions (R203, R204). -/
def Desc.cells (d : Desc) (c : Nat) : List (Nat × Nat) :=
  let w := elemBits d.dtype
  if d.layout == 2 then
    (List.range 16).map (fun v => ((v * 8 + c % 8) * w, w)) ++
    (List.range 8).map (fun q => ((16 * w + 4 * (c % 8)) * 8 + 4 * q, 4))
  else (List.range 32).map (fun k => ((k * 8 + c % 8) * w, w))

/-- The cells of a group of zeros: a 2:4 quad stores its zeros at two distinct positions (R204). -/
def Desc.zeroCells (d : Desc) : List Nat :=
  if d.layout == 2 then List.replicate 16 0 ++ List.replicate 8 4 else List.replicate 32 0

/-- The elements of block `k` along dimension 0 that exist (R208). -/
def Desc.lenOf (d : Desc) (k : Nat) : Nat := min (d.bextOf 0) (d.ext 0 - k * d.bextOf 0)

/-- Group record `g` of the panel that column `idx` stands in: its owner and address (R203). -/
def Eng.recordOf (d : Desc) (u : RunUse) (idx : List Nat) (g : Nat) : Eng (Option Nat × Nat) := do
  let (r, a) ← Eng.blockAt d u (32 * g / d.bextOf 0 :: d.blockIx idx)
  return (r, a + d.rowOffset (d.inBlock idx) + 32 * g % d.bextOf 0 / 32 * d.recordBytes)

/-- The runs of one element of an element array, or of one row: per block its elements and its scales; for a column of
a woven tensor, per group record its strand and its scale bytes. -/
def Eng.runs (d : Desc) (u : RunUse) (elem : Bool) (at' : List Nat × Nat) : Eng (List Run) := do
  if elem then
    let w := elemBits d.dtype / 8
    let (r, a) ← Eng.blockAt d u [at'.2 / d.bextOf 0]
    return [⟨r, a + at'.2 % d.bextOf 0 * w, w⟩]
  else
    let idx := at'.1
    let off := d.rowOffset (d.inBlock idx)
    if d.woven then
      let gs ← (List.range (ceilDiv (d.ext 0) 32)).mapM (fun g => do
        let (r, a) ← Eng.recordOf d u idx g
        let c := idx.getD 0 0 % 128
        return ⟨r, a + c / 8 * d.strandBytes, d.strandBytes⟩ ::
          (List.range d.strips).map (fun k => (⟨r, a + 16 * d.strandBytes + 128 * k + c, 1⟩ : Run)))
      return gs.flatten
    else
      let bs ← (List.range (d.blocksOn 0)).mapM (fun k => do
        let (r, a) ← Eng.blockAt d u (k :: d.blockIx idx)
        let n := d.lenOf k
        return ⟨r, a + off, d.dataBytes n⟩ ::
          (if isBlock d.dtype then [(⟨r, a + off + d.dataBytes (d.bextOf 0), d.blocks n⟩ : Run)] else []))
      return bs.flatten

/-- The number of runs of a source. -/
def Desc.runCount (d : Desc) (elem : Bool) : Nat :=
  if elem then 1
  else if d.woven then ceilDiv (d.ext 0) 32 * (1 + d.strips)
  else d.blocksOn 0 * (if isBlock d.dtype then 2 else 1)

/-- The cells of a 2:4 group whose K rows number `n`: what stands for K rows beyond them is zero (R203). -/
def cut24 (n : Nat) (cells : List Nat) : List Nat :=
  let qs := (List.range 8).map (fun q =>
    let k := n - 4 * q
    let pos := cells.getD (16 + q) 0
    if k == 0 then (0, 0, 4)
    else (if pos % 4 < k then cells.getD (2 * q) 0 else 0, if pos / 4 < k then cells.getD (2 * q + 1) 0 else 0, pos))
  qs.flatMap (fun q => [q.1, q.2.1]) ++ qs.map (fun q => q.2.2)

/-- The codes of a 2:4 group's 32 K rows, and whether a quad is malformed (R106, R107). -/
def expand24 (cells : List Nat) : List Nat × Bool :=
  let pos := fun q : Nat => cells.getD (16 + q) 0
  ((List.range 32).map (fun k =>
      let q := k / 4
      if pos q / 4 == k % 4 then cells.getD (2 * q + 1) 0 else if pos q % 4 == k % 4 then cells.getD (2 * q) 0 else 0),
    (List.range 8).any (fun q => pos q / 4 == pos q % 4))

/-- The cells of a 2:4 group from the codes of its 32 K rows, at most two of each quad not zero (R204). -/
def compress24 (codes : List Nat) : List Nat :=
  let qs := (List.range 8).map (fun q =>
    let at' := fun i : Nat => codes.getD (4 * q + i) 0
    let nz := (List.range 4).filter (fun i => at' i != 0)
    let two := (nz ++ (List.range 4).filter (fun i => !nz.contains i)).take 2
    let a := two.getD 0 0
    let b := two.getD 1 1
    (at' a, at' b, a + 4 * b))
  qs.flatMap (fun q => [q.1, q.2.1]) ++ qs.map (fun q => q.2.2)

/-- A row as the bytes of its runs spell it. A column of a 2:4 tensor keeps its values and positions apart. -/
def Desc.fromRuns (d : Desc) (elem : Bool) (idx : List Nat) (bs : List (List Byte × Bool)) : RowCodes :=
  let bad := bs.any (fun x => x.2)
  if elem then ⟨[leNat (bs.headD ([], false)).1], [], bad⟩
  else
    let per := if d.woven then 1 + d.strips else if isBlock d.dtype then 2 else 1
    let gs := chunks per (bs.length + 1) (bs.map (fun x => x.1))
    if d.woven then
      let codes := ((List.range gs.length).zip gs).flatMap (fun g =>
        let cells := (d.cells (idx.getD 0 0)).map (fun p => bitsOf (leNat (g.2.headD [])) (p.1 + p.2 - 1) p.1)
        if d.layout == 2 then cut24 (d.ext 0 - 32 * g.1) cells else cells)
      ⟨if d.layout == 2 then codes else codes.take (d.ext 0), gs.flatMap (fun g => (g.drop 1).map leNat), bad⟩
    else
      ⟨((List.range gs.length).zip gs).flatMap (fun p => unpack d.dtype (p.2.headD []) (d.lenOf p.1)),
       gs.flatMap (fun g => (g.drop 1).flatMap (fun b => b.map (fun x => x.toNat))), bad⟩

/-- A row of zeros: blocks of amax zero with scale byte 0x00 (Table 7-1). -/
def Desc.zeroRow (d : Desc) (elem : Bool) : RowCodes :=
  if elem then ⟨[0], [], false⟩
  else if d.layout == 2 then
    ⟨(List.range (ceilDiv (d.ext 0) 32)).flatMap (fun _ => d.zeroCells), [], false⟩
  else ⟨List.replicate (d.ext 0) 0, List.replicate (d.blocks (d.ext 0)) 0, false⟩

/-! ### Reading and writing runs -/

/-- Bytes moved to or from a remote owner (R218). -/
def Eng.countFar (n : Nat) : Eng Unit :=
  modify (fun e => { e with s := e.s.modCDie (Fin.ofNat 4 e.die) (fun x => { x with remoteCnt := (x.remoteCnt + n) % 2 ^ 64 }) })

/-- A packet of the command to another module of the job (R209). -/
def Eng.sendFar (rank : Nat) (p : Packet) : Eng Unit := do
  Eng.countFar p.length
  modify (fun e => { e with s := e.s.sendTo e.job rank copyChannel (2, e.fid) p })

/-- Bytes given to a run: written here, or sent in packets of at most one 256 B slot. A command that has met a fault
writes no more. -/
def Eng.put (d : Desc) (r : Run) (b : List Byte) (p : Bool) : Eng Unit := do
  if ← Eng.stopped then return
  let e ← get
  match r.rank with
  | none => Eng.wr r.addr b d.hint p
  | some k =>
    (pieces 256 (b.length + 1) r.addr b.length).forM (fun q =>
      Eng.sendFar k (dataPacket .write 0 q.1 p false (cmdId e.bytes) (cmdStep e.bytes) ((b.drop (q.1 - r.addr)).take q.2)))

/-- Bytes added at a run, in the format of the tensor. -/
def Eng.addRun (d : Desc) (r : Run) (b : List Byte) (p : Bool) : Eng Unit := do
  if ← Eng.stopped then return
  let e ← get
  let sr := Slot.srAdd e.bytes
  match r.rank with
  | none => Eng.add true r.addr d.dtype sr p d.hint (cmdId e.bytes) (cmdStep e.bytes) b
  | some k =>
    (pieces 256 (b.length + 1) r.addr b.length).forM (fun q =>
      Eng.sendFar k (dataPacket .add d.dtype q.1 p sr (cmdId e.bytes) (cmdStep e.bytes) ((b.drop (q.1 - r.addr)).take q.2)))

/-- The codes of one group put into a strand's bytes. -/
def Desc.strandWith (d : Desc) (c : Nat) (codes : List Nat) (old : List Byte) : List Byte :=
  ((d.cells c).zip codes).foldl (fun b x => spliceBits b x.1.1 x.1.2 x.2) old

/-- The cells of group `g` of a column of codes; those beyond EXT0 are zero (R203). -/
def Desc.cellsOf (d : Desc) (codes : List Nat) (g : Nat) : List Nat :=
  let n := (d.cells 0).length
  let l := (codes.drop (n * g)).take n
  l ++ d.zeroCells.drop l.length

/-- Columns of one strand of a woven tensor written, group record by group record, with their scales. -/
def Eng.putStrand (d : Desc) (rows : List HeldRow) : Eng Unit := do
  let row := rows.headD default
  let col := fun r : HeldRow => r.place.1.getD 0 0
  let rs ← Eng.runs d .write false row.place
  let per := 1 + d.strips
  ((List.range (ceilDiv (d.ext 0) 32)).zip (chunks per (rs.length + 1) rs)).forM (fun g => do
    let s := g.2.headD default
    match s.rank with
    | none => if !(← Eng.stopped) then
        rows.forM (fun r => ((d.cells (col r)).zip (d.cellsOf r.codes g.1)).forM (fun x =>
          Eng.wrBits s.addr x.1.1 x.1.2 x.2 d.hint row.poison))
    | some _ =>
      let o := row.old.getD (per * g.1) (List.replicate d.strandBytes 0, false)
      Eng.put d s (rows.foldl (fun b r => d.strandWith (col r) (d.cellsOf r.codes g.1) b) o.1) (row.poison || o.2)
    ((List.range d.strips).zip (g.2.drop 1)).forM (fun k => rows.forM (fun r =>
      Eng.put d { k.2 with addr := k.2.addr + (col r - col row) }
        [BitVec.ofNat 8 (r.scales.getD (g.1 * d.strips + k.1) 0)] row.poison)))

/-- A column of a woven tensor written; with the last column of the last panel, the columns beyond EXT1 as zeros, in its
own strand and in those after it (R203). -/
def Eng.putColumn (d : Desc) (row : HeldRow) : Eng Unit := do
  let c := row.place.1.getD 0 0
  let zero := fun k : Nat => { row with
    place := (k :: row.place.1.drop 1, 0)
    codes := (d.zeroRow false).codes
    scales := [] }
  let beyond := if c + 1 == d.ext 1 then rangeFrom (c + 1) (127 - c % 128) else []
  Eng.putStrand d (row :: (beyond.filter (fun k => k / 8 == c / 8)).map zero)
  (gathered (fun k => k / 8) (beyond.filter (fun k => k / 8 != c / 8))).forM (fun l => Eng.putStrand d (l.map zero))

/-- Whole group records of a panel written from all its columns (R203, R568): a unit is poisoned where a column that lies
in it is. -/
def Eng.putPanel (d : Desc) (rows : List HeldRow) : Eng Unit := do
  let outer := (rows.headD default).place.1
  let colAt := fun c : Nat => rows.find? (fun r => r.place.1.getD 0 0 % 128 == c)
  (List.range (ceilDiv (d.ext 0) 32)).forM (fun g => do
    let (rank, a) ← Eng.recordOf d .write outer g
    let strands := (List.range 16).flatMap (fun s => (List.range 8).foldl (fun b k =>
      let codes := match colAt (8 * s + k) with
        | some r => d.cellsOf r.codes g
        | none => d.zeroCells
      d.strandWith k codes b) (List.replicate d.strandBytes 0))
    let strips := (List.range d.strips).flatMap (fun k => (List.range 128).map (fun c =>
      BitVec.ofNat 8 (match colAt c with
        | some r => r.scales.getD (g * d.strips + k) 0
        | none => 0)))
    let bad := rows.filter (fun r => r.poison)
    let meets := fun (lo n : Nat) (q : Nat × Nat) => decide (a + lo < q.1 + q.2) && decide (q.1 < a + lo + n)
    let spoils := fun (q : Nat × Nat) => bad.any (fun r =>
      let c := r.place.1.getD 0 0 % 128
      meets (c / 8 * d.strandBytes) d.strandBytes q ||
      (List.range d.strips).any (fun k => meets (16 * d.strandBytes + 128 * k + c) 1 q))
    let img := strands ++ strips
    (pieces 64 (img.length + 1) a img.length).forM (fun q =>
      Eng.put d ⟨rank, q.1, 0⟩ ((img.drop (q.1 - a)).take q.2) (spoils q)))

/-- The panels that columns stand in, each with its columns, a later one in place of an earlier (R231). -/
def panelsOf (rows : List HeldRow) : List (List HeldRow) :=
  let key := fun r : HeldRow => (r.place.1.getD 0 0 / 128, r.place.1.drop 1)
  ((rows.map key).eraseDups).map (fun k => rows.reverse.filter (fun r => key r == k))

/-- Columns of a woven tensor written: whole records where a panel's every column is there. -/
def Eng.putColumns (d : Desc) (rows : List HeldRow) : Eng Unit :=
  (panelsOf rows).forM (fun p =>
    let c := (p.headD default).place.1.getD 0 0
    if (p.map (fun r => r.place.1.getD 0 0)).eraseDups.length == min 128 (d.ext 1 - c / 128 * 128) then Eng.putPanel d p
    else p.reverse.forM (Eng.putColumn d))

/-- A row-major row or an element written to its destination (R195, R208, R222). -/
def Eng.putRow (d : Desc) (elem : Bool) (row : HeldRow) : Eng Unit := do
  if elem then
    let rs ← Eng.runs d .write true row.place
    rs.forM (fun r => Eng.put d r (leBytes r.n (row.codes.headD 0)) row.poison)
  else
    let off := d.rowOffset (d.inBlock row.place.1)
    let b0 := d.bextOf 0
    (List.range (d.blocksOn 0)).forM (fun k => do
      let (r, a) ← Eng.blockAt d .write (k :: d.blockIx row.place.1)
      let n := d.lenOf k
      let codes := (row.codes.drop (k * b0)).take n
      let scales := if isBlock d.dtype then (row.scales.drop (k * (b0 / blockSize d.dtype))).take (d.blocks n) else []
      if n == b0 then Eng.put d ⟨r, a + off, 0⟩ (rowImage d n codes scales) row.poison
      else
        let img := rowImage d n codes scales
        Eng.put d ⟨r, a + off, 0⟩ (img.take (d.dataBytes n)) row.poison
        Eng.put d ⟨r, a + off + d.dataBytes b0, 0⟩ (scales.map (fun s => BitVec.ofNat 8 s)) row.poison)

/-- Rows or elements written to their destinations. -/
def Eng.putRows (d : Desc) (elem : Bool) (rows : List HeldRow) : Eng Unit :=
  if d.woven && !elem then Eng.putColumns d rows else rows.forM (Eng.putRow d elem)

/-- An integer of `n` bits times a weight, rounded to the nearest integer, ties to even, modulo 2^n; a free value where
the weight is infinite or NaN (R223; log 56). -/
def intTimes (n code : Nat) (w : Word) (free : Nat) : Nat :=
  let neg := code.testBit (n - 1)
  let m := if neg then 2 ^ n - code % 2 ^ n else code % 2 ^ n
  match dec32 w with
  | .fin s k e =>
    let num := m * k * pow2num e
    let den := pow2den e
    let q := num / den
    let r := 2 * (num % den)
    let v := if den < r || (r == den && q % 2 == 1) then q + 1 else q
    (if s != neg then 2 ^ n - v % 2 ^ n else v) % 2 ^ n
  | _ => free % 2 ^ n

/-- An element times its weight (R223). -/
def weighted (c code : Nat) (w : Word) (free : Nat) : Nat :=
  if c == dtBf16 then toBf16 (mul32 (ofBf16 code) w)
  else if c == dtFp32 then (mul32 (BitVec.ofNat 32 code) w).toNat
  else intTimes (elemBits c) code w free

/-- A row or an element added into its destination (R220, R223). -/
def Eng.addRow (d : Desc) (elem : Bool) (at' : List Nat × Nat) (row : RowCodes) : Eng Unit := do
  let rs ← Eng.runs d .add elem at'
  let w := elemBits d.dtype / 8
  ((List.range rs.length).zip rs).forM (fun r =>
    let codes := if elem then row.codes else (row.codes.drop (r.1 * d.bextOf 0)).take (r.2.n / w)
    Eng.addRun d r.2 (packElems d.dtype codes) row.poison)

/-! ### Moves -/

/-- What the items of a copy command move between: the operands as its step uses them, whether they are single elements,
whether they add, and whether their rows pass through the quantiser. -/
structure CopyCmd where
  x : Scaled
  o : Scaled
  elem : Bool
  add : Bool
  value : Bool
deriving Repr, Inhabited

def CopyCmd.s (c : CopyCmd) : Desc := c.x.d
def CopyCmd.d (c : CopyCmd) : Desc := c.o.d

/-- Whether an indexed command moves single elements (R222). -/
def elemForm (op : Nat) (s : Desc) : Bool := 0x32 ≤ op && op ≤ 0x36 && s.ndim == 1 && addFormat s.dtype

/-- Whether rows must pass through the quantiser (R54, R168, R169, R175): their types differ, either side keeps scales
of its own, or the output stores a rotation the source has not. Integers, and rows that are added, keep their codes
(log 128). -/
def valuePath (s d : Desc) : Bool :=
  !isInt s.dtype && (s.dtype != d.dtype || s.smode != 0 || d.smode != 0 || (d.rot == 1 && s.rot != 1))

def copyCmd (op : Nat) (x o : Scaled) : CopyCmd :=
  let elem := elemForm op x.d
  let add := op == 0x34 || op == 0x35
  ⟨x, o, elem, add, !elem && !add && valuePath x.d o.d⟩

/-- Whether a command writes its rows in groups: scale blocks and woven panels whole. -/
def CopyCmd.groups (c : CopyCmd) : Bool := !c.elem && !c.add && ((c.value && c.o.banded) || c.d.woven)

/-- Moves in the order they run, the last of each group marked. -/
def CopyCmd.marked (c : CopyCmd) (ms : List Move) : List Move :=
  let gs := if c.groups then gathered (fun m => c.d.bandOf (m.dsts.headD ([], 0)).1) ms else ms.map (fun m => [m])
  gs.flatMap (fun g => ((List.range g.length).zip g).map (fun p => { p.2 with ends := p.1 + 1 == g.length }))

/-- The runs an item reads: those of its source, then the strands of remote woven records it writes a part of. -/
def Eng.moveRuns (c : CopyCmd) (m : Move) : Eng (List Run) := do
  let src ← match m.src with
    | some a => Eng.runs c.s .read c.elem a
    | none => pure []
  if c.d.woven && c.d.owner && !c.elem then
    let old ← m.dsts.mapM (fun a => Eng.runs c.d .write false a)
    return src ++ old.flatten
  else return src

/-- A row's values, where the command quantises (R45): a column of a 2:4 tensor as its K rows. -/
def Eng.moveValues (c : CopyCmd) (m : Move) (row : RowCodes) : Eng (List Word × Bool) := do
  match m.src with
  | none => return (List.replicate (c.d.ext 0) 0, false)
  | some a =>
    let (codes, bad) := if c.s.layout == 2 then
        let gs := (chunks 24 (row.codes.length + 1) row.codes).map expand24
        ((gs.flatMap (fun g => g.1)).take (c.s.ext 0), gs.any (fun g => g.2))
      else (row.codes, false)
    Eng.failIf bad 0x20
    let (g, gp) ← Eng.factors c.s a.1 0 (c.s.ext 0)
    let (t, tp) ← Eng.rowT c.x a.1
    return (c.x.values { row with codes := codes } t g, gp || tp)

/-- What an item has read, as rows for its destinations. -/
def Eng.readMove (c : CopyCmd) (m : Move) (bs : List (List Byte × Bool)) : Eng (List HeldRow) := do
  let ns := if m.src.isSome then c.s.runCount c.elem else 0
  let row := match m.src with
    | some a => c.s.fromRuns c.elem a.1 (bs.take ns)
    | none => { c.d.zeroRow c.elem with poison := m.bad }
  let row ← match m.weight with
    | none => pure row
    | some (a, h) => do
      let (w, p) ← Eng.rd a 4 h
      let codes ← row.codes.mapM (fun k => do return weighted c.s.dtype k (BitVec.ofNat 32 (leNat w)) (← Eng.free))
      pure { row with codes := codes, poison := row.poison || p }
  let (xs, p) ← if c.value then Eng.moveValues c m row else pure ([], false)
  Eng.settle
  let per := if c.d.woven && c.d.owner && !c.elem then c.d.runCount false else 0
  return ((List.range m.dsts.length).zip m.dsts).map (fun t =>
    ⟨t.2, row.codes, row.scales, xs, row.poison || p, (bs.drop (ns + per * t.1)).take per⟩)

/-- The cells of a 2:4 column from the codes of its K rows. -/
def Desc.woven24 (d : Desc) (row : HeldRow) : HeldRow :=
  if d.layout == 2 then { row with codes := (chunks 32 (row.codes.length + 1) row.codes).flatMap compress24 } else row

/-- A group of rows written, through the quantiser where the command has values, and their poison consumed. -/
def Eng.putGroup (c : CopyCmd) (rows : List HeldRow) : Eng Unit := do
  if c.value then
    let e ← get
    let parts := rows.map (fun r =>
      ({ idx := r.place.1, i0 := 0, xs := r.xs, amax := amaxOf r.xs, poison := r.poison } : RowPart))
    let rnd : Rnd := if Slot.gradOut e.bytes && isBlock c.d.dtype then .sr else .rne
    let old := fun r : HeldRow => { r with old := ((rows.find? (fun x => x.place.1 == r.place.1)).map (fun x => x.old)).getD [] : HeldRow }
    let w : Writer := { Writer.of c.o rnd e.bytes e.die with
      stored := c.s.rot == 1
      put := fun l => Eng.putRows c.d false (l.map (fun r => c.d.woven24 (old r))) }
    let _ ← Eng.writeParts w parts
  else Eng.putRows c.d c.elem rows
  Eng.consume (rows.any (fun r => r.poison))

/-- An item moved, from the bytes of its runs: added at once, or held until its group is whole. -/
def Eng.moveFinish (c : CopyCmd) (m : Move) (bs : List (List Byte × Bool)) : Eng Unit := do
  let rows ← Eng.readMove c m bs
  if c.add then
    rows.forM (fun r => Eng.addRow c.d c.elem r.place ⟨r.codes, r.scales, r.poison⟩)
    Eng.consume (rows.any (fun r => r.poison))
  else
    modify (fun e => { e with held := e.held ++ rows })
    if m.ends then
      let l := (← get).held
      modify (fun e => { e with held := [] })
      Eng.putGroup c l

/-- A read of another module's bytes (R394): READ_RSP brings the rest of a 256 B slot. -/
def Eng.request (rank a n : Nat) (first : Bool) : Eng FarRead := do
  let e ← get
  let q := (e.s.ctx e.job).nextReq
  Eng.onState (fun s => s.modCtx e.job (fun c => { c with nextReq := q + 1 }))
  Eng.sendFar rank { (default : Packet) with kind := .readReq, addr := a, tag := cmdId e.bytes, step := cmdStep e.bytes }
  return ⟨some rank, a, n, first, q, none⟩

/-- The bytes of an item's runs: local ones read now, remote ones requested. -/
def Eng.fetchRuns (c : CopyCmd) (rs : List Run) : Eng (List FarRead) := do
  let l ← rs.mapM (fun r =>
    match r.rank with
    | none => do
      let x ← Eng.rd r.addr r.n c.s.hint
      return [(⟨none, r.addr, r.n, true, 0, some x⟩ : FarRead)]
    | some k => (pieces 256 (r.n + 1) r.addr r.n).mapM (fun q => Eng.request k q.1 q.2 (q.1 == r.addr)))
  return l.flatten

/-- Items moved one after the other, then the fault of a bad index, if any; at the first that needs remote bytes the
share waits for them. Before a bad index, only items that need none are moved: R228 leaves the others open (log 129). -/
def Eng.moves (c : CopyCmd) (fault : Option Nat) : List Move → Eng Unit
  | [] => match fault with
    | some cause => Eng.fail cause
    | none => pure ()
  | m :: ms => do
    if ← Eng.stopped then return
    let rs ← Eng.moveRuns c m
    if ← Eng.stopped then return
    if rs.all (fun r => r.rank.isNone) then
      let bs ← rs.mapM (fun r => Eng.rd r.addr r.n c.s.hint)
      Eng.moveFinish c m bs
      Eng.moves c fault ms
    else if fault.isSome then Eng.moves c fault ms
    else
      let reads ← Eng.fetchRuns c rs
      Eng.settle
      modify (fun e => { e with
        s := { e.s with far := e.s.far ++ [⟨e.job.val, e.fid, e.die, m :: ms, reads, e.held, ⟨0, e.gen.state, e.gen.left⟩, e.owners⟩] }
        held := [] })

/-- The items of a share moved, group by group. -/
def Eng.moveAll (c : CopyCmd) (fault : Option Nat) (ms : List Move) : Eng Unit := Eng.moves c fault (c.marked ms)

/-- The runs that pieces make up again. -/
def joinReads : List FarRead → List (List Byte × Bool)
  | [] => []
  | r :: rs =>
    let x := r.got.getD ([], false)
    match rs, joinReads rs with
    | q :: _, y :: ys => if q.first then x :: y :: ys else (x.1 ++ y.1, x.2 || y.2) :: ys
    | _, ys => x :: ys

/-- The oldest request to a rank that has no answer yet. -/
def oldestRequest (far : List FarRun) (job rank : Nat) : Option Nat :=
  ((far.filter (fun r => r.job == job)).flatMap (fun r =>
    (r.reads.filter (fun x => x.rank == some rank && x.got.isNone)).map (fun x => x.req))).min?

/-- Parts of scale records gathered after a command's start join those of its flight (R169). -/
def Queue.joinAmax (q : Queue) (fid : Nat) (l : List AmaxPart) : Queue :=
  { q with inflight := q.inflight.map (fun f =>
      if f.fid == fid then { f with amax := l.foldl (fun a p => mergeAmax a p.record p.die p.amax) f.amax } else f) }

/-- A share whose bytes have all arrived goes on; when the command's last one has, its wait goes to REMOTE (R209, Table
9-3): no change while a stack keeps it waiting. -/
def State.farGo (s : State) (j : JobIx) (r : FarRun) : Option State :=
  match s.flight j 2 r.fid with
  | none => some { s with far := s.far.filter (fun x => x != r) }
  | some f =>
    let c := copyCmd (opcodeOf f.bytes) ((f.ops.getD 0 none).getD default) ((f.ops.getD 1 none).getD default)
    match r.todo with
    | [] => some { s with far := s.far.filter (fun x => x != r) }
    | m :: ms =>
      let v : Env := { envOf { s with far := s.far.filter (fun x => x != r) } j f.bytes f.fid with
        die := r.die
        gen := ⟨r.gen.state, r.gen.left⟩
        owners := r.owners
        held := r.held }
      let (_, v) := (do Eng.moveFinish c m (joinReads r.reads); Eng.moves c none ms : Eng Unit).run v
      if v.waits then none
      else match v.stop with
        | some cause => some (v.s.jobFault j (dieFault 2 cause r.die 4 (s.free % 16) f.bytes))
        | none =>
          let ended := v.s.far.all (fun x => !(x.job == r.job && x.fid == r.fid))
          some (v.s.modQ j 2 (fun q =>
            (q.joinAmax r.fid v.amax).accrue f.list 2 (if ended then 44 * (v.s.tick - f.startTick) else 0)))

/-- The answer to a request put in its place. -/
def FarRun.answer (r : FarRun) (job : Nat) (hit : FarRead → Bool) (data : List Byte) (poison : Nat) : FarRun :=
  if r.job == job then
    { r with reads := r.reads.map (fun x => if hit x then { x with
      got := some (data.take x.n, (List.range ((x.n + 63) / 64)).any (fun u => poison.testBit u)) } else x) }
  else r

/-- Payload of a READ_RSP handed to the copy engine with the poison bits of its units; none while it has to wait. -/
def State.farArrived (s : State) (j : JobIx) (rank : Nat) (data : List Byte) (poison : Nat) : Option State :=
  match oldestRequest s.far j.val rank with
  | none => some s
  | some q =>
    let hit := fun x : FarRead => x.rank == some rank && x.req == q && x.got.isNone
    let far := s.far.map (fun (r : FarRun) => r.answer j.val hit data poison)
    let s := { s with far := far }
    match far.find? (fun (r : FarRun) => r.job == j.val && r.reads.all (fun x => x.got.isSome)) with
    | none => some s
    | some r =>
      let n := ((r.reads.filter (fun x => x.rank.isSome)).map (fun x => x.n)).foldl (· + ·) 0
      (s.modCDie (Fin.ofNat 4 r.die) (fun x => { x with remoteCnt := (x.remoteCnt + n) % 2 ^ 64 })).farGo j r

/-! ### Decoding copy commands -/

def copyUse : Use := ⟨dtypeKnown, false, false, true, true⟩
def copyOut : Use := ⟨dtypeKnown, true, false, true, true⟩
def indexCode (c : Nat) : Bool := c == dtInt32 || c == dtInt64
def indexUse : Use := Use.input indexCode
def areaUse : Use := Use.output (· == dtU8)

def cpyUnits (d : CDie) : List Nat := (List.range 16).filter (fun i => d.cps[Fin.ofNat 16 i].state == .inService)

def CDie.wakeCpy (d : CDie) : CDie := { d with cpyAwake := true }

/-- A command that runs on one C-die names at most one (R254). -/
def oneDie (b : List Byte) : List (Nat × Nat) :=
  rank10 (1 < ((List.range 4).filter (fun i => (Slot.dieMask b).testBit i)).length) 3

/-- A count word's address (R258) and range. -/
def countFaults (c : Ctx) (a : Nat) (write : Bool) : List (Nat × Nat) :=
  rank10 (a % 4 != 0) 3 ++
  (if a % 4 == 0 && !(c.regionOf a 4).any (fun r => r.write || !write) then [(9, 0x0A)] else [])

/-- A copy command that every share has run. -/
def copyDone (b : List Byte) (ops : List Scaled) (board : Option (Nat × Nat)) (go : Env × Option FaultAt) : Begin :=
  if go.1.waits then .stays
  else match go.2 with
    | some x => .faults go.1.s x
    | none => .starts go.1.s { amax := go.1.amax, ops := ops.map some, dies := go.1.dies, board := (if opcodeOf b == 0x37 then board else none) }

/-- The dies a copy command runs on, or none while it cannot start (R305). -/
def State.copyDies (s : State) (j : JobIx) (b : List Byte) : Option (List CIx) :=
  let dies := s.diesOf j 2 b
  if dies == [] || s.overtaken j 2 dies then none else some dies

/-! ### COPY -/

def firstDie (dies : List CIx) : CIx := dies.headD 0

def sameOuter (s d : Desc) : Bool := (List.range 5).all (fun k => s.ext (k + 1) == d.ext (k + 1))

/-- A COPY's shape: equal EXT0 and outer extents or row counts; no conversion to or from a 2:4 form, or of integers.
DESIGN CHOICE (log 41). -/
def copyChecks (s d : Desc) : List (Nat × Nat) :=
  rank10 (s.ext 0 != d.ext 0 || !(sameOuter s d || s.rows == d.rows) ||
    (s.dtype != d.dtype && (isInt s.dtype || isInt d.dtype)) ||
    (s.layout != d.layout && (s.layout == 2 || d.layout == 2))) 3

/-- The source row of output row `idx`. -/
def copySource (s d : Desc) (idx : List Nat) (r : Nat) : List Nat := if sameOuter s d then idx else s.coords r

def footprint (d : Desc) : Nat × Nat := (d.base, d.base + d.span)

def rangesMeet (a b : Nat × Nat) : Bool := decide (a.1 < b.2) && decide (b.1 < a.2)

/-- Whether two descriptors differ in nothing but BASE (R215). -/
def Desc.onlyBase (s d : Desc) : Bool := { s with addr := d.addr, base := d.base } == d

/-- How an overlapping COPY is treated (R215, R216). -/
inductive Overlap where
  | no | direction | staged | rejected
deriving DecidableEq, Repr

def overlapOf (c : Ctx) (s d : Desc) (st : Option Desc) (die : CIx) : Overlap :=
  if s.owner || d.owner || s.empty || d.empty || !rangesMeet (footprint s) (footprint d) then .no
  else if s.onlyBase d then .direction
  else if 64 * 2 ^ 20 < s.span then .rejected
  else match st with
    | none => .rejected
    | some a =>
      let area := (a.base, a.base + a.ext 0)
      if a.ext 0 < s.span || rangesMeet area (footprint s) || rangesMeet area (footprint d) ||
          !(c.regionOf a.base (a.ext 0)).any (fun r => r.kind == 2 && r.die == die.val) then .rejected
      else .staged

/-- The source read whole into the staging area, with its poison (R215, R216). -/
def Eng.stage (s a : Desc) : Eng Unit :=
  (pieces 64 (s.span + 1) s.base s.span).forM (fun q => do
    let (b, p) ← Eng.rd q.1 q.2 s.hint
    Eng.wr (a.base + (q.1 - s.base)) b .stream p)

/-- The moves of a COPY of whole rows. -/
def copyMoves (s d : Desc) : List Move :=
  (List.range d.rows).map (fun r => ⟨some (copySource s d (d.coords r) r, 0), [(d.coords r, 0)], none, false, true⟩)

/-- The operands a COPY names: source, destination, staging area. -/
def copyUses (b : List Byte) : List (Nat × Use) := [(Slot.d b 0, copyUse), (Slot.d b 1, copyOut), (Slot.d b 2, areaUse)]

/-- A COPY's own checks. -/
def copyOwn (src dst : Desc) (area : Option Desc) : List (Nat × Nat) :=
  rank10 (area.any (fun a => a.ndim != 1)) 3 ++ copyChecks src dst

/-- What a COPY reads before its rows move (R215, R216): the source into its staging area, or all of an overlapping
source. -/
def Eng.copyPrep (b : List Byte) (row : Bool) (ov : Overlap) (src dst : Desc) (area : Option Desc) :
    Eng (CopyCmd × List HeldRow) := do
  if ov == .staged then Eng.stage src (area.getD default)
  let src := if ov == .staged then { src with base := (area.getD default).base, hintCode := 0 } else src
  let x ← Eng.scaledBy src row (cmdStep b)
  let o ← Eng.scaledBy dst row (cmdStep b)
  let c := copyCmd 0x30 x o
  let snap ← if ov == .direction then (copyMoves src dst).mapM (fun m => do
      let bs ← (← Eng.moveRuns c m).mapM (fun r => Eng.rd r.addr r.n src.hint)
      Eng.readMove c m bs)
    else pure []
  return (c, snap.flatten)

/-- The rows of a COPY moved, one share per C-die. -/
def copyRun (ov : Overlap) (cc : CopyCmd) (snap : List HeldRow) (dst : Desc) (dies : List CIx) (v : Env) :
    Env × Option FaultAt :=
  if ov == .direction then
    runWhole 2 4 cpyUnits (if cc.groups then gathered (fun r => dst.bandOf r.place.1) snap else snap.map (fun r => [r]))
      (fun _ l => Eng.items l (Eng.putGroup cc)) (fun _ d => d.wakeCpy) dies v
  else
    let ms := copyMoves cc.s dst
    runWhole 2 4 cpyUnits (if cc.o.banded then gathered (fun m => dst.bandOf (m.dsts.headD default).1) ms else ms.map (fun m => [m]))
      (fun _ l => Eng.moveAll cc none l.flatten) (fun _ d => d.wakeCpy) dies v

/-- The lease of a staging area, and the count of a staged COPY (R216, R217, R436). -/
def Env.staged (v : Env) (ov : Overlap) (die : CIx) (src : Desc) (area : Option Desc) : Env :=
  if ov == .staged then
    let s := v.s.grant 1 v.job.val (unitId 1 die.val 2 0) v.fid (area.getD default).base src.span
    { v with s := s.countXform die 23 16 }
  else v

/-- A COPY decoded, staged where it must be, and run. -/
def State.copy (j : JobIx) (s : State) (b : List Byte) (fid : Nat) : Begin :=
  let c := s.ctx j
  match s.copyDies j b with
  | none => .stays
  | some dies =>
    let die := firstDie dies
    let ((ds, fs), v) := (Eng.operands c (copyUses b)).run (envOf s j b fid)
    let src := (ds.getD 0 none).getD default
    let dst := (ds.getD 1 none).getD default
    let area := ds.getD 2 none
    settleDecode 2 b die.val v (fs ++ copyOwn src dst area ++ stepFault c b) (fun s =>
      let ov := overlapOf c src dst area die
      if ov == .rejected then .rejects (s.countXform die 31 24) 0x0B
      else if ov == .staged && oneDie b != [] then .rejects s 3
      else
        let (row, s) := s.fixRow j (cmdStep b)
        if dst.empty then .done s
        else
          let ((cc, snap), v) := (Eng.copyPrep b row ov src dst area).run (envOf s j b fid)
          settleDecode 2 b die.val (v.staged ov die src area) [] (fun s =>
            copyDone b [cc.x, cc.o] none (copyRun ov cc snap dst dies (envOf s j b fid))))

/-- COPY (R215, R216). -/
def execCopy (j : JobIx) (s : State) : Host.Outcome State Fault Refusal := .next (s.runSlot j 2 0x30 (State.copy j))

/-! ### WINDOW -/

/-- A spatial dimension of a window copy (R212). -/
structure Spatial where
  dim : Nat
  k : Nat
  st : Nat
  dl : Nat
  pad : Nat
deriving DecidableEq, Repr, Inhabited

def spatialOf (imm i : Nat) : Spatial :=
  let f := fun hi lo => bitsOf imm (19 * i + hi) (19 * i + lo)
  ⟨f 3 1, f 7 4 + 1, f 11 8 + 1, f 15 12 + 1, f 19 16⟩

def spatials (b : List Byte) : List Spatial :=
  let imm := Slot.imm b
  if imm.testBit 0 then [spatialOf imm 0, spatialOf imm 1] else [spatialOf imm 0]

/-- The input dimensions that are not spatial, in order. -/
def plainDims (i : Desc) (sp : List Spatial) : List Nat :=
  (rangeFrom 1 (i.ndim - 1)).filter (fun k => !sp.any (fun x => x.dim == k))

/-- The checks of R212 and R214. -/
def windowChecks (i o : Desc) (sp : List Spatial) (d : CDie) : List (Nat × Nat) :=
  let n := sp.length
  let rest := plainDims i sp
  rank10 (i.owner || o.owner || i.layout != 0 || o.layout != 0 || i.dtype != o.dtype || i.sloc != o.sloc ||
    (d.cps[0].state == .fenced && d.cps[1].state == .fenced) || sp.any (fun x => x.dim == 0 || i.ndim ≤ x.dim) ||
    !(sp.map (fun x => x.dim)).Nodup || 6 < 1 + 2 * n + rest.length) 0x0D ++
  rank10 (o.ndim != 1 + 2 * n + rest.length || o.ext 0 != i.ext 0 ||
    ((List.range n).zip sp).any (fun x => o.ext (1 + x.1) != x.2.k) ||
    ((List.range rest.length).zip rest).any (fun x => o.ext (1 + 2 * n + x.1) != i.ext x.2)) 3

/-- The input row of an output row, none where it lies outside (R213). -/
def windowSource (i : Desc) (sp : List Spatial) (idx : List Nat) : Option (List Nat) :=
  let n := sp.length
  let rest := plainDims i sp
  let pos := ((List.range n).zip sp).map (fun x =>
    (x.2.dim, ((idx.getD (n + x.1) 0 * x.2.st + idx.getD x.1 0 * x.2.dl : Nat) : Int) - x.2.pad))
  if pos.any (fun p => decide (p.2 < 0) || decide ((i.ext p.1 : Int) ≤ p.2)) then none
  else some ((List.range 5).map (fun k =>
    match pos.find? (fun p => p.1 == k + 1) with
    | some p => p.2.toNat
    | none =>
      match rest.findIdx? (fun r => r == k + 1) with
      | some q => idx.getD (2 * n + q) 0
      | none => 0))

def windowUnits (d : CDie) : List Nat := (cpyUnits d).filter (fun i => i < 2)

/-- The operands a WINDOW names. -/
def windowUses (b : List Byte) : List (Nat × Use) := [(Slot.d b 0, copyUse), (Slot.d b 1, copyOut)]

/-- Two tensors as a step reads them. -/
def Eng.scaledPair (b : List Byte) (row : Bool) (x y : Desc) : Eng (Scaled × Scaled) := do
  return (← Eng.scaledBy x row (cmdStep b), ← Eng.scaledBy y row (cmdStep b))

/-- The rows of a WINDOW moved (R213). -/
def windowRun (b : List Byte) (x y : Scaled) (die : CIx) (v : Env) : Env × Option FaultAt :=
  let ms := (List.range y.d.rows).map (fun r =>
    (⟨(windowSource x.d (spatials b) (y.d.coords r)).map (fun i => (i, 0)), [(y.d.coords r, 0)], none, false, true⟩ : Move))
  runWhole 2 4 windowUnits ms (fun _ l => Eng.moveAll (copyCmd 0x31 x y) none l) (fun _ d => d.wakeCpy) [die] v

/-- A window copy decoded and run. It names no staging area, so one whose footprints overlap is rejected (R215, R216;
log 131). A copy is counted when it completes (R217). -/
def State.window (j : JobIx) (s : State) (b : List Byte) (fid : Nat) : Begin :=
  let c := s.ctx j
  match s.copyDies j b with
  | none => .stays
  | some dies =>
    let die := firstDie dies
    let ((ds, fs), v) := (Eng.operands c (windowUses b)).run (envOf s j b fid)
    let i := (ds.getD 0 none).getD default
    let o := (ds.getD 1 none).getD default
    settleDecode 2 b die.val v (fs ++ oneDie b ++ windowChecks i o (spatials b) s.cdies[die] ++ stepFault c b) (fun s =>
      if !i.empty && !o.empty && rangesMeet (footprint i) (footprint o) then .rejects (s.countXform die 31 24) 0x0B
      else
        let (row, s) := s.fixRow j (cmdStep b)
        if o.empty then .done (s.countXform die 15 0)
        else if windowUnits s.cdies[die] == [] then .stays
        else
          let ((x, y), v) := (Eng.scaledPair b row i o).run (envOf s j b fid)
          settleDecode 2 b die.val v [] (fun s => copyDone b [x, y] none (windowRun b x y die (envOf s j b fid))))

/-- WINDOW (R212 to R214). -/
def execWindow (j : JobIx) (s : State) : Host.Outcome State Fault Refusal := .next (s.runSlot j 2 0x31 (State.window j))

/-! ### Indexed moves -/

/-- What an index names (R225, R227). -/
inductive Index where
  | row (i : Nat)
  | zero
  | fault
deriving DecidableEq, Repr

/-- An index against an extent (Table 7-1). -/
def resolve (mode e : Nat) (v : Int) : Index :=
  if 0 ≤ v ∧ v < e then .row v.toNat
  else if mode == 0 then .zero
  else if mode == 1 && e != 0 then .row (v % (e : Int)).toNat
  else .fault

/-- A signed integer of `w` bytes. -/
def signed (w n : Nat) : Int := if 2 ^ (8 * w - 1) ≤ n then (n : Int) - 2 ^ (8 * w) else n

/-- Entry `p` of an integer array, with its poison. -/
def Eng.entryAt (ix : Desc) (p : Nat) : Eng (Int × Bool) := do
  let w := elemBits ix.dtype / 8
  let (b, q) ← Eng.rd (ix.base + w * p) w ix.hint
  return (signed w (leNat b), q)

/-- The mask bit and the count of an entry (R226, R248). -/
def Eng.markEntry (ix : Desc) (p : Nat) (zeroed counted : Bool) : Eng Unit := do
  if ix.maskAt != 0 then Eng.wrBits ix.maskAt p 1 (if zeroed then 1 else 0) .stream false
  let e ← get
  if zeroed && counted then
    Eng.onState (fun s => s.modCDie (Fin.ofNat 4 e.die) (fun d => { d with
      ctxs := upd d.ctxs e.job (fun x => { x with zeroed := x.zeroed.bump 31 0 1 }) }))

/-- An index read, resolved and marked: none = bad and zeroed; poison and INDEX faults stop it. The slot −1 of a
SCATTER_ADD is dropped without being counted again (R244, log 43). -/
def Eng.indexAt (slots : Bool) (ix : Desc) (e p : Nat) : Eng (Option Nat × Option Nat) := do
  let (v, bad) ← Eng.entryAt ix p
  if bad then return (none, some 0x29)
  match resolve ix.imode e v with
  | .row i => do Eng.markEntry ix p false false; return (some i, none)
  | .zero => do Eng.markEntry ix p true (!(slots && v == -1)); return (none, none)
  | .fault => return (none, some 0x24)

/-- An indexed command once decoded. -/
structure Indexed where
  op : Nat
  c : CopyCmd
  ix : Desc
  e : Nat
  w : Option Desc
  /-- The destination of each entry of a command that names row pointers. -/
  rows : Option (List Nat)
deriving Repr, Inhabited

/-- The size of a side: elements of an element array, else distinct rows (R220). -/
def CopyCmd.size (c : CopyCmd) (d : Desc) : Nat := if c.elem then d.ext 0 else d.distinct

/-- Row or element number `r` of a side. -/
def CopyCmd.place (c : CopyCmd) (d : Desc) (r : Nat) : List Nat × Nat := if c.elem then ([], r) else (d.coordsDistinct r, 0)

def Indexed.gathers (x : Indexed) : Bool := x.op == 0x32 || x.op == 0x36

/-- The move of entry `p`, and the fault that ends the command there (R220, R225, R228). -/
def Eng.entryMove (x : Indexed) (p : Nat) : Eng (List Move × Option Nat) := do
  let w := x.w.map (fun d => (d.base + 4 * p, d.hint))
  match x.rows with
  | some rows => return ([⟨some (x.c.place x.c.s p), [x.c.place x.c.d (rows.getD p 0)], w, false, true⟩], none)
  | none =>
    let (i, f) ← Eng.indexAt (x.op == 0x34) x.ix x.e p
    if x.gathers then
      match i, f with
      | some i, _ => return ([⟨some (x.c.place x.c.s i), [x.c.place x.c.d p], none, false, true⟩], f)
      | none, some 0x29 => return ([⟨none, [x.c.place x.c.d p], none, true, true⟩], f)
      | none, none => return ([⟨none, [x.c.place x.c.d p], none, false, true⟩], f)
      | none, f => return ([], f)
    else
      match i with
      | some i => return ([⟨some (x.c.place x.c.s p), [x.c.place x.c.d i], w, false, true⟩], f)
      | none => return ([], f)

/-- The moves of a share's entries, each with its window, up to the one that faults. -/
def Eng.entryMoves (x : Indexed) : List Nat → Eng (List (Nat × Move) × Option Nat)
  | [] => pure ([], none)
  | p :: ps => do
    if ← Eng.stopped then return ([], none)
    let (m, f) ← Eng.entryMove x p
    if f.isSome then return (m.map (fun y => (p / 64, y)), f)
    else
      let (ms, f) ← Eng.entryMoves x ps
      return (m.map (fun y => (p / 64, y)) ++ ms, f)

/-- Duplicates of a window reuse the first one's row (R229): the moves, and the reads saved. Rows that the command writes
in one group stay in it. -/
def coalesce (group : Move → Nat) (ms : List (Nat × Move)) : List (Nat × Move) × Nat :=
  let same := fun y m : Nat × Move => y.1 == m.1 && y.2.src == m.2.src && group y.2 == group m.2
  ms.foldl (fun (r : List (Nat × Move) × Nat) m =>
    if m.2.src.isSome && r.1.any (fun y => same y m) then
      (r.1.map (fun y => if same y m then (y.1, { y.2 with dsts := y.2.dsts ++ m.2.dsts }) else y), r.2 + 1)
    else (r.1 ++ [m], r.2)) ([], 0)

/-- A share of an indexed command. -/
def Eng.indexedShare (x : Indexed) (ps : List Nat) : Eng Unit := do
  let (ms, f) ← Eng.entryMoves x ps
  let group := fun m : Move => if x.c.groups then x.c.d.bandOf (m.dsts.headD ([], 0)).1 else 0
  let (ms, saved) := if x.op == 0x32 then coalesce group ms else (ms, 0)
  modify (fun e => { e with s := e.s.modCDie (Fin.ofNat 4 e.die) (fun d => { d with
    coalesceCnt := (d.coalesceCnt + saved) % 2 ^ 64 }) })
  Eng.moveAll x.c f (ms.map (fun m => m.2))

/-- A command's own checks on its sides and its index (R221 to R223). -/
def indexedChecks (b : List Byte) (x : Indexed) : List (Nat × Nat) :=
  let s := x.c.s
  let d := x.c.d
  rank10 (x.ix.ndim != 1 || s.dtype != d.dtype || s.layout != d.layout || s.ext 0 != d.ext 0 ||
    (x.op == 0x34 && (Slot.imm b).testBit 0 && x.w.isNone)) 3

/-- The entries of a command: the count word when it names one, at most EXT0 (R221). -/
def Eng.entryCount (ix : Desc) (cw : Nat) : Eng Nat := do
  if cw == 0 then return ix.ext 0
  return min (ix.ext 0) (← Eng.word cw 4)

/-- Row pointers read and checked (R245): the row that each entry belongs to. -/
def Eng.pointers (ptr : Desc) (limit : Nat) : Eng (List Nat) := do
  let ps ← (List.range (ptr.ext 0)).mapM (Eng.entryAt ptr)
  Eng.consume (ps.any (fun p => p.2))
  let v := ps.map (fun p => p.1)
  let bad := (v.headD 0 != 0) || (v.zip (v.drop 1)).any (fun p => decide (p.2 < p.1)) || decide ((limit : Int) < v.getLastD 0)
  Eng.failIf bad 0x27
  if bad || ps.any (fun p => p.2) then return []
  return ((List.range (v.length - 1)).zip (v.zip (v.drop 1))).flatMap (fun r => List.replicate (r.2.2 - r.2.1).toNat r.1)

/-- The operands of an indexed command. -/
def indexedUses (b : List Byte) : List (Nat × Use) :=
  let op := opcodeOf b
  let add := op == 0x34 || op == 0x35
  let src : Use := ⟨if add then addFormat else dtypeKnown, false, false, true, true⟩
  let dst : Use := ⟨if add then addFormat else dtypeKnown, true, add, true, true⟩
  [(Slot.d b 0, src), (Slot.d b 1, dst), (Slot.d b 2, indexUse)] ++
  (if op == 0x36 then [(Slot.d b 3, indexUse)]
   else if op == 0x34 && (Slot.imm b).testBit 0 then [(Slot.d b 4, Use.input (· == dtFp32))] else [])

/-- Whether an indexed command names row pointers (R245, R246). -/
def rowPointers (b : List Byte) : Bool := opcodeOf b == 0x36 || (opcodeOf b == 0x35 && (Slot.imm b).testBit 0)

/-- The count word of an indexed command, 0 for none (R221). -/
def countWord (b : List Byte) : Nat := if opcodeOf b == 0x36 then 0 else Slot.d b 3

/-- An indexed command over its decoded operands. -/
def indexedOf (b : List Byte) (ds : List (Option Desc)) : Indexed :=
  let op := opcodeOf b
  let g := fun k => (ds.getD k none).getD default
  let cc := copyCmd op ⟨g 0, false, 0⟩ ⟨g 1, false, 0⟩
  ⟨op, cc, if op == 0x36 then g 3 else g 2, cc.size (if op == 0x32 || op == 0x36 then g 0 else g 1),
    if op == 0x34 && (Slot.imm b).testBit 0 then ds.getD 3 none else none, none⟩

/-- An indexed command's own checks. -/
def indexedOwn (c : Ctx) (b : List Byte) (ds : List (Option Desc)) : List (Nat × Nat) :=
  indexedChecks b (indexedOf b ds) ++
  (if opcodeOf b == 0x36 then rank10 (((ds.getD 2 none).getD default).ndim != 1) 3 else []) ++
  (if countWord b == 0 then [] else countFaults c (countWord b) false)

/-- Row pointers and count word read: the row of each entry where pointers give it, and the entries to move. -/
def Eng.indexedPrep (b : List Byte) (ds : List (Option Desc)) : Eng (Option (List Nat) × Nat) := do
  let g := fun k => (ds.getD k none).getD default
  let cw := countWord b
  if opcodeOf b == 0x36 then
    let rows ← Eng.pointers (g 2) ((g 3).ext 0)
    return (none, rows.length)
  else if rowPointers b then
    let rows ← Eng.pointers (g 2) ((indexedOf b ds).c.size (g 0))
    let n ← if cw == 0 then pure rows.length else (fun w => min rows.length w) <$> Eng.word cw 4
    return (some rows, n)
  else return (none, ← Eng.entryCount (g 2) cw)

/-- Whether a side holds fewer rows or elements than the `n` entries need (R221, R222). -/
def Indexed.short (x : Indexed) (b : List Byte) (n : Nat) : Bool :=
  (!rowPointers b || x.op == 0x36) && decide (x.c.size (if x.gathers then x.c.d else x.c.s) < n) ||
  x.w.any (fun w => decide (w.ext 0 < n)) ||
  (rowPointers b && x.op == 0x35 && decide (x.c.size x.c.d < x.ix.ext 0 - 1))

/-- The entries of an indexed command moved, one share per C-die. -/
def indexedRun (x : Indexed) (n : Nat) (dies : List CIx) (v : Env) : Env × Option FaultAt :=
  let items := if x.c.value && x.gathers && x.c.o.banded then
      gathered (fun p => x.c.d.bandOf (x.c.place x.c.d p).1) (List.range n)
    else (List.range n).map (fun p => [p])
  runWhole 2 4 cpyUnits items (fun _ l => Eng.indexedShare x l.flatten) (fun _ d => d.wakeCpy) dies v

/-- GATHER, SCATTER, SCATTER_ADD, SEGMENT_SUM and CSR_GATHER decoded and run. -/
def State.indexed (j : JobIx) (s : State) (b : List Byte) (fid : Nat) : Begin :=
  let c := s.ctx j
  match s.copyDies j b with
  | none => .stays
  | some dies =>
    let die := firstDie dies
    let ((ds, fs), v) := (Eng.operands c (indexedUses b)).run (envOf s j b fid)
    let x := indexedOf b ds
    settleDecode 2 b die.val v (fs ++ indexedOwn c b ds ++ stepFault c b) (fun s =>
      let ((rows, n), v) := (Eng.indexedPrep b ds).run (envOf s j b fid)
      settleDecode 2 b die.val v (rank10 (x.short b n) 3) (fun s =>
        let (row, s) := s.fixRow j (cmdStep b)
        if x.c.d.empty then .done s
        else
          let ((src, dst), v) := (Eng.scaledPair b row x.c.s x.c.d).run (envOf s j b fid)
          settleDecode 2 b die.val v [] (fun s =>
            copyDone b [src, dst] none
              (indexedRun { x with c := copyCmd (opcodeOf b) src dst, rows := rows } n dies (envOf s j b fid)))))

/-- GATHER (R220 to R230). -/
def execGather (j : JobIx) (s : State) : Host.Outcome State Fault Refusal := .next (s.runSlot j 2 0x32 (State.indexed j))
/-- SCATTER (R220 to R231). -/
def execScatter (j : JobIx) (s : State) : Host.Outcome State Fault Refusal := .next (s.runSlot j 2 0x33 (State.indexed j))
/-- SCATTER_ADD (R220 to R232). -/
def execScatterAdd (j : JobIx) (s : State) : Host.Outcome State Fault Refusal :=
  .next (s.runSlot j 2 0x34 (State.indexed j))
/-- SEGMENT_SUM (R246). -/
def execSegmentSum (j : JobIx) (s : State) : Host.Outcome State Fault Refusal :=
  .next (s.runSlot j 2 0x35 (State.indexed j))
/-- CSR_GATHER (R245). -/
def execCsrGather (j : JobIx) (s : State) : Host.Outcome State Fault Refusal :=
  .next (s.runSlot j 2 0x36 (State.indexed j))

/-! ### DISPATCH_BUILD -/

/-- An assignment kept by an expert: its entry in the identifier array. -/
abbrev Kept := List (List Nat)

/-- Assignments taken in priority order (R235): those each expert keeps, and how many are dropped. -/
def assign (cap : Nat) (l : List (Nat × Nat)) (kept : Kept) : Kept × Nat :=
  l.foldl (fun (r : Kept × Nat) p =>
    if (r.1.getD p.1 []).length < cap then (modAt r.1 p.1 (fun x => x ++ [p.2]), r.2) else (r.1, r.2 + 1)) (kept, 0)

/-- The entry numbers in priority order j × T + i. -/
def priority (t k : Nat) : List Nat := (List.range k).flatMap (fun j => (List.range t).map (fun i => i * k + j))

/-- An identifier and its entry: −1 is neither kept nor counted; one outside the experts follows the identifiers' index
mode (log 42). -/
def Eng.expertAt (ids : Desc) (e p : Nat) : Eng (List (Nat × Nat) × Bool) := do
  let (v, bad) ← Eng.entryAt ids p
  if bad then return ([], true)
  if v == -1 then return ([], false)
  match resolve ids.imode e v with
  | .row i => return ([(i, p)], false)
  | .zero => do Eng.markEntry ids p true true; return ([], false)
  | .fault => do Eng.fail 0x24; return ([], false)

/-- DISPATCH_BUILD's sizes. -/
structure DispatchCmd where
  cap : Nat
  e : Nat
  k : Nat
  ids : Desc
  gates : Desc
  seg : Desc
  gl : Desc
  gv : Desc
  count : Nat
deriving Repr, Inhabited

def dispatchChecks (c : Ctx) (x : DispatchCmd) : List (Nat × Nat) :=
  let n := x.ids.ext 0 / x.k * x.k
  let most := min n (x.cap * x.e)
  rank10 (x.gates.ext 0 < n || x.gl.ext 0 < most || x.gv.ext 0 < most || x.seg.span < 16 * x.e || x.count == 0) 3 ++
  countFaults c x.count true

/-- The four outputs written; answers the count (R236). -/
def Eng.dispatch (x : DispatchCmd) : Eng Nat := do
  let t := x.ids.ext 0 / x.k
  let l ← (priority t x.k).mapM (Eng.expertAt x.ids x.e)
  let (kept, drops) := assign x.cap (l.flatMap (fun p => p.1)) (List.replicate x.e [])
  let all := kept.flatten
  let gates ← all.mapM (fun p => Eng.rd (x.gates.base + 4 * p) 4 x.gates.hint)
  let bad := l.any (fun p => p.2) || gates.any (fun p => p.2)
  let starts := (List.range x.e).map (fun e => ((kept.take e).map List.length).foldl (· + ·) 0)
  Eng.wr x.seg.base (((List.range x.e).zip (starts.zip kept)).flatMap (fun p =>
    leBytes 4 p.2.1 ++ leBytes 4 p.2.2.length ++ leBytes 2 p.1 ++ leBytes 6 0)) x.seg.hint bad
  Eng.wr x.gl.base (all.flatMap (fun p => leBytes 4 (p / x.k))) x.gl.hint bad
  Eng.wr x.gv.base (gates.flatMap (fun p => p.1)) x.gv.hint bad
  Eng.wr x.count (leBytes 4 all.length) .stream bad
  let e ← get
  Eng.onState (fun s => s.modCDie (Fin.ofNat 4 e.die) (fun d => { d with
    ctxs := upd d.ctxs e.job (fun y => { y with dropped := y.dropped.bump 31 0 drops }) }))
  Eng.settle
  Eng.consume bad
  return all.length

/-- The operands a DISPATCH_BUILD names. -/
def dispatchUses (b : List Byte) : List (Nat × Use) :=
  [(Slot.d b 0, indexUse), (Slot.d b 1, Use.input (· == dtFp32)), (Slot.d b 2, Use.output dtypeKnown),
    (Slot.d b 3, Use.output (· == dtInt32)), (Slot.d b 4, Use.output (· == dtFp32))]

/-- A DISPATCH_BUILD over its decoded operands (R235). -/
def dispatchOf (b : List Byte) (ds : List (Option Desc)) : DispatchCmd :=
  let g := fun k => (ds.getD k none).getD default
  let imm := Slot.imm b
  ⟨bitsOf imm 19 0 + 1, bitsOf imm 29 20 + 1, bitsOf imm 34 32 + 1, g 0, g 1, g 2, g 3, g 4, Slot.extField b 0 6⟩

/-- A DISPATCH_BUILD's own checks. -/
def dispatchOwn (c : Ctx) (b : List Byte) (x : DispatchCmd) : List (Nat × Nat) :=
  oneDie b ++ rank10 (x.ids.dtype != dtInt32) 4 ++ dispatchChecks c x

/-- A command of one copy unit of a C-die, which works alone (R235, R243). -/
def oneUnit {α : Type} (die : CIx) (b : List Byte) (f : Eng α) (v : Env) : α × Env × Option FaultAt :=
  let u := pickUnit v.s (cpyUnits v.s.cdies[die])
  let (a, v) := f.run { v with s := (v.s.drawn).modCDie die CDie.wakeCpy, die := die.val }
  (a, v, v.stop.map (fun cause => dieFault 2 cause die.val 4 u b))

/-- DISPATCH_BUILD decoded and run. -/
def State.dispatchBuild (j : JobIx) (s : State) (b : List Byte) (fid : Nat) : Begin :=
  let c := s.ctx j
  match s.copyDies j b with
  | none => .stays
  | some dies =>
    let die := firstDie dies
    let ((ds, fs), v) := (Eng.operands c (dispatchUses b)).run (envOf s j b fid)
    let x := dispatchOf b ds
    settleDecode 2 b die.val v (fs ++ dispatchOwn c b x ++ stepFault c b) (fun s =>
      let (_, s) := s.fixRow j (cmdStep b)
      let (n, go) := oneUnit die b (Eng.dispatch x) (envOf s j b fid)
      copyDone b [] (if (Slot.imm b).testBit 41 then some (bitsOf (Slot.imm b) 40 35, n) else none) go)

/-- DISPATCH_BUILD (R235, R236). -/
def execDispatchBuild (j : JobIx) (s : State) : Host.Outcome State Fault Refusal :=
  .next (s.runSlot j 2 0x37 (State.dispatchBuild j))

/-! ### TOUCH_BUILD -/

/-- Numbers in ascending order, each once. -/
def sortedOnce (l : List Nat) : List Nat := l.foldl (fun a x => insertNat x a) []

/-- The entries of one input: the row each names, none where it was zeroed (R242). -/
def Eng.touches (ix : Desc) (e : Nat) : Eng (List (Option Nat) × Bool) := do
  let l ← (List.range (ix.ext 0)).mapM (fun p => do
    if ← Eng.stopped then return (none, false)
    let (i, f) ← Eng.indexAt false ix e p
    match f with
    | some 0x29 => return (none, true)
    | some c => do Eng.fail c; return (none, false)
    | none => return (i, false))
  return (l.map (fun x => x.1), l.any (fun x => x.2))

/-- TOUCH_BUILD's effect: touch list, slot lists, count word; the bitmap is left clear. -/
def Eng.touchBuild (touch : Desc) (slots ins : List Desc) (bitmap : Desc) (e count : Nat) : Eng Unit := do
  let l ← ins.mapM (fun d => Eng.touches d e)
  if ← Eng.stopped then return
  let bad := l.any (fun x => x.2)
  let all := sortedOnce (l.flatMap (fun x => x.1.filterMap id))
  let ovr := touch.ext 0 < all.length
  Eng.failIf ovr 0x26
  if ovr then return
  let w := elemBits touch.dtype / 8
  Eng.wr touch.base (all.flatMap (fun r => leBytes w r)) touch.hint bad
  (slots.zip l).forM (fun p => Eng.wr p.1.base (p.2.1.flatMap (fun r => leBytes 4 (match r with
    | some r => (all.findIdx? (fun x => x == r)).getD 0
    | none => 0xFFFFFFFF))) p.1.hint bad)
  Eng.wr bitmap.base (List.replicate ((e + 7) / 8) 0) .stream false
  Eng.wr count (leBytes 4 all.length) .stream bad
  Eng.settle
  Eng.consume bad

/-- A TOUCH_BUILD over its decoded operands: touch list, bitmap, slot lists, inputs, rows (R242). -/
structure TouchCmd where
  touch : Desc
  bitmap : Desc
  slots : List Desc
  ins : List Desc
  e : Nat
  count : Nat
deriving Repr, Inhabited

def touchInputs (b : List Byte) : List Nat :=
  (List.range (bitsOf (Slot.imm b) 2 0 + 1)).map (fun i => Slot.extField b (6 * i) 6)

/-- The operands a TOUCH_BUILD names. -/
def touchUses (b : List Byte) : List (Nat × Use) :=
  [(Slot.d b 0, Use.output indexCode), (Slot.d b 2, areaUse)] ++
  (List.range (touchInputs b).length).map (fun i => (Slot.d b 1 + 64 * i, Use.output (· == dtInt32))) ++
  (touchInputs b).map (fun a => (a, indexUse))

def touchOf (b : List Byte) (ds : List (Option Desc)) : TouchCmd :=
  let g := fun k => (ds.getD k none).getD default
  let n := (touchInputs b).length
  ⟨g 0, g 1, (List.range n).map (fun i => g (2 + i)), (List.range n).map (fun i => g (2 + n + i)),
    bitsOf (Slot.imm b) 33 3, Slot.d b 3⟩

/-- A TOUCH_BUILD's own checks. -/
def touchOwn (c : Ctx) (b : List Byte) (x : TouchCmd) : List (Nat × Nat) :=
  let small := x.bitmap.ext 0 < (x.e + 7) / 8 || !(c.regionOf x.bitmap.base (x.bitmap.ext 0)).any (fun r => r.kind == 2)
  oneDie b ++ countFaults c x.count true ++
  rank10 ((touchInputs b).any (fun a => a == 0) || x.touch.ndim != 1 || x.bitmap.ndim != 1 ||
    x.ins.any (fun d => d.ndim != 1) || (x.slots.zip x.ins).any (fun p => decide (p.1.ext 0 < p.2.ext 0))) 3 ++
  rank10 (2 ^ 30 < x.e || small) 0x10

/-- TOUCH_BUILD decoded and run. -/
def State.touchBuild (j : JobIx) (s : State) (b : List Byte) (fid : Nat) : Begin :=
  let c := s.ctx j
  match s.copyDies j b with
  | none => .stays
  | some dies =>
    let die := firstDie dies
    let ((ds, fs), v) := (Eng.operands c (touchUses b)).run (envOf s j b fid)
    let x := touchOf b ds
    settleDecode 2 b die.val v (fs ++ touchOwn c b x ++ stepFault c b) (fun s =>
      let (_, s) := s.fixRow j (cmdStep b)
      let s := s.grant 1 j.val (unitId 1 die.val 2 0) fid x.bitmap.base (x.bitmap.ext 0)
      let (_, go) := oneUnit die b (Eng.touchBuild x.touch x.slots x.ins x.bitmap x.e x.count) (envOf s j b fid)
      copyDone b [] none go)

/-- TOUCH_BUILD (R242, R243). -/
def execTouchBuild (j : JobIx) (s : State) : Host.Outcome State Fault Refusal :=
  .next (s.runSlot j 2 0x38 (State.touchBuild j))

end Sys2Proof.Machine
end

