-- ==== Sys2Proof/Machine/LoomNum.lean ====
section
/-! DEFINITION. The arithmetic of a Loom pass (chapters 3 and 4): how operands reach the multiplier, group sums and the
accumulator, outlier terms and the up-term. -/

namespace Sys2Proof.Machine

/-! ### A matmul's operands -/

/-- A matmul as decoded: its slots and its operands. `outer` = A is contracted over dimension 1 (log 44). -/
structure Mat where
  b : List Byte
  a : Scaled
  o : Scaled
  p : Option Scaled
  f : Scaled
  down : Option Scaled
  up : Option Scaled
  downG : Option Scaled
  tags : Option Scaled
  bs : List Scaled
  outer : Bool
deriving Repr, Inhabited

namespace Mat

/-- Whether A is read over its dimension 1: a contraction over tokens whose A holds them there. -/
def isOuter (b : List Byte) (a : Desc) (bk rows : Nat) : Bool :=
  Slot.kaxis b && a.ext 1 == bk && a.ext 0 == rows && a.rows == a.ext 1

def of (b : List Byte) (ops : List (Option Scaled)) : Mat :=
  let g := fun k => ops.getD k none
  let a := (g 0).getD default
  let o := (g 1).getD default
  let bs := (ops.drop 8).map (fun x => x.getD default)
  ⟨b, a, o, g 2, (g 3).getD default, g 4, g 5, g 6, g 7, bs,
    isOuter b a.d ((bs.headD default).d.ext 0) o.d.rows⟩

def k (m : Mat) : Nat := (m.bs.headD default).d.ext 0
def rows (m : Mat) : Nat := if m.outer then m.a.d.ext 0 else m.a.d.rows
def n (m : Mat) : Nat := m.o.d.ext 0
def partialAt (m : Mat) : Nat := bitsOf (Slot.imm m.b) 21 0 * 64
def bias (m : Mat) : Bool := (Slot.imm m.b).testBit 29
def layerEn (m : Mat) : Bool := (Slot.imm m.b).testBit 28
def layerSb (m : Mat) : Nat := bitsOf (Slot.imm m.b) 27 22
def ledger (m : Mat) : Nat := if Slot.ext m.b then Slot.extField m.b 12 6 else 0
def ledgerLen (m : Mat) : Nat := if Slot.ext m.b then Slot.extField m.b 44 2 else 0
def rlr (m : Mat) : Nat := if Slot.ext m.b then Slot.extField m.b 42 1 % 128 else 0
/-- Rotation is on along K (R127). -/
def rotated (m : Mat) : Bool := m.a.d.rot != 0
/-- Groups of a rotation block, or of a plain unit of the pass. -/
def unit (m : Mat) : Nat := if m.rotated then 8 else 1
/-- G_total, in whole units (R83, R127). -/
def groups (m : Mat) : Nat := ceilDiv (m.k) (32 * m.unit) * m.unit
/-- A B operand by its place in the command's table. -/
def bAt (m : Mat) (i : Nat) : Scaled := m.bs.getD i default
/-- Whether a B is 2:4 compressed (R106). -/
def sparse (m : Mat) (i : Nat) : Bool := (m.bAt i).d.layout == 2
/-- The level of first attempts on a B: LEVEL or the base level, the higher (R122); each segment has its own (R239). -/
def level (m : Mat) (i : Nat) : Nat := max (Slot.level m.b) (baseLevel m.a.d (m.bAt i).d)

end Mat

/-! ### Elements at the multiplier -/

/-- One element at the multiplier: its element value and its block scale, exact. -/
structure Elem where
  q : FV
  s : FV
deriving DecidableEq, Repr, Inhabited

def zeroFV : FV := .fin false 0 0
def oneFV : FV := .fin false 1 0
def zeroElem : Elem := ⟨zeroFV, oneFV⟩
def Elem.value (l : Elem) : FV := l.q.mul l.s
def Elem.isFin (l : Elem) : Bool := l.q.isFin && l.s.isFin

/-- A row of A, or a column of B: where its element at K position `k` stands. -/
structure PortRow where
  x : Scaled
  outer : Bool
  idx : List Nat
  i0 : Nat
deriving Repr, Inhabited

/-- The outer indices of an element at K position `k`, and its place along dimension 0. -/
def PortRow.place (r : PortRow) (k : Nat) : List Nat × Nat :=
  if r.outer then ([k, 0, 0, 0, 0], r.i0) else (r.idx, k)

/-- A group of 32 as it is read: lanes, factor, row scales that vary along K, poison. -/
structure GroupIn where
  lanes : List Elem
  g : Word
  fold : List Word
  poison : Bool
deriving Repr, Inhabited

/-- A group that is not read. -/
def GroupIn.zero : GroupIn := ⟨List.replicate 32 zeroElem, one32, List.replicate 32 one32, false⟩

/-- The codes and scales of group `g` of an inner row. -/
def Eng.groupCodes (d : Desc) (idx : List Nat) (g n : Nat) : Eng RowCodes := do
  let a := d.base + d.rowOffset idx
  if d.woven then
    let c := idx.getD 0 0 % 128
    let r := a + g * d.recordBytes
    let (b, p) ← Eng.rd (r + c / 8 * d.strandBytes) d.strandBytes d.hint
    let sc ← (List.range (d.stripBytes / 128)).mapM (fun k => Eng.rd (r + 16 * d.strandBytes + 128 * k + c) 1 d.hint)
    let (codes, bad) := strandColumn d b c n
    Eng.failIf bad 0x20
    return ⟨codes.take n, sc.map (fun x => leNat x.1), p || sc.any (fun x => x.2)⟩
  else
    let (b, p) ← Eng.rd (a + 4 * g * elemBits d.dtype) (Desc.elemBytes d.dtype n) d.hint
    let nb := if isBlock d.dtype then ceilDiv n (blockSize d.dtype) else 0
    let (sc, q) ← Eng.rd (a + d.dataBytes (d.ext 0) + 32 * g / blockSize d.dtype) nb d.hint
    return ⟨unpack d.dtype b n, sc.map (fun x => x.toNat), p || q⟩

/-- One element of a row-major row with its block scale. -/
def Eng.oneCode (d : Desc) (idx : List Nat) (i : Nat) : Eng (Nat × Nat × Bool) := do
  let a := d.base + d.rowOffset idx
  let w := elemBits d.dtype
  let (b, p) ← Eng.rd (a + i * w / 8) ((i * w % 8 + w + 7) / 8) d.hint
  let (sc, q) ← if isBlock d.dtype then Eng.rd (a + d.dataBytes (d.ext 0) + i / blockSize d.dtype) 1 d.hint
    else pure ([], false)
  return (leNat b / 2 ^ (i * w % 8) % 2 ^ w, leNat sc, p || q)

/-- The factor of an element's scale block, and its poison; 1 for a tensor that carries none (R49, R170). -/
def Eng.factorOf (d : Desc) (idx : List Nat) (i0 : Nat) : Eng (Word × Bool) :=
  if d.smode == 0 then pure (one32, false)
  else do
    let (v, p) ← Eng.wordP (d.factorAt + 4 * d.scaleBlock idx i0) 4
    return (BitVec.ofNat 32 v, p)

/-- Group `g` of a row of A or a column of B; K positions at and beyond `k` read as zero (R83). -/
def Eng.group (r : PortRow) (k g : Nat) : Eng GroupIn := do
  let d := r.x.d
  let n := min 32 (k - 32 * g)
  if n == 0 then return GroupIn.zero
  let f := elemFp d.dtype
  let (lanes, fold, p) ←
    if r.outer then do
      let es ← (List.range n).mapM (fun i => do
        let pl := r.place (32 * g + i)
        let (c, s, p) ← Eng.oneCode d pl.1 pl.2
        let (t, q) ← if r.x.row then Eng.rowT r.x pl.1 else pure (one32, false)
        return ((⟨f.decode c, scaleValue d.dtype s⟩ : Elem), t, p || q))
      pure (es.map (fun e => e.1), es.map (fun e => e.2.1), es.any (fun e => e.2.2))
    else do
      let c ← Eng.groupCodes d r.idx g n
      let b := blockSize d.dtype
      pure (((List.range c.codes.length).zip c.codes).map (fun e =>
          (⟨f.decode e.2, scaleValue d.dtype (c.scales.getD (e.1 / b) 0)⟩ : Elem)),
        List.replicate n one32, c.poison)
  let pl := r.place (32 * g)
  let (fac, fp) ← Eng.factorOf d pl.1 pl.2
  return ⟨lanes ++ List.replicate (32 - n) zeroElem, fac, fold ++ List.replicate (32 - n) one32, p || fp⟩

/-- A group that the bitmap masks: its data are not read, and its factor only where a listed outlier stands in it
(R108, R136). -/
def Eng.maskedGroup (r : PortRow) (g : Nat) (listed : Bool) : Eng GroupIn := do
  if !listed then return GroupIn.zero
  let pl := r.place (32 * g)
  let (fac, p) ← Eng.factorOf r.x.d pl.1 pl.2
  return { GroupIn.zero with
    g := fac
    poison := p }

/-! ### One unit of a pass at a port (R123, R127, R128, R131 to R135) -/

/-- What a unit of a row holds at the multiplier: its elements (and the low ones of pairs at level 2), the factors of its groups,
its outliers, and what its reading met. -/
structure UnitRow where
  hi : List Elem
  lo : List Elem
  gs : List Word
  list : List (Nat × Word)
  poison : Bool
  bad : Bool
  listOvf : Bool
deriving Repr, Inhabited

/-- The trouble conditions of the fuller (Table 4-4). -/
structure Trouble where
  outlier : Bool
  amax : Bool
  clamp : Bool
deriving DecidableEq, Repr, Inhabited

def Trouble.any (t : Trouble) : Bool := t.outlier || t.amax || t.clamp
def Trouble.or (a b : Trouble) : Trouble := ⟨a.outlier || b.outlier, a.amax || b.amax, a.clamp || b.clamp⟩
def Trouble.none : Trouble := ⟨false, false, false⟩

/-- The format that the fuller requantises into (R128). -/
def fullerType (c level : Nat) : Nat :=
  if level == 0 then (if isFine c then dtFb4 else dtMx4)
  else if level == 1 then (if isFine c then dtFb8 else dtMx8)
  else dtMx8

/-- How a port works in a pass. -/
structure Port' where
  level : Nat
  rnd : Rnd
  outShift : Nat
  amaxShift : Nat
  seed : Word
deriving Repr, Inhabited

/-- amax / S_target above 2^AMAX_SHIFT (Table 4-4), exactly. -/
def amaxTrouble (c shift : Nat) (a : Word) : Bool :=
  let (n, d) := magFrac a
  isFin32 a && decide (2 ^ shift * sTarget c * d < n)

/-- Values requantised block by block with t_inv = 1: lanes and trouble; pairs at level 2. -/
def requant (p : Port') (c : Nat) (xs : List Word) (ovr : List Bool) (g : Gen) :
    List Elem × List Elem × Trouble × Bool × Gen :=
  let dt := fullerType c p.level
  let n := blockSize dt
  let bs := (chunks n (xs.length + 1) xs).zip (chunks n (ovr.length + 1) ovr)
  let lanes := fun (q : Quant) => q.codes.map (fun k => (⟨(elemFp dt).decode k, scaleValue dt q.scale⟩ : Elem))
  bs.foldl (fun (r : List Elem × List Elem × Trouble × Bool × Gen) (b : List Word × List Bool) =>
    let kept := List.zipWith (fun y o => if o then 0#32 else y) b.1 b.2
    let am := amaxTrouble dt p.amaxShift (kept.foldl maxMag 0) && b.1.all isFin32
    let (hi, lo, qs) :=
      if p.level == 2 then
        let (h, l) := quantPair p.rnd false r.2.2.2.2 one32 b.1
        (lanes h, lanes l, [h, l])
      else
        let h := quantY dt p.rnd false r.2.2.2.2 b.1 b.2
        (lanes h, [], [h])
    let t : Trouble := ⟨false, am, qs.any (fun q => q.clampTop || q.clampLow)⟩
    (r.1 ++ hi, r.2.1 ++ lo, r.2.2.1.or t, r.2.2.2.1 || qs.any (fun q => q.qnan),
      ((qs.getLast?.map (fun q => q.gen)).getD r.2.2.2.2))) ([], [], Trouble.none, false, g)

/-- A pair of a stored operand at level 2 (R123): formed by R70 from q × s, with its clamps and its NaN blocks. -/
def pairLanes (p : Port') (lanes : List Elem) (g : Gen) : List Elem × List Elem × Bool × Bool × Gen :=
  let (hi, lo, t, nan, g) := requant p dtMx8 (lanes.map (fun l => rne32 l.value)) (lanes.map (fun _ => false)) g
  (hi, lo, t.clamp, nan, g)

/-- The stored list of a row's rotation block, when it has one (R134, R135). -/
def Eng.storedList (r : PortRow) (level rb : Nat) : Eng (List (Nat × Word) × Bool × Bool) := do
  let d := r.x.d
  if d.rot != 1 || d.outlierAt == 0 || level != 0 then return ([], false, false)
  let (b, p) ← Eng.rd (d.listAt (d.rowIndex r.idx) rb) 16 .stream
  let (es, ovf, ok) := parseList b
  Eng.failIf (!ok && !p) 0x21
  return (es, ovf, p)

/-- The rows of a port for one unit, in the order of R142. `mask` marks groups that are skipped. -/
def Eng.portUnit (p : Port') (rows : List PortRow) (k g0 unit : Nat) (mask : List Bool) :
    Eng (List UnitRow × Trouble) := do
  let gs := List.range unit
  let skip := fun i => mask.getD i false
  if (rows.head?.map (fun r => r.x.d.rot)).getD 0 == 2 then
    let ins ← rows.mapM (fun r => do
      let gr ← gs.mapM (fun i => Eng.group r k (g0 + i))
      let xs := gr.flatMap (fun x => List.zipWith (fun l t =>
        mul32 (rne32 (l.value.mul (dec32 x.g))) t) x.lanes x.fold)
      let bad := gr.any (fun x => x.lanes.any (fun l => !l.isFin))
      return (r, rotate (rotSigns p.seed (g0 / 8)) xs, gr.any (fun x => x.poison), bad))
    let outs ← ins.mapM (fun i => do
      if p.level != 0 then return (i, (⟨i.2.1, [], i.2.1.map (fun _ => false)⟩ : Extracted), [])
      else
        let e := extract p.outShift i.2.1
        let l ← Eng.withGen (fun g => listValues p.rnd g e.list)
        return (i, e, l.map (fun x => (x.1, ofBf16 x.2))))
    let qs ← outs.mapM (fun o => do
      let (hi, lo, t, nan) ← Eng.withGen (fun g =>
        let (hi, lo, t, nan, g) := requant p o.1.1.x.d.dtype o.2.1.vals o.2.1.ovr g
        ((hi, lo, t, nan), g))
      Eng.status nan jsQnan
      Eng.status t.clamp jsScaleClamp
      let bad := o.1.2.2.2 || o.1.2.1.any (fun x => !isFin32 x)
      return ((⟨hi, lo, gs.map (fun _ => one32), o.2.2, o.1.2.2.1, bad, false⟩ : UnitRow),
        ({ t with outlier := o.2.1.ovr.any id } : Trouble)))
    return (qs.map (fun q => q.1), qs.foldl (fun t q => t.or q.2) Trouble.none)
  else
    let us ← rows.mapM (fun r => do
      let l ← if unit == 8 then Eng.storedList r p.level (g0 / 8) else pure ([], false, false)
      let gr ← gs.mapM (fun i => if skip i then Eng.maskedGroup r (g0 + i) (l.1.any (fun o => o.1 / 32 == i))
        else Eng.group r k (g0 + i))
      let lanes := gr.flatMap (fun x => x.lanes)
      let (hi, lo, clamp, nan) ← if p.level == 2 then Eng.withGen (fun g =>
          let (h, l, c, n, g) := pairLanes p lanes g
          ((h, l, c, n), g))
        else pure (lanes, [], false, false)
      Eng.status clamp jsScaleClamp
      Eng.status nan jsQnan
      return (⟨hi, lo, gr.map (fun x => x.g), l.1, l.2.2 || gr.any (fun x => x.poison),
        lanes.any (fun l => !l.isFin), l.2.1⟩ : UnitRow))
    return (us, Trouble.none)

/-! ### Group sums and the accumulator (R87 to R91) -/

/-- floor(log2 |v|) of a non-zero finite value. -/
def FV.lead : FV → Int
  | .fin _ m e => (Nat.log2 m : Int) + e
  | _ => 0

/-- A finite value with the bits below weight 2^q dropped toward zero, and whether any were set. -/
def FV.chop (v : FV) (q : Int) : FV × Bool :=
  match v with
  | .fin n m e => if e < q then (.fin n (m / 2 ^ (q - e).toNat) q, m % 2 ^ (q - e).toNat != 0) else (v, false)
  | _ => (v, false)

def FV.nonzero (v : FV) : Bool := v.isFin && !v.isZero

/-- The sum of a group's 32 products with their scales, exact, or truncated where an E5M2 operand takes part (R88). -/
def groupSum (e5m2 : Bool) (a b : List Elem) : FV × Bool :=
  let ps := List.zipWith (fun x y => ((x.q.mul y.q : FV), (x.s.mul y.s : FV))) a b
  let live := ps.filter (fun p => p.1.nonzero)
  let eg := (live.map (fun p => p.1.lead)).foldl max ((live.head?.map (fun p => p.1.lead)).getD 0)
  ps.foldl (fun (r : FV × Bool) p =>
    let (q, lost) := if e5m2 then p.1.chop (eg - 24) else (p.1, false)
    (r.1.add (q.mul p.2), r.2 || lost)) (zeroFV, false)

/-- The accumulator of one output element. -/
structure Acc where
  v : FV
  lead : Option Int
deriving DecidableEq, Repr, Inhabited

/-- One aligned group sum added (R91). -/
def Acc.add (a : Acc) (v : FV) : Acc :=
  if v.isZero then a
  else if !v.isFin then { a with v := a.v.add v }
  else
    let e := match a.lead with
      | some x => max x v.lead
      | none => v.lead
    ⟨((a.v.add v).chop (e - 27)).1, some e⟩

/-- A unit of a pass: A rows, B columns, and which of its groups are skipped. -/
structure PassUnit where
  as : List UnitRow
  bs : List UnitRow
  mask : List Bool
deriving Repr, Inhabited

def sliceOf {α : Type} (l : List α) (g : Nat) : List α := (l.drop (32 * g)).take 32

/-- The group sums of one sub-pass added into one output element. -/
def subPass (e5m2 : Bool) (lowA lowB : Bool) (us : List PassUnit) (i j : Nat) (acc : Acc × Bool) : Acc × Bool :=
  us.foldl (fun acc u =>
    let a := u.as.getD i default
    let b := u.bs.getD j default
    (List.range a.gs.length).foldl (fun (acc : Acc × Bool) g =>
      if u.mask.getD g false then acc
      else
        let (s, lost) := groupSum e5m2 (sliceOf (if lowA then a.lo else a.hi) g) (sliceOf (if lowB then b.lo else b.hi) g)
        let v := (s.mul (dec32 (a.gs.getD g one32))).mul (dec32 (b.gs.getD g one32))
        (acc.1.add v, acc.2 || lost)) acc) acc

/-- The accumulated pass of one output element (R81, R91), and whether products lost bits. -/
def accumulate (level : Nat) (e5m2 : Bool) (us : List PassUnit) (i j : Nat) : FV × Bool :=
  let z : Acc × Bool := (⟨zeroFV, none⟩, false)
  let r := subPass e5m2 false false us i j z
  let r := if level == 2 then subPass false true false us i j (subPass false false true us i j r) else r
  (r.1.v, r.2)

/-! ### The side path (R136 to R141) -/

/-- The outlier terms of one output element (R136). -/
def outlierSum (us : List PassUnit) (i j : Nat) : Word :=
  us.foldl (fun s u =>
    let a := u.as.getD i default
    let b := u.bs.getD j default
    let gk := fun k => (dec32 (a.gs.getD (k / 32) one32)).mul (dec32 (b.gs.getD (k / 32) one32))
    let bOut := fun k => match b.list.find? (fun x => x.1 == k) with
      | some x => dec32 x.2
      | none => zeroFV
    let term := fun (s : Word) (x y : FV) (k : Nat) => rne32 ((dec32 s).add ((x.mul y).mul (gk k)))
    let s := a.list.foldl (fun s o => term s (dec32 o.2) (((b.hi.getD o.1 zeroElem).value).add (bOut o.1)) o.1) s
    b.list.foldl (fun s o => term s (a.hi.getD o.1 zeroElem).value (dec32 o.2) o.1) s) 0

/-- Outliers of a unit in A and in B. -/
def PassUnit.outliers (u : PassUnit) : Nat × Nat :=
  ((u.as.map (fun r => r.list.length)).foldl (· + ·) 0, (u.bs.map (fun r => r.list.length)).foldl (· + ·) 0)

/-- The side clocks of a pass's rotation blocks (R141). -/
def sideClocks (us : List PassUnit) : Nat :=
  (us.map (fun u => ceilDiv (128 * u.outliers.1 + 256 * u.outliers.2) 2048)).foldl (· + ·) 0

/-- Array clocks of groups streamed and skipped (Table 3-5, R108). -/
def arrayClocks (level : Nat) (sparse : Bool) (groups skipped : Nat) : Nat :=
  let half := if level == 0 then 2 else if level == 1 then 4 else 12
  16 * (if sparse then half / 2 else half) * groups + skipped

/-- The sum of products of two lists in FP32, in order. -/
def dot32 (s : Word) (a b : List Word) : Word := (List.zip a b).foldl (fun s p => fma32 p.1 p.2 s) s

/-- Columns of a matrix given by rows. -/
def columnOf (rows : List (List Word)) (j : Nat) : List Word := rows.map (fun r => r.getD j 0)

/-- What a row's up-term needs: its correction's factors and its adapter's. -/
structure UpRow where
  u : List Word
  rank : Nat
  poison : Bool
  bad : Bool
deriving Repr, Inhabited

/-- The adapter of a row (R138): its rank and its factor's rows for the block's columns. -/
def Eng.adapter (m : Mat) (row c0 cols : Nat) : Eng (List (List Word) × Bool) := do
  match m.tags with
  | none => return ([], false)
  | some t =>
    let (tb, tp) ← Eng.rd (t.d.base + 4 * row) 4 t.d.hint
    let tag := leNat tb
    if tp || tag == 0xFFFFFFFF then return ([], tp)
    if m.ledgerLen ≤ tag then
      Eng.fail 0x22
      return ([], false)
    let (e, ep) ← Eng.rd (m.ledger + 16 * tag) 16 .stream
    let w := slotField e 0 8
    if ep then return ([], true)
    if !w.testBit 63 then
      Eng.fail 0x22
      return ([], false)
    let rank := bitsOf w 54 48
    if 64 < rank then
      Eng.fail 0x23
      return ([], false)
    let rs ← (List.range rank).mapM (fun i =>
      Eng.rd (bitsOf w 47 0 + i * slotField e 8 4 + 2 * c0) (2 * cols) .stream)
    return (rs.map (fun r => (unpack dtBf16 r.1 cols).map ofBf16), rs.any (fun r => r.2))

/-- The rows of U for a block's columns. -/
def Eng.upRows (m : Mat) (c0 cols : Nat) : Eng (List (List Word) × Bool) :=
  match m.up with
  | none => pure ([], false)
  | some u => do
    let rs ← (List.range m.rlr).mapM (fun t => Eng.spanValues u [t, 0, 0, 0, 0] c0 cols)
    return (rs.map (fun r => r.1), rs.any (fun r => r.2))

/-- A down product's row. -/
def Eng.downRow (x : Option Scaled) (row : Nat) : Eng (List Word × Bool) :=
  match x with
  | none => pure ([], false)
  | some d => Eng.rowValues d (d.d.coords row)

/-- The up-term of one row over a block's columns (R139). -/
def Eng.upRow (m : Mat) (us : List (List Word)) (row c0 cols : Nat) : Eng UpRow := do
  let (d, dp) ← Eng.downRow m.down row
  let (uc, ap) ← Eng.adapter m row c0 cols
  let (dg, gp) ← if uc == [] then pure ([], false) else Eng.downRow m.downG row
  let d := d.take m.rlr
  let dg := dg.take uc.length
  let bad := fun (l : List Word) => l.any (fun x => !isFin32 x)
  return ⟨(List.range cols).map (fun j => dot32 (dot32 0 d (columnOf us j)) dg (columnOf uc j)), uc.length,
    dp || ap || gp, bad d || bad dg || us.any bad || uc.any bad⟩

end Sys2Proof.Machine
end

