-- ==== Sys2Proof/Machine/CooperNum.lean ====
section
/-! DEFINITION. The arithmetic of Cooper (chapter 11): functions accurate to 2 ulp, the rules on one element, the block
preconditioner's roots. -/

namespace Sys2Proof.Machine

/-! ### Square roots, quotients, powers and fourth roots (R347) -/

/-- The magnitude code of a positive fraction, cut toward zero. -/
def floorCode32 (num den : Nat) : Nat :=
  let q := Fp.fp32.quantum num den
  (q + 149).toNat * 2 ^ 23 + num * pow2den q / (den * pow2num q)

/-- A value within 2 ulp of `±num/den`; which of them the spec does not say, so `k` chooses. -/
def near32 (k : Nat) (neg : Bool) (num den : Nat) : Word :=
  BitVec.ofNat 32 (Fp.fp32.signed neg (
    if num = 0 then 0
    else if 2 ^ 128 * den ≤ num then Fp.fp32.infCode
    else min (floorCode32 num den + k % 4 - 1) Fp.fp32.infCode))

/-- A quotient (R347). -/
def nearDiv (k : Nat) (a b : Word) : Word :=
  match dec32 a, dec32 b with
  | .fin n m e, .fin n' m' e' =>
    if m' = 0 then div32 a b else near32 k (n != n') (m * pow2num (e - e')) (m' * pow2den (e - e'))
  | _, _ => div32 a b

/-- A square root (R347). -/
def nearSqrt (k : Nat) (w : Word) : Word :=
  match dec32 w with
  | .fin false m e =>
    let odd := (e % 2).toNat
    let h : Int := (e - 64 - odd) / 2
    let r := isqrt (m * 2 ^ (64 + odd))
    near32 k false (r * pow2num h) (pow2den h)
  | _ => sqrt32 w

/-- The inverse fourth root (R361, R362): NaN below 0, infinite at 0. -/
def nearInvRoot4 (k : Nat) (w : Word) : Word :=
  match dec32 w with
  | .nan => nan32
  | .inf n => if n then nan32 else zero32
  | .fin n m e =>
    if m = 0 then 0x7F800000#32
    else if n then nan32
    else near32 k false (isqrt (isqrt (2 ^ 800 * pow2den e / (m * pow2num e)))) (2 ^ 200)

/-- A magnitude `m × 2^e` with `m` cut to 256 bits. -/
def cut256 (p : Nat × Int) : Nat × Int :=
  let x := Nat.log2 p.1 + 1 - 256
  (p.1 / 2 ^ x, p.2 + x)

/-- The `n`-th power of a magnitude by squaring: fuel, `n`, the base, what has been gathered. -/
def powGo : Nat → Nat → Nat × Int → Nat × Int → Nat × Int
  | 0, _, _, acc => acc
  | f + 1, n, b, acc =>
    let acc := if n % 2 = 1 then cut256 (acc.1 * b.1, acc.2 + b.2) else acc
    if n < 2 then acc else powGo f (n / 2) (cut256 (b.1 * b.1, b.2 + b.2)) acc

/-- A power with a natural exponent (R347, R371). -/
def nearPow (k : Nat) (w : Word) (n : Nat) : Word :=
  match dec32 w with
  | .nan => if n = 0 then one32 else nan32
  | .inf s => if n = 0 then one32 else BitVec.ofNat 32 (Fp.fp32.signed (s && n % 2 == 1) Fp.fp32.infCode)
  | .fin s m e =>
    let p := powGo 33 n (m, e) (1, 0)
    let lead := (Nat.log2 p.1 : Int) + p.2
    let neg := s && n % 2 == 1
    if p.1 = 0 then zero32
    else if 200 < lead then BitVec.ofNat 32 (Fp.fp32.signed neg Fp.fp32.infCode)
    else if lead < -200 then near32 k neg 1 (2 ^ 200)
    else near32 k neg (p.1 * pow2num p.2) (pow2den p.2)

namespace Eng

def div (a b : Word) : Eng Word := do return nearDiv (← free) a b
def sqrt (a : Word) : Eng Word := do return nearSqrt (← free) a
def invRoot4 (a : Word) : Eng Word := do return nearInvRoot4 (← free) a
def pow (a : Word) (n : Nat) : Eng Word := do return nearPow (← free) a n

end Eng

/-! ### The rules on one element (R355 to R358, R371) -/

/-- The immediates of an update command by their names in Table 11-2. -/
structure UpdImm where
  eta : Word
  b1 : Word
  b2 : Word
  eps : Word
  lam : Word
  gscale : Word
  c1 : Word
  c2 : Word
  a1 : Word
  a2 : Word
deriving DecidableEq, Repr, Inhabited

/-- Word `k` of the extension slot. -/
def extWord (b : List Byte) (k : Nat) : Word := BitVec.ofNat 32 (Slot.extField b (4 * k) 4)

/-- The immediates of a command (Table 11-2): MOMENTUM's μ stands at β1; BLOCKPRE's DAMP at ε and TOL at c2. -/
def UpdImm.of (b : List Byte) : UpdImm :=
  let w := extWord b
  if opcodeOf b == 0x50 then ⟨w 0, w 1, 0, 0, w 2, w 3, 0, 0, 0, 0⟩
  else ⟨w 0, w 1, w 2, w 3, w 4, w 5, w 6, w 7, sub32 one32 (w 1), sub32 one32 (w 2)⟩

/-- New values of one element: the exact new weight, m and the second state. -/
structure NewElem where
  w : FV
  m : Word
  v : Word
deriving DecidableEq, Repr, Inhabited

/-- w − d, exact (R347). -/
def minusStep (w d : Word) : FV := (dec32 w).add (dec32 d).neg

/-- The step of a direction with decoupled decay: rne(η · fma(λ, w, u)). -/
def decayedStep (p : UpdImm) (w u : Word) : Word := mul32 p.eta (fma32 p.lam w u)

/-- UPD_MOMENTUM (R356). -/
def momentumElem (p : UpdImm) (w g m : Word) : NewElem :=
  let m := fma32 p.b1 m g
  ⟨minusStep w (decayedStep p w m), m, 0⟩

/-- UPD_ADAPTIVE (R357). -/
def Eng.adaptiveElem (p : UpdImm) (w g m v : Word) : Eng NewElem := do
  let m := fma32 p.b1 m (mul32 p.a1 g)
  let v := fma32 p.b2 v (mul32 p.a2 (mul32 g g))
  let mh := mul32 m p.c1
  let vh := mul32 v p.c2
  let u ← Eng.div mh (add32 (← Eng.sqrt vh) p.eps)
  return ⟨minusStep w (decayedStep p w u), m, v⟩

/-- UPD_FACTORED, phase 3 (R358): `tot` is TOTAL / N. -/
def Eng.factoredElem (p : UpdImm) (tot r c w g : Word) (m : Option Word) : Eng NewElem := do
  let vh ← Eng.div (mul32 r c) tot
  let u ← Eng.div g (← Eng.sqrt vh)
  let m' := fma32 p.b1 (m.getD 0) (mul32 p.a1 u)
  let dir := if m.isSome then m' else u
  return ⟨minusStep w (decayedStep p w dir), if m.isSome then m' else 0, 0⟩

/-- What a sparse row's catch-up uses (R371). -/
structure CatchUp where
  p1 : Word
  p2 : Word
  kd : Word
  c1 : Word
  c2 : Word
deriving DecidableEq, Repr, Inhabited

/-- The powers of R371 for `dt` steps and the row's `n`-th update. -/
def Eng.catchUp (p : UpdImm) (adaptive : Bool) (dt n : Nat) : Eng CatchUp := do
  let p1 ← Eng.pow p.b1 dt
  let p2 ← if adaptive then Eng.pow p.b2 dt else pure 0
  let kd := sub32 one32 (← Eng.pow (sub32 one32 (mul32 p.eta p.lam)) dt)
  if !adaptive then return ⟨p1, p2, kd, 0, 0⟩
  let c1 ← Eng.div one32 (sub32 one32 (← Eng.pow p.b1 n))
  let c2 ← Eng.div one32 (sub32 one32 (← Eng.pow p.b2 n))
  return ⟨p1, p2, kd, c1, c2⟩

/-- One element of a sparse row (R371). -/
def Eng.sparseElem (p : UpdImm) (c : CatchUp) (adaptive : Bool) (w g m v : Word) : Eng NewElem := do
  let step := fun (u : Word) => minusStep w (add32 (mul32 p.eta u) (mul32 w c.kd))
  if adaptive then
    let m := fma32 c.p1 m (mul32 p.a1 g)
    let v := fma32 c.p2 v (mul32 p.a2 (mul32 g g))
    let u ← Eng.div (mul32 m c.c1) (add32 (← Eng.sqrt (mul32 v c.c2)) p.eps)
    return ⟨step u, m, v⟩
  else
    let m := fma32 c.p1 m g
    return ⟨step m, m, 0⟩

/-! ### The block preconditioner (R360 to R362) -/

abbrev Mtx := List (List Word)

def Mtx.at' (a : Mtx) (i j : Nat) : Word := (a.getD i []).getD j 0
def Mtx.transpose (a : Mtx) : Mtx := (List.range 128).map (fun j => (List.range 128).map (fun i => a.at' i j))
def Mtx.build (f : Nat → Nat → Word) : Mtx := (List.range 128).map (fun i => (List.range 128).map (f i))
/-- A product, entry by entry as dot products in index order. -/
def Mtx.mul (a b : Mtx) : Mtx :=
  let bt := b.transpose
  a.map (fun r => bt.map (fun c => dot32 0 r c))
def Mtx.id' : Mtx := Mtx.build (fun i j => if i = j then one32 else zero32)
/-- b2 · S + A Aᵗ. -/
def Mtx.accumulate (b2 : Word) (s a : Mtx) : Mtx :=
  Mtx.build (fun i j => fma32 b2 (s.at' i j) (dot32 0 (a.getD i []) (a.getD j [])))

/-- The first delta of a side (R361). -/
def firstDelta (damp : Word) (s : Mtx) : Word :=
  let tr := (List.range 128).foldl (fun a i => add32 a (s.at' i i)) 0
  let t := mul32 tr 0x3C000000#32
  mul32 damp (if orderKey t < orderKey 0x00800000#32 then 0x00800000#32 else t)

/-- A root found: the matrix, the iterations and the raises used. -/
structure Root where
  x : Mtx
  iters : Nat
  raises : Nat
deriving DecidableEq, Repr, Inhabited

/-- The coupled Newton iterations of one attempt: fuel, the number done, X and M. -/
def newton (tol : Word) : Nat → Nat → Mtx → Mtx → Option (Mtx × Nat)
  | 0, _, _, _ => none
  | f + 1, k, x, m =>
    let t := Mtx.build (fun i j =>
      mul32 (sub32 (if i = j then 0x40A00000#32 else zero32) (m.at' i j)) 0x3E800000#32)
    let x := x.mul t
    let t2 := t.mul t
    let m := (t2.mul t2).mul m
    let err := (List.range 128).flatMap (fun i => (List.range 128).map (fun j =>
      abs32 (sub32 (m.at' i j) (if i = j then one32 else zero32))))
    if err.all (fun e => !isNan32 e && decide (orderKey e ≤ orderKey tol)) then some (x, k + 1)
    else newton tol f (k + 1) x m

/-- The attempts of a root with the damping raised (R361): attempts left, raises so far, delta. -/
def Eng.rootTries (tol : Word) (s : Mtx) : Nat → Nat → Word → Eng (Option Root)
  | 0, _, _ => pure none
  | f + 1, raises, delta => do
    let a := Mtx.build (fun i j => if i = j then add32 (s.at' i j) delta else s.at' i j)
    let c ← Eng.sqrt (a.foldl (fun acc r => r.foldl (fun acc x => fma32 x x acc) acc) 0)
    let again := Eng.rootTries tol s f (raises + 1) (mul32 delta 0x41200000#32)
    if isZero32 c || !isFin32 c || (List.range 128).any (fun i => !(decide (orderKey (a.at' i i) > 0)) || isNan32 (a.at' i i)) then again
    else
      let x0 ← Eng.invRoot4 c
      let m ← a.mapM (fun r => r.mapM (fun y => Eng.div y c))
      match newton tol 12 0 (Mtx.build (fun i j => if i = j then x0 else zero32)) m with
      | some (x, k) => return some ⟨x, k, raises⟩
      | none => again

/-- root(S) (R361). -/
def Eng.root (damp tol : Word) (s : Mtx) : Eng (Option Root) := Eng.rootTries tol s 4 0 (firstDelta damp s)

/-- The diagonal rule (R362). -/
def Eng.diagonal (damp : Word) (l r g : Mtx) : Eng Mtx := do
  let side := fun (s : Mtx) => (List.range 128).mapM (fun i => Eng.invRoot4 (add32 (s.at' i i) (firstDelta damp s)))
  let ll ← side l
  let lr ← side r
  return Mtx.build (fun i j => mul32 (mul32 (g.at' i j) (ll.getD i 0)) (lr.getD j 0))

/-- What a block's step leaves: its matrices, its direction, its status word, and how its roots went. -/
structure BlockPre where
  l : Mtx
  r : Mtx
  pl : Mtx
  pr : Mtx
  dir : Mtx
  status : Word
  failed : Bool
  rooted : Bool
  raises : Nat
deriving DecidableEq, Repr, Inhabited

/-- One 128 × 128 block (R360 to R362, Table 11-4). -/
def Eng.blockPre (p : UpdImm) (root : Bool) (l r pl pr g : Mtx) (status : Word) : Eng BlockPre := do
  let l := Mtx.accumulate p.b2 l g
  let r := Mtx.accumulate p.b2 r g.transpose
  let (xl, xr) ← if root then do
      let a ← Eng.root p.eps p.c2 l
      let b ← Eng.root p.eps p.c2 r
      pure (a, b)
    else pure (none, none)
  let ok := xl.isSome && xr.isSome
  let failed := root && !ok
  let pl := if ok then (xl.map (·.x)).getD [] else pl
  let pr := if ok then (xr.map (·.x)).getD [] else pr
  let raise := fun (x : Option Root) => if root then (x.map (·.raises)).getD 3 else 0
  let status := status &&& 0xFFFF00FF#32
  let st := if !root then status
    else
      let st := (status.setField 3 2 (max (raise xl) (raise xr))).setField 1 1 (if failed then 1 else 0)
      if failed then st.bump 31 16 1
      else (st.setField 7 4 (max ((xl.map (·.iters)).getD 0) ((xr.map (·.iters)).getD 0))).setField 0 0 1
  let dir ← if failed || !st.bit 0 then Eng.diagonal p.eps l r g else pure (Mtx.mul (Mtx.mul pl g) pr)
  return ⟨l, r, pl, pr, dir, st, failed, ok, raise xl + raise xr⟩

end Sys2Proof.Machine
end

