-- ==== Sys2Proof/Machine/Cooper.lean ====
section
/-! DEFINITION. The update engine (chapter 11): placement, the dense rules tile by tile, the copies, the factored rule's
phases, sparse rows. -/

namespace Sys2Proof.Machine

/-! ### The command (R349 to R354) -/

/-- An update command as decoded. -/
structure Upd where
  b : List Byte
  master : Desc
  rem : Option Desc
  grad : Scaled
  m : Option Scaled
  second : Option Scaled
  fwd : Option Scaled
  trn : Option Scaled
  touch : Option Desc
deriving Repr, Inhabited

namespace Upd

def of (b : List Byte) (ops : List (Option Scaled)) : Upd :=
  let g := fun k => ops.getD k none
  ⟨b, ((g 0).getD default).d, (g 1).map (·.d), (g 2).getD default, g 3, g 4, g 5, g 6, (g 7).map (·.d)⟩

def op (u : Upd) : Nat := opcodeOf u.b
def regen (u : Upd) : Bool := u.op == 0x54
def gt (u : Upd) : Bool := (Slot.extField u.b 62 1).testBit 0
def root (u : Upd) : Bool := (Slot.extField u.b 62 1).testBit 1
def sparse (u : Upd) : Bool := u.op ≤ 0x51 && Slot.extField u.b 50 6 != 0
def header (u : Upd) : Nat := Slot.extField u.b 44 6
def status (u : Upd) : Nat := Slot.extField u.b 50 6
def countAt (u : Upd) : Nat := Slot.extField u.b 56 6
def step (u : Upd) : Word := cmdStep u.b
def imm (u : Upd) : UpdImm := UpdImm.of u.b
def copy (u : Upd) : Desc := ((u.fwd <|> u.trn).map (·.d)).getD default
/-- K and N (R353). -/
def k (u : Upd) : Nat :=
  if u.regen then (if u.fwd.isSome then u.copy.ext 0 else u.copy.ext 1)
  else if u.gt then u.grad.d.ext 1 else u.grad.d.ext 0
def n (u : Upd) : Nat :=
  if u.regen then (if u.fwd.isSome then u.copy.ext 1 else u.copy.ext 0)
  else if u.gt then u.grad.d.ext 0 else u.grad.d.ext 1
def mats (u : Upd) : Nat := if u.regen then u.copy.ext 2 else u.grad.d.ext 2
def tk (u : Upd) : Nat := ceilDiv u.k 256
def tn (u : Upd) : Nat := ceilDiv u.n 256
def tiles (u : Upd) : Nat := u.tk * u.tn * u.mats

end Upd

/-- A tile's place (R349). -/
structure TilePos where
  tau : Nat
  mat : Nat
  a : Nat
  b : Nat
deriving DecidableEq, Repr, Inhabited

def Upd.pos (u : Upd) (tau : Nat) : TilePos :=
  let t := tau % max 1 (u.tk * u.tn)
  ⟨tau, tau / max 1 (u.tk * u.tn), t % max 1 u.tk, t / max 1 u.tk⟩

/-- The address of a row, numbered by R200. -/
def Desc.rowAddr (d : Desc) (r : Nat) : Nat := d.base + d.rowOffset (d.coordsDistinct r)

/-- The stack that holds a row whole, and one granule whether it lies in one (R350, R370). -/
def Desc.rowStack (s : State) (d : Desc) (r : Nat) : Option Nat × Bool :=
  let a := d.rowAddr r
  let z := a + d.rowBytes - 1
  match placeOf s a, placeOf s z with
  | .stack x _, .stack y _ => (if x == y then some x else none, a / 4096 == z / 4096)
  | _, _ => (none, false)

/-- The master, the remainder and the per-element states. -/
def Upd.elementTensors (u : Upd) : List Desc :=
  [u.master] ++ u.rem.toList ++ (u.m.map (·.d)).toList ++ (if u.op == 0x51 then (u.second.map (·.d)).toList else [])

/-- A tile's home stack, when every byte of it lies there (R350). -/
def Upd.home (s : State) (u : Upd) (tau : Nat) : Option Nat :=
  let rs := rangeFrom (256 * tau) 256
  let all := u.elementTensors.flatMap (fun d => rs.map (fun r => (d.rowStack s r).1)) ++
    (if u.op == 0x53 then (rangeFrom (2048 * tau) 2048).map (fun r => ((u.second.getD default).d.rowStack s r).1) else [])
  match all.head? with
  | some (some x) => if all.all (fun y => y == some x) then some x else none
  | _ => none

/-- A table row's stack in the sparse form (R370). -/
def Upd.rowHome (s : State) (u : Upd) (r : Nat) : Option Nat :=
  let all := u.elementTensors.map (fun d => d.rowStack s r)
  match all.head? with
  | some (some x, _) => if all.all (fun y => y.1 == some x && y.2) then some x else none
  | _ => none

/-- The operands that an update command names (Table 11-1), in the order `Upd.of` takes them. -/
def updUses (b : List Byte) : List (Nat × Use) :=
  let op := opcodeOf b
  let w := fun (f : Nat → Bool) => Use.output f
  let rd := fun (f : Nat → Bool) => (⟨f, false, false, false, true⟩ : Use)
  let state := fun (c : Nat) => c == dtFp32 || c == dtBf16
  let x := fun lo => Slot.extField b lo 6
  let master := if op == 0x54 then rd (· == dtBf16) else w (· == dtBf16)
  let rem := if op == 0x54 then rd (· == dtU8) else w (· == dtU8)
  [(Slot.d b 0, master), (Slot.d b 1, rem), (Slot.d b 2, rd (fun c => c == dtFp32 || c == dtBf16 || loomType c)),
   (Slot.d b 3, w state), (Slot.d b 4, w (if op == 0x51 then state else (· == dtFp32))),
   (x 32, ⟨loomType, true, false, false, true⟩), (x 38, ⟨loomType, true, false, false, true⟩),
   (if op ≤ 0x51 then x 50 else 0, Use.input (fun c => c == dtInt32 || c == dtInt64))]

/-- Words of the factor area of one matrix (R358). -/
def Upd.factorWords (u : Upd) : Nat := 2 * 256 * (u.tn + u.tk) + 16

/-- A copy operand breaks R365. -/
def Upd.copyBad (u : Upd) (d : Desc) (fwd : Bool) : Bool :=
  !d.woven || d.smode != 0 || 2 ≤ d.rot ||
  d.ext 0 != 256 * (if fwd then u.tk else u.tn) || d.ext 1 != 256 * (if fwd then u.tn else u.tk) || d.ext 2 != u.mats

/-- The checks of Table 11-3 that follow Table 6-2, highest row first. -/
def updChecks (s : State) (u : Upd) : List (Nat × Nat) :=
  let b := u.b
  let op := u.op
  let ws := (List.range 8).map (extWord b)
  let used := if op == 0x50 then 4 else if op == 0x52 then 6 else if op == 0x54 then 0 else 8
  let unit := fun (w : Word) => decide (0 ≤ orderKey w) && decide (orderKey w ≤ orderKey one32)
  let bad := (ws.take used).any (fun w => !isFin32 w) || (op != 0x54 && !unit (ws.getD 1 0)) ||
    (0x51 ≤ op && op != 0x54 && !unit (ws.getD 2 0)) || (op == 0x53 && orderKey (ws.getD 3 0) ≤ 0) ||
    (u.root && op != 0x53)
  let missing := [Slot.d b 0] ++
    (if op == 0x54 then [Slot.extField b 32 6 + Slot.extField b 38 6]
     else [Slot.d b 1, Slot.d b 2, u.header] ++ (if op == 0x52 then [] else [Slot.d b 3]) ++
      (if op == 0x50 then [] else [Slot.d b 4]) ++ (if op == 0x53 then [u.status] else []))
  let rows := u.master.rows
  let d := u.grad.d
  let shape := u.master.layout != 0 || u.master.smode != 0 ||
    (u.elementTensors.drop 1).any (fun t => t.layout != 0 || t.smode != 0 || t.ext 0 != u.master.ext 0 || t.rows != rows)
  let dense := u.master.ext 0 != 256 || rows != 256 * u.tiles ||
    (!u.regen && (List.range 3).any (fun i => d.ext (i + 3) != 1)) ||
    u.fwd.any (fun c => u.copyBad c.d true) || u.trn.any (fun c => u.copyBad c.d false) ||
    (op == 0x52 && u.second.any (fun f => f.d.span < 4 * u.factorWords * u.mats ||
      (match placeOf s f.d.base with | .stack .. => false | _ => true))) ||
    (op == 0x53 && u.second.any (fun f => f.d.ext 0 != 128 || f.d.rows != 2048 * u.tiles || f.d.layout != 0)) ||
    (List.range u.tiles).any (fun t => (u.home s t).isNone)
  let sparse := u.countAt == 0 || u.countAt % 4 != 0 || u.fwd.isSome || u.trn.isSome || d.ext 0 != u.master.ext 0 ||
    (List.range rows).any (fun r => (u.rowHome s r).isNone)
  (if bad then [(11, 1)] else []) ++
  (if missing.any (fun x => x == 0) || (!u.regen && u.header % 4 != 0) || u.status % (if op == 0x53 then 4 else 1) != 0 || shape ||
    (if u.sparse then sparse else dense || u.countAt != 0) then [(12, 3)] else [])

/-! ### Counters and small accesses -/

def Eng.onSDie (st : Nat) (f : SDie → SDie) : Eng Unit := Eng.onState (fun s => s.modSDie (Fin.ofNat 12 st) f)

/-- A skip counted (R363, R372); one for a non-finite value sets GRAD_SKIP. -/
def Eng.skipTile (st : Nat) (nonfinite : Bool) : Eng Unit := do
  Eng.onSDie st (fun d => { d with cprEvent := d.cprEvent.bump 15 0 1 })
  Eng.status nonfinite jsGradSkip

/-- A step mismatch on an S-die (R364, R371). -/
def Eng.mismatch (st : Nat) : Eng Unit := do
  Eng.onSDie st (fun d => { d with cprEvent := d.cprEvent.bump 31 24 1 })
  Eng.onState (fun s => s.raise (256 + st))

/-- Bytes written back poisoned as they stand (R377). -/
def Eng.spoil (a n : Nat) : Eng Unit := do
  let g ← Eng.get' a n .stream
  Eng.wr a g.data .stream true

/-- `n` FP32 words from an address, with a tensor's hint. -/
def Eng.wordsAt (h : Hint) (a n : Nat) : Eng (List Word × Bool) := do
  let (b, p) ← Eng.rd a (4 * n) h
  return ((List.range n).map (fun i => BitVec.ofNat 32 (slotField b (4 * i) 4)), p)

/-- `n` FP32 words from an address that no descriptor names. -/
def Eng.words (a n : Nat) : Eng (List Word × Bool) := Eng.wordsAt .stream a n

def wordBytes (l : List Word) : List Byte := l.flatMap (fun w => leBytes 4 w.toNat)

/-- The codes of row `r` of a row-major tensor. -/
def Eng.codesAt (d : Desc) (r : Nat) : Eng (List Nat × Bool) := do
  let c ← Eng.readRowAt d (d.rowAddr r) (d.ext 0)
  return (c.codes, c.poison)

/-- A row of a state tensor in FP32; zeros where it is not named. -/
def Eng.stateRow (x : Option Scaled) (r n : Nat) : Eng (List Word × Bool) :=
  match x with
  | none => pure (List.replicate n 0, false)
  | some x => do
    let (c, p) ← Eng.codesAt x.d r
    return (c.map (fun k => decodeElem x.d.dtype k 0 x.t one32), p)

/-- A row of a state tensor written, with RNE from its FP32 values (R347). -/
def Eng.putState (x : Option Scaled) (r : Nat) (vs : List Word) : Eng Unit :=
  match x with
  | none => pure ()
  | some x => do
    let subn := (← Eng.context).cfg.bit 2
    let qs := vs.map (quantPlain x.d.dtype .rne subn noGen (tInv x.t one32))
    Eng.status (qs.any (fun q => q.flushed)) jsSubnFlush
    Eng.wr (x.d.rowAddr r) (rowImage x.d vs.length (qs.flatMap (fun q => q.codes)) []) x.d.hint false

/-! ### Reading a tile -/

/-- A row of master and remainder as 24-bit weights (R66); an absent remainder reads as 0. -/
def Eng.weightRow (u : Upd) (r : Nat) : Eng (List Word × Bool) := do
  let (m, p) ← Eng.codesAt u.master r
  let (x, q) ← match u.rem with
    | some d => Eng.codesAt d r
    | none => pure (List.replicate m.length 0, false)
  return (List.zipWith ofMaster m x, p || q)

/-- The gradient's elements `32·g0` to `32·g0 + 255` of one of its rows (R45). -/
def Eng.gradSpan (x : Scaled) (idx : List Nat) (g0 n : Nat) : Eng (List Word × Bool) := do
  let (t, tp) ← Eng.rowT x idx
  let gs ← (List.range n).mapM (fun i => Eng.group ⟨x, false, idx, 0⟩ (x.d.ext 0) (g0 + i))
  return (gs.flatMap (fun g => g.lanes.map (fun l => rne32 ((l.value.mul (dec32 t)).mul (dec32 g.g)))),
    tp || gs.any (fun g => g.poison))

/-- The gradient of a tile by rows n and columns k (R353, R355); padding reads as zero. -/
def Eng.gradTile (u : Upd) (t : TilePos) : Eng (List (List Word) × Bool) := do
  let x := u.grad
  let (r0, g0) := if u.gt then (256 * t.a, 8 * t.b) else (256 * t.b, 8 * t.a)
  let rs ← (List.range 256).mapM (fun i =>
    if r0 + i < x.d.ext 1 then Eng.gradSpan x [r0 + i, t.mat, 0, 0, 0] g0 8
    else pure (List.replicate 256 0, false))
  let rows := rs.map (·.1)
  return (if u.gt then (List.range 256).map (columnOf rows) else rows, rs.any (·.2))

/-- Whether any of the tile's scale blocks of the gradient is flagged for the step (R177, R363), and the poison of the flag
words. -/
def Eng.tileFlagged (u : Upd) (t : TilePos) : Eng (Bool × Bool) := do
  let d := u.grad.d
  if d.smode != 2 then return (false, false)
  let (r0, i0) := if u.gt then (256 * t.a, 256 * t.b) else (256 * t.b, 256 * t.a)
  let fs ← [(r0, i0), (r0 + 128, i0), (r0, i0 + 128), (r0 + 128, i0 + 128)].mapM (fun p =>
    if p.1 < d.ext 1 && p.2 < d.ext 0 then do
      let (w, q) ← Eng.wordP (d.flagAt + 4 * d.scaleBlock [p.1, t.mat, 0, 0, 0] p.2) 4
      return (w == u.step.toNat, q)
    else pure (false, false))
  return (fs.any (fun f => f.1), fs.any (fun f => f.2))

/-! ### Copies (R365 to R368) -/

/-- A column of a copy on its way: its values, the two positions kept in each quad, its block scales. -/
structure CopyCol where
  ys : List Word
  pos : List (Nat × Nat)
  scales : List Nat
deriving DecidableEq, Repr, Inhabited

/-- The two positions of a quad that WOVEN_24 keeps, in rising order (R366). -/
def quadKept (q : List Word) : Nat × Nat :=
  let ix := (List.range 4).foldl (fun l i => insertOutlier (i, q.getD i 0) l) []
  let a := (ix.getD 0 (0, 0)).1
  let b := (ix.getD 1 (0, 0)).1
  (min a b, max a b)

/-- The block scales of a column's values and how many clamp; a block with a non-finite value is a NaN block. `out` marks
the values left out of amax (R132). -/
def copyScales (c : Nat) (ys : List Word) (out : List Bool) : List Nat × Nat × Bool :=
  if !isBlock c then ([], 0, false)
  else
    let rs := (chunks (blockSize c) (ys.length + 1) (ys.zip (out ++ List.replicate ys.length false))).map (fun b =>
      if b.any (fun y => !isFin32 y.1) then (nanScale c, false, true)
      else
        let a := (b.map (fun y => if y.2 then 0#32 else y.1)).foldl maxMag 0
        if isMx c then
          let (x, t, l) := mxScale c a
          ((x + 127).toNat, t || l, false)
        else
          let (k, t, l) := fineScale c a
          (k, t || l, false))
    (rs.map (·.1), (rs.filter (·.2.1)).length, rs.any (·.2.2))

/-- One element of a copy quantised with SR (R366). -/
def Eng.copyElem (c : Nat) (subn : Bool) (y : Word) (scale : Nat) : Eng Nat := do
  let (k, f) ← Eng.withGen (fun g =>
    if isBlock c then
      let (k, g, f) := quantElem c .sr g subn y (scaleValue c scale)
      ((k, f), g)
    else
      let q := quantPlain c .sr subn g one32 y
      ((q.codes.headD 0, q.flushed), q.gen))
  Eng.status f jsSubnFlush
  return k

/-- One group record of a copy: strands in address order, then the scale strips (R203, R204, R367). -/
def Eng.copyRecord (d : Desc) (subn : Bool) (cols : List CopyCol) (g : Nat) : Eng (List Byte) := do
  let c := d.dtype
  let bs := max 1 (blockSize c)
  let elem := fun (col k : Nat) => do
    let x := cols.getD col default
    Eng.copyElem c subn (x.ys.getD (32 * g + k) 0) (x.scales.getD ((32 * g + k) / bs) 0)
  let strands ← (List.range 16).mapM (fun t =>
    if d.layout == 2 then do
      let codes ← (List.range 8).mapM (fun q => (List.range 2).mapM (fun i => (List.range 8).mapM (fun k =>
        let p := (cols.getD (8 * t + k) default).pos.getD (8 * g + q) (0, 1)
        elem (8 * t + k) (4 * q + if i = 0 then p.1 else p.2))))
      let pos := (List.range 8).flatMap (fun k => (List.range 4).map (fun h =>
        let p := fun q => (cols.getD (8 * t + k) default).pos.getD (8 * g + q) (0, 1)
        BitVec.ofNat 8 ((p (2 * h)).1 + 4 * (p (2 * h)).2 + 16 * (p (2 * h + 1)).1 + 64 * (p (2 * h + 1)).2)))
      return packElems c codes.flatten.flatten ++ pos
    else do
      let codes ← (List.range 32).mapM (fun k => (List.range 8).mapM (fun i => elem (8 * t + i) k))
      return packElems c codes.flatten)
  let per := 32 / bs
  let strips := (List.range (d.stripBytes / 128)).flatMap (fun h =>
    cols.map (fun x => BitVec.ofNat 8 (x.scales.getD (g * per + h) 0)))
  return strands.flatten ++ strips

/-- One copy of a tile regenerated from its columns along the copy's K axis (R366). -/
def Eng.writeCopy (x : Scaled) (st mat blk col0 : Nat) (vals : List (List Word)) : Eng Unit := do
  let d := x.d
  let ctx ← Eng.context
  let subn := ctx.cfg.bit 2
  let ti := tInv x.t one32
  let idx := fun (i : Nat) => [col0 + i, mat, 0, 0, 0]
  let cols ← ((List.range vals.length).zip vals).mapM (fun p => do
    let ys := p.2.map (fun v => mul32 v ti)
    let (ys, out) ← if d.rot == 1 then do
        let ys := rotate (rotSigns d.fseed blk) ys
        if d.outlierAt == 0 then pure (ys, [])
        else do
          let e := extract (ctx.fbCfg.field 15 12) ys
          let (l, f) := storedValues subn (listValues .rne noGen e.list).1
          Eng.status f jsSubnFlush
          Eng.wr (d.listAt (d.rowIndex (idx p.1)) blk) (listBytes l (e.ovr.any id)) .stream false
          if e.ovr.any id then Eng.onSDie st (fun d => { d with cprCopy := d.cprCopy.bump 15 0 1 })
          pure (e.vals, e.ovr)
      else pure (ys, [])
    let pos := if d.layout == 2 then (chunks 4 65 ys).map quadKept else []
    let kept := if d.layout == 2 then ((List.range ys.length).zip ys).map (fun q =>
        let k := pos.getD (q.1 / 4) (0, 1)
        if q.1 % 4 == k.1 || q.1 % 4 == k.2 then q.2 else 0) else ys
    let (sc, clamps, nan) := copyScales d.dtype kept out
    Eng.status (clamps != 0) jsScaleClamp
    Eng.status nan jsQnan
    Eng.onSDie st (fun d => { d with cprCopy := d.cprCopy.bump 31 16 clamps })
    if d.bitmapAt != 0 then
      let bits := (chunks 32 9 kept).map (fun g => g.any (fun y => !isZero32 y))
      Eng.wr (d.bitmapAt + d.rowIndex (idx p.1) * d.bitmapPitch + blk)
        [BitVec.ofNat 8 (packBits 1 (bits.map (fun b => if b then 1 else 0)))] .stream false
    return (⟨kept, pos, sc⟩ : CopyCol))
  (List.range 2).forM (fun p => (List.range 8).forM (fun g => do
    let r ← Eng.copyRecord d subn ((cols.drop (128 * p)).take 128) g
    Eng.wr (d.base + d.rowOffset (idx (128 * p)) + (8 * blk + g) * d.recordBytes) r d.hint false))

/-- The copies of a tile from its 24-bit values, by rows n and columns k: the forward one first. -/
def Eng.copies (u : Upd) (st : Nat) (t : TilePos) (w : List (List Word)) : Eng Unit := do
  match u.fwd with
  | some x => Eng.writeCopy x st t.mat t.a (256 * t.b) w
  | none => pure ()
  match u.trn with
  | some x => Eng.writeCopy x st t.mat t.b (256 * t.a) ((List.range 256).map (columnOf w))
  | none => pure ()

/-- Runs of addresses joined where one begins where the one before ends. -/
def joined (l : List (Nat × Nat)) : List (Nat × Nat) :=
  l.foldr (fun p r => match r with
    | q :: r => if p.1 + p.2 == q.1 then (p.1, p.2 + q.2) :: r else p :: q :: r
    | [] => [p]) []

/-- The addresses of every output of a tile (R377). -/
def Upd.outputs (u : Upd) (t : TilePos) : List (Nat × Nat) :=
  let copy := fun (x : Option Scaled) (blk col0 : Nat) => x.toList.flatMap (fun x => (List.range 16).map (fun i =>
    (x.d.base + x.d.rowOffset [col0 + 128 * (i / 8), t.mat, 0, 0, 0] + (8 * blk + i % 8) * x.d.recordBytes, x.d.recordBytes)))
  let d := (u.second.getD default).d
  joined (copy u.fwd t.a (256 * t.b) ++ copy u.trn t.b (256 * t.a) ++
    (if u.op == 0x53 then (rangeFrom (2048 * t.tau) 2048).map (fun r => (d.rowAddr r, 512)) ++ [(u.status + 16 * t.tau, 16)]
     else []) ++
    (if u.regen then []
     else u.elementTensors.reverse.flatMap (fun d => (rangeFrom (256 * t.tau) 256).map (fun r => (d.rowAddr r, d.rowBytes)))))

/-- Every output of a tile poisoned (R377). -/
def Eng.spoilTile (u : Upd) (t : TilePos) : Eng Unit := do
  (u.outputs t).forM (fun p => Eng.spoil p.1 p.2)
  Eng.consume true

/-! ### A dense tile (R349 to R363, R377) -/

/-- The new values of a tile by rows, its blocks' records, and what its reading met. -/
structure TileNew where
  rows : List (List NewElem)
  blocks : List BlockPre
  poison : Bool
  bad : Bool
deriving Repr, Inhabited

/-- A quarter of a tile: rows and columns from 128·h and 128·c. -/
def quarter (a : List (List Word)) (h c : Nat) : Mtx :=
  ((a.drop (128 * h)).take 128).map (fun r => (r.drop (128 * c)).take 128)

/-- A record's matrix `i` (R360). -/
def Eng.recordMtx (d : Desc) (rec' i : Nat) : Eng (Mtx × Bool) := do
  let rs ← (rangeFrom (512 * rec' + 128 * i) 128).mapM (fun r => Eng.wordsAt d.hint (d.rowAddr r) 128)
  return (rs.map (·.1), rs.any (·.2))

/-- The four blocks of a tile (R360). -/
def Eng.tileBlocks (u : Upd) (t : TilePos) (g : List (List Word)) : Eng (List BlockPre × Bool) := do
  let d := (u.second.getD default).d
  let bs ← (List.range 4).mapM (fun q => do
    let k := 4 * t.tau + q
    let (l, p0) ← Eng.recordMtx d k 0
    let (r, p1) ← Eng.recordMtx d k 1
    let (pl, p2) ← Eng.recordMtx d k 2
    let (pr, p3) ← Eng.recordMtx d k 3
    let (st, p4) ← Eng.words (u.status + 4 * k) 1
    let x ← Eng.blockPre u.imm u.root l r pl pr (quarter g (q / 2) (q % 2)) (st.headD 0)
    return (x, p0 || p1 || p2 || p3 || p4))
  return (bs.map (·.1), bs.any (·.2))

/-- The factor words of a tile: r of its rows, c of its columns, TOTAL / N (R358). -/
def Eng.tileFactors (u : Upd) (t : TilePos) : Eng (List Word × List Word × Word × Bool) := do
  let d := (u.second.getD default).d
  let base := d.base + 4 * u.factorWords * t.mat
  let (r, p) ← Eng.wordsAt d.hint (base + 4 * (256 * t.b)) 256
  let (c, q) ← Eng.wordsAt d.hint (base + 4 * (256 * u.tn + 256 * t.a)) 256
  let (tot, z) ← Eng.wordsAt d.hint (base + 4 * (512 * (u.tn + u.tk))) 1
  let tn ← Eng.div (tot.headD 0) (rneFrac false u.n 1)
  return (r, c, tn, p || q || z)

/-- One row of a tile under its rule. -/
def Eng.tileRow (u : Upd) (t : TilePos) (i : Nat) (w g m v dir r : List Word) (c : List Word) (tot : Word) :
    Eng (List NewElem) :=
  (List.range 256).mapM (fun k => do
    let e := fun (l : List Word) => l.getD k 0
    if u.n ≤ 256 * t.b + i || u.k ≤ 256 * t.a + k then return ⟨zeroFV, 0, 0⟩
    else if u.op == 0x50 then return momentumElem u.imm (e w) (e g) (e m)
    else if u.op == 0x51 then Eng.adaptiveElem u.imm (e w) (e g) (e m) (e v)
    else if u.op == 0x52 then
      Eng.factoredElem u.imm tot (r.getD i 0) (e c) (e w) (e g) (if u.m.isSome then some (e m) else none)
    else
      let p := u.imm
      let m := fma32 p.b1 (e m) (mul32 p.a1 (e dir))
      return ⟨minusStep (e w) (decayedStep p (e w) (mul32 m p.c1)), m, 0⟩)

/-- The new values of a tile. -/
def Eng.tileNew (u : Upd) (t : TilePos) (g : List (List Word)) : Eng TileNew := do
  let (bs, bp) ← if u.op == 0x53 then Eng.tileBlocks u t g else pure ([], false)
  let (r, c, tot, fp) ← if u.op == 0x52 then Eng.tileFactors u t else pure ([], [], 0, false)
  let rows ← (List.range 256).mapM (fun i => do
    let (w, p0) ← Eng.weightRow u (256 * t.tau + i)
    let (m, p1) ← Eng.stateRow u.m (256 * t.tau + i) 256
    let (v, p2) ← if u.op == 0x51 then Eng.stateRow u.second (256 * t.tau + i) 256 else pure ([], false)
    let dir := ((bs.getD (2 * (i / 128)) default).dir.getD (i % 128) []) ++
      ((bs.getD (2 * (i / 128) + 1) default).dir.getD (i % 128) [])
    let x ← Eng.tileRow u t i w (g.getD i []) m v dir r c tot
    return (x, p0 || p1 || p2))
  let finite := fun (x : NewElem) => x.w.isFin && isFin32 (rne32 x.w) && isFin32 x.m && isFin32 x.v
  let mats := bs.any (fun b => (b.l ++ b.r ++ b.pl ++ b.pr).any (fun r => r.any (fun w => !isFin32 w)))
  return ⟨rows.map (·.1), bs, bp || fp || rows.any (·.2), mats || rows.any (fun r => r.1.any (fun x => !finite x))⟩

/-- Whether a captured weight has left the finite range. -/
def masterInf (w : Nat × Nat × Bool) : Bool := w.1 / 128 % 256 == 255

/-- The blocks' records and status words written, and their events counted (R360 to R362). -/
def Eng.putBlocks (u : Upd) (st : Nat) (t : TilePos) (bs : List BlockPre) : Eng Unit := do
  let d := (u.second.getD default).d
  let subn := (← Eng.context).cfg.bit 2
  ((List.range bs.length).zip bs).forM (fun p => do
    let k := 4 * t.tau + p.1
    ((List.range 4).zip [p.2.l, p.2.r, p.2.pl, p.2.pr]).forM (fun m =>
      ((List.range 128).zip m.2).forM (fun r => do
        let ws := r.2.map (flush32 subn)
        Eng.status (ws.any (fun w => w.2)) jsSubnFlush
        Eng.wr (d.rowAddr (512 * k + 128 * m.1 + r.1)) (wordBytes (ws.map (fun w => w.1))) d.hint false))
    Eng.wr (u.status + 4 * k) (leBytes 4 p.2.status.toNat) .stream false
    Eng.status p.2.failed jsPrecondDiag
    Eng.onSDie st (fun d => { d with
      cprEvent := d.cprEvent.bump 23 16 (if p.2.failed then 1 else 0)
      cprRoot := (d.cprRoot.bump 31 16 p.2.raises).bump 15 0 (if p.2.rooted then 1 else 0) }))

/-- A tile's new values written: copies, then state, records and status, then remainder and master (R377). -/
def Eng.putTile (u : Upd) (st : Nat) (t : TilePos) (x : TileNew) (caps : List (List (Nat × Nat × Bool))) : Eng Unit := do
  Eng.copies u st t (caps.map (fun r => r.map (fun c => ofMaster c.1 c.2.1)))
  ((List.range 256).zip x.rows).forM (fun p => do
    Eng.putState u.m (256 * t.tau + p.1) (p.2.map (·.m))
    if u.op == 0x51 then Eng.putState u.second (256 * t.tau + p.1) (p.2.map (·.v)))
  Eng.putBlocks u st t x.blocks
  ((List.range 256).zip caps).forM (fun p => do
    Eng.status (p.2.any (fun c => c.2.2)) jsSubnFlush
    match u.rem with
    | some d => Eng.wr (d.rowAddr (256 * t.tau + p.1)) (rowImage d 256 (p.2.map (fun c => c.2.1)) []) d.hint false
    | none => pure ())
  ((List.range 256).zip caps).forM (fun p =>
    Eng.wr (u.master.rowAddr (256 * t.tau + p.1)) (rowImage u.master 256 (p.2.map (·.1)) []) u.master.hint false)
  Eng.onSDie st (fun d => { d with cprElems := (d.cprElems + 65536) % 2 ^ 64 })

/-- One tile of a dense update (R355 to R363), or of the factored rule's last phase. -/
def Eng.denseTile (u : Upd) (st : Nat) (t : TilePos) : Eng Unit := do
  let (flagged, fp) ← Eng.tileFlagged u t
  if fp then Eng.spoilTile u t
  else if flagged then Eng.skipTile st false
  else
    let (x, p) ← Eng.gradTile u t
    let g := x.map (fun r => r.map (mul32 u.imm.gscale))
    if p then Eng.spoilTile u t
    else if x.any (fun r => r.any (fun w => !isFin32 w)) then Eng.skipTile st true
    else
      let y ← Eng.tileNew u t g
      if y.poison then Eng.spoilTile u t
      else
        let subn := (← Eng.context).cfg.bit 2
        let caps := y.rows.map (fun r => r.map (fun e => masterOf subn e.w))
        if y.bad || caps.any (fun r => r.any masterInf) then Eng.skipTile st true
        else Eng.putTile u st t y caps

/-- One tile of REGENERATE (R369). -/
def Eng.regenTile (u : Upd) (st : Nat) (t : TilePos) : Eng Unit := do
  let rs ← (rangeFrom (256 * t.tau) 256).mapM (Eng.weightRow u)
  if rs.any (·.2) then Eng.spoilTile u t
  else
    Eng.copies u st t (rs.map (·.1))
    Eng.onSDie st (fun d => { d with cprElems := (d.cprElems + 65536) % 2 ^ 64 })

/-! ### The factored rule's first phases (R358, R359) -/

/-- Where the words of a matrix's factor area stand: r, c, racc, cacc, TOTAL. -/
def Upd.factorAt (u : Upd) (mat part i : Nat) : Nat :=
  let np := 256 * u.tn
  let kp := 256 * u.tk
  let off := match part with
    | 0 => 0 | 1 => np | 2 => np + kp | 3 => 2 * np + kp | _ => 2 * (np + kp)
  (u.second.getD default).d.base + 4 * (u.factorWords * mat + off + i)

/-- Phase 0: racc, cacc and TOTAL zeroed. -/
def Eng.factorZero (u : Upd) : Eng Unit :=
  (List.range u.mats).forM (fun m => do
    let n := 256 * (u.tn + u.tk) + 16
    Eng.wr (u.factorAt m 2 0) (List.replicate (4 * n) 0) (u.second.getD default).d.hint false)

/-- An FP32 add of the command at the adders. -/
def Eng.factorAdd (u : Upd) (poison : Bool) (a : Nat) (w : Word) : Eng Unit :=
  Eng.add false a dtFp32 false poison (u.second.getD default).d.hint (cmdId u.b) u.step (leBytes 4 w.toNat)

/-- Phase 1 of one tile: its rows' and columns' sums of q. A poisoned input sends poisoned adds, and poisons the tile's
outputs (R377). -/
def Eng.factorSums (u : Upd) (t : TilePos) : Eng Unit := do
  let (flagged, fp) ← Eng.tileFlagged u t
  if fp || !flagged then
    let (x, gp) ← Eng.gradTile u t
    let p := fp || gp
    if p || !x.any (fun r => r.any (fun w => !isFin32 w)) then
      let q := fun (w : Word) =>
        let g := mul32 u.imm.gscale w
        add32 (mul32 g g) u.imm.eps
      let ns := min 256 (u.n - 256 * t.b)
      let ks := min 256 (u.k - 256 * t.a)
      let qs := (x.take ns).map (fun r => (r.take ks).map q)
      ((List.range ns).zip qs).forM (fun r => Eng.factorAdd u p (u.factorAt t.mat 2 (256 * t.b + r.1)) (r.2.foldl add32 0))
      (List.range ks).forM (fun k =>
        Eng.factorAdd u p (u.factorAt t.mat 3 (256 * t.a + k)) ((columnOf qs k).foldl add32 0))
    if p then Eng.spoilTile u t

/-- One word of r or c in phase 2. -/
def Eng.factorWord (u : Upd) (at' acc : Nat) (count : Nat) : Eng (Word × Bool) := do
  let h := (u.second.getD default).d.hint
  let (o, p) ← Eng.wordsAt h at' 1
  let (s, q) ← Eng.wordsAt h acc 1
  let mean ← Eng.div (s.headD 0) (rneFrac false count 1)
  let subn := (← Eng.context).cfg.bit 2
  let (w, f) := flush32 subn (fma32 u.imm.b2 (o.headD 0) (mul32 u.imm.a2 mean))
  Eng.status f jsSubnFlush
  Eng.wr at' (leBytes 4 w.toNat) h (p || q)
  return (w, p || q)

/-- Whether an address lies on a stack. -/
def onStack (s : State) (st a : Nat) : Bool := match placeOf s a with
  | .stack x _ => x == st
  | _ => false

/-- Phase 2 on one S-die: its words of r and c, and its sum of r into TOTAL. -/
def Eng.factorStats (u : Upd) (st : Nat) : Eng Unit :=
  (List.range u.mats).forM (fun m => do
    let s ← Eng.state
    let rs ← ((List.range u.n).filter (fun i => onStack s st (u.factorAt m 0 i))).mapM (fun i =>
      Eng.factorWord u (u.factorAt m 0 i) (u.factorAt m 2 i) u.k)
    let cs ← ((List.range u.k).filter (fun i => onStack s st (u.factorAt m 1 i))).mapM (fun i =>
      Eng.factorWord u (u.factorAt m 1 i) (u.factorAt m 3 i) u.n)
    if rs != [] then
      Eng.factorAdd u (rs.any (·.2)) (u.factorAt m 4 0) ((rs.map (·.1)).foldl add32 0)
    Eng.consume (rs.any (·.2) || cs.any (·.2)))

/-- Items of several dies in an order that keeps each die's own: the spec leaves it open which die comes next (R359). -/
def Eng.interleave {α : Type} : Nat → List (List α) → Eng (List α)
  | 0, _ => pure []
  | f + 1, ls => do
    let ls := ls.filter (fun l => l.length != 0)
    if ls.length == 0 then return []
    let k := (← Eng.free) % ls.length
    match (ls.getD k []) with
    | [] => return []
    | x :: _ => return x :: (← Eng.interleave f (modAt ls k (fun l => l.drop 1)))

/-! ### Sparse rows (R370 to R372) -/

/-- Entry `p` of the touch list. -/
def Eng.touchEntry (d : Desc) (p : Nat) : Eng (Nat × Bool) := do
  let w := if d.dtype == dtInt64 then 8 else 4
  let (b, q) ← Eng.rd (d.base + w * p) w d.hint
  return (leNat b, q)

/-- Every output of a sparse row poisoned. -/
def Eng.spoilRow (u : Upd) (r : Nat) : Eng Unit := do
  u.elementTensors.reverse.forM (fun d => Eng.spoil (d.rowAddr r) d.rowBytes)
  Eng.consume true

/-- The steps since a row was last updated, and whether they do not count (R371). -/
def stepsSince (step last : Nat) : Nat × Bool :=
  if last = 0xFFFFFFFF then (1, false)
  else
    let d := (step + 2 ^ 32 - last) % 2 ^ 32
    if d = 0 ∨ 2 ^ 31 ≤ d then (1, true) else (d, false)

/-- Touch entry `p`, which names row `r` of this S-die (R371, R372). A mismatch is counted for a skipped row too: R371
raises it for each touch entry (log 119). -/
def Eng.touchRow (u : Upd) (d st : Nat) (p r : Nat) : Eng Unit := do
  let (h, hp) ← Eng.words (u.header + 8 * r) 2
  let (dt, bad) := stepsSince u.step.toNat (h.getD 1 0).toNat
  if bad then Eng.mismatch st
  let x := u.grad
  let idx := x.d.coordsDistinct p
  let fl ← if x.d.smode == 2 then
      (List.range (ceilDiv d 128)).mapM (fun k => Eng.wordP (x.d.flagAt + 4 * x.d.scaleBlock idx (128 * k)) 4)
    else pure []
  let fp := hp || fl.any (fun w => w.2)
  if !fp && fl.any (fun w => w.1 == u.step.toNat) then Eng.skipTile st false
  else
    let (gx, gp) ← Eng.gradSpan x idx 0 (ceilDiv d 32)
    let gx := gx.take d
    let (w, wp) ← Eng.weightRow u r
    let (m, mp) ← Eng.stateRow u.m r d
    let ada := u.op == 0x51
    let (v, vp) ← if ada then Eng.stateRow u.second r d else pure (List.replicate d 0, false)
    if fp || gp || wp || mp || vp then
      Eng.spoil (u.header + 8 * r) 8
      Eng.spoilRow u r
    else if gx.any (fun y => !isFin32 y) then Eng.skipTile st true
    else
      let n := min ((h.getD 0 0).toNat + 1) 0xFFFFFFFF
      let c ← Eng.catchUp u.imm ada dt n
      let es ← ((List.zip gx w).zip (List.zip m v)).mapM (fun q =>
        Eng.sparseElem u.imm c ada q.1.2 (mul32 u.imm.gscale q.1.1) q.2.1 q.2.2)
      let subn := (← Eng.context).cfg.bit 2
      let caps := es.map (fun e => masterOf subn e.w)
      if es.any (fun e => !e.w.isFin || !isFin32 e.m || !isFin32 e.v) || caps.any masterInf then Eng.skipTile st true
      else
        Eng.putState u.m r (es.map (·.m))
        if ada then Eng.putState u.second r (es.map (·.v))
        Eng.wr (u.header + 8 * r) (leBytes 4 n ++ leBytes 4 u.step.toNat) .stream false
        Eng.status (caps.any (fun c => c.2.2)) jsSubnFlush
        match u.rem with
        | some q => Eng.wr (q.rowAddr r) (rowImage q d (caps.map (fun c => c.2.1)) []) q.hint false
        | none => pure ()
        Eng.wr (u.master.rowAddr r) (rowImage u.master d (caps.map (·.1)) []) u.master.hint false
        Eng.onSDie st (fun y => { y with cprElems := (y.cprElems + d) % 2 ^ 64 })

/-! ### Shares, headers and the command (R345, R348, R364) -/

/-- The tiles homed on a stack, in order. -/
def Upd.tilesOn (s : State) (u : Upd) (st : Nat) : List TilePos :=
  ((List.range u.tiles).filter (fun t => u.home s t == some st)).map u.pos

/-- An S-die's unit starts its share: its own generator (R58, R367). -/
def Eng.coopers (b : List Byte) (st : Nat) : Eng Unit := do
  let c ← Eng.context
  modify (fun e => { e with
    die := st
    gen := genSeed c.seed (unitId 2 st 0x13 0) (cmdStep b) (cmdId b) })

/-- The step header read at the start of an S-die's share of a dense update (R364). -/
def Eng.readHeader (u : Upd) (st : Nat) : Eng Unit := do
  if !(u.regen || u.sparse) then
    if (← Eng.word (u.header + 4 * st) 4) != u.step.toNat then Eng.mismatch st

/-- NEXT written by an S-die when its share completes (R364). -/
def Eng.writeHeader (u : Upd) (st : Nat) : Eng Unit := do
  if !(u.regen || u.sparse) && !(← Eng.stopped) then
    Eng.wr (u.header + 4 * st) (leBytes 4 ((u.step.toNat + 1) % 2 ^ 32)) .stream false

/-- The entries of a touch list below its count, each with its row; one outside the table faults the job (R371, R372). -/
def Eng.touched (u : Upd) : Eng (List (Nat × Nat)) := do
  let t := u.touch.getD default
  let n ← Eng.word u.countAt 4
  let l ← (List.range (min n (t.ext 0))).mapM (Eng.touchEntry t)
  Eng.consume (l.any (fun x => x.2))
  Eng.failIf (l.any (fun x => decide (u.master.rows ≤ x.1))) 0x24
  return (List.range l.length).zip (l.map (fun x => x.1))

/-- The share of one S-die (R345): its tiles, or the touch entries whose rows it holds. -/
def Eng.oneShare (u : Upd) (st : Nat) : Eng Unit := do
  Eng.coopers u.b st
  Eng.readHeader u st
  let s ← Eng.state
  if u.sparse then
    let l ← Eng.touched u
    if !(← Eng.stopped) then
      Eng.items (l.filter (fun x => u.rowHome s x.2 == some st)) (fun x => Eng.touchRow u (u.master.ext 0) st x.1 x.2)
  else Eng.items (u.tilesOn s st) (if u.regen then Eng.regenTile u st else Eng.denseTile u st)
  Eng.writeHeader u st

/-- A Cooper that can run (R348). -/
def SDie.cooperRuns (d : SDie) : Bool := !d.held && d.cprEng == .none

/-- The shares of S-dies that can run; answers those left, each with the account of Table 9-3 that its wait goes to: a
fenced Cooper, or a stack that keeps an access of the share waiting, holds back that share alone (R348). -/
def Eng.shares (u : Upd) : List Nat → Eng (List (Nat × Nat))
  | [] => pure []
  | st :: sts => do
    let e ← get
    if e.stop.isSome then return []
    if !(e.s.sdies[Fin.ofNat 12 st]).cooperRuns then return (st, 3) :: (← Eng.shares u sts)
    Eng.oneShare u st
    if (← get).waits then
      set e
      return (st, 1) :: (← Eng.shares u sts)
    else Eng.shares u sts

/-- What an update command does when it starts, and the shares it leaves waiting; the factored rule runs phase 0. -/
def Eng.updStart (u : Upd) : Eng (List (Nat × Nat)) := do
  Eng.onState (fun s => { s with sdies := s.sdies.map (fun (d : SDie) => { d with
    cprCmd := cmdId u.b
    cprStep := u.step }) })
  if u.op == 0x52 then
    (List.range 12).forM (Eng.readHeader u)
    Eng.factorZero u
    return []
  else Eng.shares u (List.range 12)

/-- What a phase of the factored rule does (R358): 1 to 3. -/
def Eng.updPhase (u : Upd) (phase : Nat) : Eng Unit := do
  let s ← Eng.state
  if phase == 1 then
    let order ← Eng.interleave (u.tiles + 1) ((List.range 12).map (fun st => (u.tilesOn s st).map (fun t => (st, t))))
    Eng.items order (fun p => do
      modify (fun e => { e with die := p.1 })
      Eng.factorSums u p.2)
  else if phase == 2 then
    let order ← Eng.interleave 13 ((List.range 12).map (fun st => [st]))
    Eng.items order (fun st => do
      modify (fun e => { e with die := st })
      Eng.factorStats u st)
  else
    (List.range 12).forM (fun st => do
      if !(← Eng.stopped) then
        Eng.coopers u.b st
        Eng.items (u.tilesOn s st) (Eng.denseTile u st)
        Eng.writeHeader u st)

/-- The lease of an S-die's work slot (R379, R436). It covers the outputs of the tile in flight; which tile that is when
the lease is revoked the spec leaves open, so a free value chooses among those of the share (log 132). -/
def State.grantCooper (s : State) (j : JobIx) (u : Upd) (fid st : Nat) : State :=
  let ts := if u.sparse then [] else u.tilesOn s st
  let t := ts[s.free % max 1 ts.length]?
  s.drawn.grantOver 4 j.val (unitId 2 st 0x13 0) fid 0 0 ((t.map u.outputs).getD [])

/-- A job fault at an S-die. -/
def cooperFault (cause st : Nat) (b : List Byte) : FaultAt := faultOf 4 cause 2 st (unitId 2 st 0x13 0) b

/-- Whether every output of the command is empty (R191). -/
def Upd.allEmpty (u : Upd) : Bool :=
  let copies := (u.fwd.map (·.d)).toList ++ (u.trn.map (·.d)).toList
  (if u.regen then copies else copies ++ u.elementTensors).all Desc.empty

/-- An update over its operands as their descriptors give them. -/
def updOf (b : List Byte) (ds : List (Option Desc)) : Upd :=
  Upd.of b (ds.map (fun d => d.map (fun d => (⟨d, false, d.tscale⟩ : Scaled))))

/-- What an update does when it starts: its operands in their step, its shares run; those left waiting. -/
def Eng.updPrep (b : List Byte) (ds : List (Option Desc)) (row : Bool) : Eng (List (Option Scaled) × List (Nat × Nat)) := do
  let ops ← ds.mapM (fun d => Eng.scaledOpt d row (cmdStep b))
  let left ← Eng.updStart (Upd.of b ops)
  return (ops, left)

/-- An update command decoded on all S-dies and started (R345). -/
def State.update (j : JobIx) (s : State) (b : List Byte) (fid : Nat) : Begin :=
  let c := s.ctx j
  if s.cpr.isSome || s.overtaken j 4 [] || s.sdies.any (fun d => d.held) then .stays
  else
    let ((ds, fs), v) := (Eng.operands c (updUses b)).run (envOf s j b fid)
    let u0 := updOf b ds
    if v.waits then .stays
    else match v.stop with
    | some cause => .faults v.s (cooperFault cause 0 b)
    | none =>
      match firstFault (fs ++ updChecks v.s u0 ++ stepFault c b) with
      | some cause => .rejects v.s cause
      | none =>
        let (row, s) := v.s.fixRow j (cmdStep b)
        if u0.allEmpty then .done s
        else if u0.op == 0x52 && !s.sdies.all SDie.cooperRuns then .stays
        else
          let ((ops, left), v) := (Eng.updPrep b ds row).run (envOf s j b fid)
          if v.waits then .stays
          else
            let s := v.s.modCtx j (fun c => { c with updStarted := cmdStep b :: c.updStarted })
            match v.stop with
            | some cause => .faults s (cooperFault cause v.die b)
            | none =>
              let s := (List.range 12).foldl (fun s st => s.grantCooper j (Upd.of b ops) fid st)
                { s with cpr := some ⟨j.val, fid, opcodeOf b, 0, left⟩ }
              .starts s { shares := if opcodeOf b == 0x52 then 1 else 0, ops := ops }

/-- UPD_MOMENTUM (R356). -/
def execUpdMomentum (j : JobIx) (s : State) : Host.Outcome State Fault Refusal := .next (s.runSlot j 4 0x50 (State.update j))
/-- UPD_ADAPTIVE (R357). -/
def execUpdAdaptive (j : JobIx) (s : State) : Host.Outcome State Fault Refusal := .next (s.runSlot j 4 0x51 (State.update j))
/-- UPD_FACTORED (R358): phase 0; COOPER_PHASE_ADVANCE runs the others. -/
def execUpdFactored (j : JobIx) (s : State) : Host.Outcome State Fault Refusal := .next (s.runSlot j 4 0x52 (State.update j))
/-- UPD_BLOCKPRE (R360). -/
def execUpdBlockpre (j : JobIx) (s : State) : Host.Outcome State Fault Refusal := .next (s.runSlot j 4 0x53 (State.update j))
/-- REGENERATE (R369). -/
def execRegenerate (j : JobIx) (s : State) : Host.Outcome State Fault Refusal := .next (s.runSlot j 4 0x54 (State.update j))

/-- COOPER_PHASE_ADVANCE (R359): every S-die has finished a phase, and the next one runs. -/
def execCooperPhaseAdvance (j : JobIx) (s : State) : Host.Outcome State Fault Refusal :=
  .next (match s.cpr with
    | some r =>
      match s.flight j 4 r.fid with
      | some f =>
        if r.job != j.val || r.opcode != 0x52 || 3 ≤ r.phase || !s.runs j || !s.sdies.all (fun d => !d.held && d.cprEng.goes) then s
        else
          let u := Upd.of f.bytes f.ops
          let (_, v) := (Eng.updPhase u (r.phase + 1)).run (envOf s j f.bytes r.fid)
          if v.waits then s
          else match v.stop with
          | some cause => v.s.jobFault j (cooperFault cause v.die f.bytes)
          | none =>
            let s := (v.s.renew 4 j.val r.fid).modQ j 4 (fun q => { q with
              inflight := modFirst (fun x => x.fid == r.fid) (fun x => { x with shares := if r.phase == 2 then 0 else 1 }) q.inflight })
            { s with cpr := some { r with phase := r.phase + 1 } }
      | none => s
    | none => s)

end Sys2Proof.Machine
end

