-- ==== Sys2Proof/Machine/Ports.lean ====
section
/-! DEFINITION. Fabric ports and lanes (R385 to R393): link frames with their CRC, retry, lanes that fail or are tested,
and the commands of the ports. -/

namespace Sys2Proof

/-! ### Bytes of packets and frames (Table 12-3, R391) -/

/-- The 32-byte header of a packet. -/
def Packet.header (p : Packet) : List Byte :=
  [BitVec.ofNat 8 (p.dst.x % 16 + p.dst.y * 16), BitVec.ofNat 8 (p.dst.z % 16 + p.kind.code * 16),
   BitVec.ofNat 8 (p.src.x % 16 + p.src.y * 16), BitVec.ofNat 8 (p.src.z % 16 + p.channel * 16),
   BitVec.ofNat 8 (p.job % 64 + (if p.golden then 64 else 0) + (if p.err then 128 else 0)),
   BitVec.ofNat 8 p.age, BitVec.ofNat 8 p.deflect, BitVec.ofNat 8 p.format] ++
  leBytes 2 p.seq ++ leBytes 2 (p.srcRank % 4096 + p.poison % 16 * 4096) ++ leBytes 2 (p.dstRank % 4096) ++
  leBytes 2 (p.length % 512) ++ leBytes 6 p.addr ++ [if p.sr then 1 else 0, 0] ++ leBytes 4 p.tag.toNat ++
  leBytes 4 p.step.toNat

/-- ACK and READ_REQ packets are header-only (R397). -/
def Packet.headerOnly (p : Packet) : Bool := p.kind == .ack || p.kind == .readReq

def Packet.bytes (p : Packet) : List Byte :=
  if p.headerOnly then p.header else p.header ++ (p.payload ++ List.replicate 256 0).take 256

/-- The frame header and packet that the CRC covers. The report's kind is 0 for ACK, 1 for NAK (log 16). -/
def LinkFrame.covered (f : LinkFrame) : List Byte :=
  leBytes 8 (f.lseq % 4096 + f.rack % 4096 * 4096 + (if f.nak then 2 ^ 24 else 0)) ++
  (match f.pkt with | some p => p.bytes | none => [])

/-- The register of the CRC-32 of IEEE 802.3 after `k` more bits, least significant bit first. -/
def crcBits : Nat → Word → Word
  | 0, c => c
  | k + 1, c => crcBits k (if c.getLsbD 0 then (c >>> 1) ^^^ 0xEDB88320#32 else c >>> 1)

/-- CRC-32 with the IEEE 802.3 polynomial (R391). -/
def crc32 (l : List Byte) : Word := ~~~ (l.foldl (fun c b => crcBits 8 (c ^^^ b.zeroExtend 32)) 0xFFFFFFFF#32)

def LinkFrame.sealed (f : LinkFrame) : LinkFrame := { f with crc := crc32 f.covered }

/-- Bytes that a frame of a packet takes in the retry buffer. -/
def Packet.frameBytes (p : Packet) : Nat := if p.headerOnly then 44 else 300

end Sys2Proof

namespace Sys2Proof.Machine

/-! ### Lanes (R386, R388) -/

def Port.width (p : Port) : Nat := (p.lanes.toList.filter (·.inService)).length
def Port.lane (p : Port) (k : Nat) : Lane := p.lanes[Fin.ofNat 18 k]
def Port.spare (p : Port) : Option Nat := (List.range 18).find? (fun k => (p.lane k).spare)
def Port.spares (p : Port) : Nat := (p.lanes.toList.filter (·.spare)).length

def Port.setLane (p : Port) (k : Nat) (f : Lane → Lane) : Port := { p with lanes := upd p.lanes (Fin.ofNat 18 k) f }

/-- A lane taken out of use: a spare takes its stripe, or the port runs one lane narrower (R388). -/
def Port.takeOut (p : Port) (k : Nat) (bad : Bool) : Port :=
  let was := (p.lane k).inService
  let p := p.setLane k (fun x => { x with
    inService := false
    spare := false
    bad := x.bad || bad
    underTest := !bad })
  match was, p.spare with
  | true, some i => p.setLane i (fun x => { x with inService := true, spare := false })
  | _, _ => p

/-- A lane put back: into a stripe where one is missing, else as a spare. -/
def Port.putBack (p : Port) (k : Nat) : Port :=
  let narrow := decide (p.width < 16)
  p.setLane k (fun x => { x with
    inService := narrow
    spare := !narrow
    bad := false
    underTest := false })

/-! ### Ports -/

def portUnit (l : LIx) (p : PortIx) : Word := unitId 3 l.val 0x20 p.val
def laneUnit (l : LIx) (p : PortIx) (k : Nat) : Word := unitId 3 l.val 0x21 (p.val * 18 + k)
def State.port (s : State) (l : LIx) (p : PortIx) : Port := s.ldies[l].ports[p]

/-- A port enters a state, which raises its event (Table 15-1). -/
def State.portTo (s : State) (l : LIx) (p : PortIx) (st : PortState) : State :=
  if (s.port l p).state == st then s
  else
    (s.modPort l p (fun x => { x with
      state := st
      stateSince := s.tick })).raise (296 + 2 * l.val + p.val)

/-- The packets of a port's retry buffer go back to its router as they stand (R393). -/
def State.reroute (s : State) (l : LIx) (p : PortIx) : State :=
  s.modLDie l (fun d => { d with
    inputs := d.inputs ++ d.ports[p].retry.map (fun f => (p.val, f.pkt))
    ports := upd d.ports p (fun x => { x with retry := [] }) })

/-- A port goes DEAD (R386, R393). -/
def State.portDead (s : State) (l : LIx) (p : PortIx) : State := (s.reroute l p).portTo l p .dead

/-- Whether a port takes one more frame of a packet: it carries frames, its neighbour's router does not drain, and
its 64 KiB retry buffer has room (R390, R392, R407). -/
def Port.sends (x : Port) (p : Packet) : Bool :=
  x.state == .up && !x.neighbourDrain &&
  decide ((x.retry.map (fun f => f.pkt.frameBytes)).foldl (· + ·) 0 + p.frameBytes ≤ 65536)

/-- The frame of a packet with the receive report of the port. -/
def Port.frame (x : Port) (lseq : Nat) (p : Option Packet) (nak : Bool) : LinkFrame :=
  LinkFrame.sealed ⟨lseq, x.rxLseq, nak, p, 0⟩

def State.emit (s : State) (l : LIx) (p : PortIx) (f : LinkFrame) : State :=
  { s with outs := .frame l.val p.val f :: s.outs }

/-- A packet sent as a frame, which the retry buffer keeps (R391, R392). -/
def State.sendFrame (s : State) (l : LIx) (p : PortIx) (pkt : Packet) : State :=
  let x := s.port l p
  let s := s.modPort l p (fun x => { x with
    txLseq := (x.txLseq + 1) % 4096
    retry := x.retry ++ [⟨x.txLseq, pkt, 1⟩] })
  s.emit l p (x.frame x.txLseq (some pkt) false)

/-- A frame that carries only the receive report (R391). -/
def State.report (s : State) (l : LIx) (p : PortIx) (nak : Bool) : State :=
  s.emit l p ((s.port l p).frame (s.port l p).txLseq none nak)

/-- The frames of the retry buffer from place `k` on sent again. -/
def State.resend (s : State) (l : LIx) (p : PortIx) (k : Nat) : State :=
  let x := s.port l p
  let s := s.modPort l p (fun x => { x with
    retry := x.retry.take k ++ (x.retry.drop k).map (fun f => { f with sends := f.sends + 1 }) })
  (x.retry.drop k).foldl (fun s f => s.emit l p (x.frame f.lseq (some f.pkt) false)) s

/-- Frames that an RACK of kind ACK passes leave the retry buffer (R392). -/
def Port.acked (x : Port) (rack : Nat) : Port :=
  { x with retry := x.retry.filter (fun f => decide (2048 ≤ (f.lseq + 4096 - rack) % 4096)) }

/-- A NAK: the frames from the reported one on are sent again, or the port retrains when that one has been sent 16
times (R392, R393). -/
def State.nak (s : State) (l : LIx) (p : PortIx) (rack : Nat) : State :=
  match (s.port l p).retry.findIdx? (fun f => f.lseq == rack) with
  | none => s
  | some k =>
    if (s.port l p).retry[k]?.any (fun f => decide (16 ≤ f.sends)) then s.portTo l p .retrain
    else (s.modPort l p (fun x => { x with retryCnt := x.retryCnt.bump 15 0 1 })).resend l p k

/-- The dimension of the torus that an L-die carries (R25): its extent. -/
def State.extentOf (s : State) (l : LIx) : Nat :=
  let e := s.cfg.inForce.extent
  match l.val with | 0 => e.x | 1 => e.y | _ => e.z

/-- A port starts training (R390); one of a dimension of extent 1 stays OFF (R385). -/
def State.portTrain (s : State) (l : LIx) (p : PortIx) : State :=
  if s.extentOf l == 1 then s.portTo l p .off
  else
    (s.modPort l p (fun x => { x with
      txLseq := 0
      rxLseq := 0
      nakSent := false
      fencing := false
      neighbourDrain := false })).portTo l p .training

/-- ENABLE (R390). -/
def State.portEnable (s : State) (l : LIx) (p : PortIx) : State :=
  match (s.port l p).state with
  | .off | .dead => s.portTrain l p
  | .draining => s.portTo l p .armed
  | _ => s

/-- DISABLE (R390). -/
def State.portDisable (s : State) (l : LIx) (p : PortIx) : State :=
  match (s.port l p).state with
  | .up | .armed => s.portTo l p .draining
  | _ => s

/-- An operation of DRV_PORT_CTRL_p: 1 ENABLE, 2 DISABLE; both bits together are ignored (R411). -/
def State.portOp (s : State) (op : Nat) (l : LIx) (p : PortIx) : State :=
  if s.ldies[l].held then s
  else match op with
    | 1 => s.portEnable l p
    | 2 => s.portDisable l p
    | _ => s

def portCtrlAddr (l : LIx) (p : PortIx) : Nat := regBase + 0x300004 + l.val * 0x10000 + p.val * 0x40

/-- A write of DRV_PORT_CTRL_p by a requester (R411, R531). -/
def State.portCmd (s : State) (rq : Requester) (op : Nat) (l : LIx) (p : PortIx) : State :=
  s.privileged rq .installerOrCore (portCtrlAddr l p) (s.auditRec rq .regWrite 0 (portCtrlAddr l p) 0 op)
    (.portOp op l p) (fun s => s.portOp op l p)

/-- A drain ends: a port that is being fenced stops FENCED (R434). -/
def State.portDrained (s : State) (l : LIx) (p : PortIx) : State :=
  let x := s.port l p
  let s := s.reroute l p
  match x.state with
  | .draining =>
    if x.fencing then s.portTo l p .fenced else s.portTo l p .off
  | .armed => s.portTrain l p
  | _ => s

/-- A lane failed: swapped or dropped, recorded, and the port DEAD below 8 lanes (R386, R388). -/
def State.laneLost (s : State) (l : LIx) (p : PortIx) (k reason : Nat) : State :=
  let x := s.port l p
  let spare := if (x.lane k).inService then x.spare else none
  let y := x.takeOut k true
  let s := s.modPort l p (fun x => x.takeOut k true)
  let s := s.record { blankRec (laneUnit l p k) 0x44 1 with
    syndrome := [BitVec.ofNat 8 k, BitVec.ofNat 8 reason, BitVec.ofNat 8 y.width]
    aux := match spare with | some i => laneUnit l p i | none => 0 }
  if y.width < 8 && (x.state == .up || x.state == .retrain) then s.portDead l p else s

/-- A router in training forwards again when none of its ports trains any more (R407). -/
def State.routerSettle (s : State) (l : LIx) : State :=
  let d := s.ldies[l]
  if d.router == .training && (List.finRange 2).all (fun p => d.ports[p].state != .training) then
    s.modLDie l (fun d => { d with router := .forwarding })
  else s

/-- Whether the lanes of a port are trained. -/
def Port.trained (x : Port) : Bool := x.state == .up || x.state == .retrain || x.state == .draining || x.state == .armed

/-! ### The commands -/

/-- PORT_ENABLE (R390). -/
def execPortEnable (rq : Requester) (l : LIx) (p : PortIx) (s : State) : Host.Outcome State Fault Refusal :=
  .next (s.portCmd rq 1 l p)

/-- PORT_DISABLE (R390). -/
def execPortDisable (rq : Requester) (l : LIx) (p : PortIx) (s : State) : Host.Outcome State Fault Refusal :=
  .next (s.portCmd rq 2 l p)

/-- The lanes of a port as training leaves them: the lowest 16 good ones in service, the others spare (R35, R386). -/
def trainedLanes (good : Nat) : Vector Lane 18 :=
  Vector.ofFn (fun (k : Fin 18) =>
    let before := ((List.range k.val).filter (fun i => good.testBit i)).length
    let ok := good.testBit k.val
    ⟨ok && decide (before < 16), ok && decide (16 ≤ before), !ok, false⟩)

/-- PORT_TRAINING_DONE (Table 12-2): `lanes` is the set of lanes that trained, `rtt` the round trip in ns. -/
def execPortTrainingDone (l : LIx) (p : PortIx) (lanes rtt : Nat) (s : State) : Host.Outcome State Fault Refusal :=
  .next (
    let v := trainedLanes lanes
    if (s.port l p).state == .training && decide (8 ≤ (v.toList.filter (·.inService)).length) && decide (rtt ≤ 160) then
      ((s.modPort l p (fun x => { x with
        lanes := v
        rtt := rtt })).portTo l p .up).routerSettle l
    else s)

/-- PORT_TRAINING_TIMEOUT (Table 12-2). -/
def execPortTrainingTimeout (l : LIx) (p : PortIx) (s : State) : Host.Outcome State Fault Refusal :=
  .next (if (s.port l p).state == .training && decide ((s.port l p).stateSince + 250000000 ≤ s.tick) then
      (s.portDead l p).routerSettle l
    else s)

/-- PORT_DRAIN_DONE (Table 12-2): the neighbour confirms, or 500 ticks have passed. -/
def execPortDrainDone (l : LIx) (p : PortIx) (confirmed : Bool) (s : State) : Host.Outcome State Fault Refusal :=
  .next (
    let x := s.port l p
    if (x.state == .draining || x.state == .armed) && (confirmed || decide (x.stateSince + 500 ≤ s.tick)) then
      s.portDrained l p
    else s)

/-- RETRAIN_DONE (R393). -/
def execRetrainDone (l : LIx) (p : PortIx) (s : State) : Host.Outcome State Fault Refusal :=
  .next (
    let x := s.port l p
    if x.state == .retrain && decide (s.tick ≤ x.stateSince + 250000) then
      let s := s.modPort l p (fun x => { x with retry := x.retry.map (fun f => { f with sends := 0 }) })
      (s.portTo l p .up).resend l p 0
    else s)

/-- RETRAIN_TIMEOUT (Table 12-2). -/
def execRetrainTimeout (l : LIx) (p : PortIx) (s : State) : Host.Outcome State Fault Refusal :=
  .next (if (s.port l p).state == .retrain && decide ((s.port l p).stateSince + 250000 < s.tick) then s.portDead l p else s)

/-- LANE_FAIL (R388): reason 0 loss of lock, 1 the FEC limit (Table 14-8). -/
def execLaneFail (l : LIx) (p : PortIx) (lane reason : Nat) (s : State) : Host.Outcome State Fault Refusal :=
  .next (
    let x := s.port l p
    if lane < 18 && x.trained && !(x.lane lane).bad then s.laneLost l p lane (min reason 1) else s)

/-- LANE_TEST (R389): the first one takes the lane out of service, the next one ends its test with the verdict; a lane
that fails is one whose eye margin failed. -/
def execLaneTest (l : LIx) (p : PortIx) (lane : Fin 18) (eye : Verdict) (s : State) : Host.Outcome State Fault Refusal :=
  .next (
    let x := s.port l p
    let y := x.lane lane.val
    if !x.trained then s
    else if y.underTest then
      match eye with
      | .pass => (s.modPort l p (fun x => x.putBack lane.val)).modAsy (fun a => { a with cnt := a.cnt.bump 31 16 1 })
      | .fail => s.laneLost l p lane.val 2
    else if y.bad || (List.range 18).any (fun k => (x.lane k).underTest) || (y.inService && x.spare.isNone && x.width ≤ 8)
      then s
    else s.modPort l p (fun x => x.takeOut lane.val false))

/-- LINK_FRAME_RECEIVE (R392): a frame that fails its CRC, or comes out of LSEQ order, is discarded with a NAK; an
accepted one hands its packet to the router. -/
def execLinkFrameReceive (l : LIx) (p : PortIx) (f : LinkFrame) (s : State) : Host.Outcome State Fault Refusal :=
  .next (
    let x := s.port l p
    if x.state != .up && x.state != .draining && x.state != .armed then s
    else if crc32 f.covered != f.crc then
      (s.modPort l p (fun x => { x with
        retryCnt := x.retryCnt.bump 31 16 1
        nakSent := true })).report l p true
    else
      let s := if f.nak then s.nak l p f.rack else s.modPort l p (fun x => x.acked f.rack)
      match f.pkt with
      | none => s
      | some pkt =>
        if f.lseq == x.rxLseq then
          let s := s.modLDie l (fun d => { d with
            inputs := d.inputs ++ [(p.val, pkt)]
            ports := upd d.ports p (fun x => { x with
              rxLseq := (x.rxLseq + 1) % 4096
              nakSent := false }) })
          s.report l p false
        else if x.nakSent then s
        else (s.modPort l p (fun x => { x with nakSent := true })).report l p true)

end Sys2Proof.Machine
end

