-- ==== Sys2Proof/Machine/Cores.lean ====
section
/-! DEFINITION. The service cores: failure, failover, promotion and restart (R464, R537), and the record every fence
leaves (R432). -/

namespace Sys2Proof.Machine

/-- The record and the event of a fence (R432, Table 14-8): its source, and the unit's state before. -/
def State.fenceRec (s : State) (w : Word) (source before : Nat) (aux : Word) : State :=
  (s.record { blankRec w 0x45 3 with
    syndrome := [BitVec.ofNat 8 source, BitVec.ofNat 8 before]
    aux := aux }).raise 322

def coreUnit (k : Fin 2) : Word := unitId 5 0 0x40 k.val
def otherCore (k : Fin 2) : Fin 2 := if k = 0 then 1 else 0
def State.core (s : State) (k : Fin 2) : Core := s.cores[k]
def State.modCore (s : State) (k : Fin 2) (f : Core → Core) : State := { s with cores := upd s.cores k f }

/-- A route with the bit of core `x` moved to core `y` (R464). -/
def movedRoute (x y r : Nat) : Nat := if r.testBit x then (Nat.xor r (2 ^ x)) ||| 2 ^ y else r

def movedRoutes (x y : Nat) (w : Word) : Word :=
  BitVec.ofNat 32 (((List.range 8).map (fun i => movedRoute x y (w.field (4 * i + 3) (4 * i)) * 16 ^ i)).foldl (· + ·) 0)

/-- What a failover does in the event controller (R464 steps 1, 2 and 4). -/
def Evc.failover (v : Evc) (x y : Fin 2) : Evc :=
  let ended := [2 * x.val, 2 * x.val + 1].filterMap (fun i => v.insvc[Fin.ofNat 6 i])
  { v with
    routes := v.routes.map (movedRoutes x.val y.val)
    pend := (ended.filter (fun e => !levelEvent e)).foldl (fun l e => insertNat e l) v.pend
    insvc := Vector.ofFn (fun (i : Fin 6) => if i.val / 2 = x.val then none else v.insvc[i])
    failovers := satAdd 0xFF v.failovers 1 }

/-- R464: routes move, service at the failed core ends, the route locks clear, FAILOVER is raised. -/
def State.failover (s : State) (x : Fin 2) : State :=
  let s := { s with req := s.req.map (fun (r : ReqState) => { r with routeLock := false }) }
  (s.evUpdate (fun v => v.failover x (otherCore x))).raise 326

/-- An activation of firmware under way is aborted: the core that was active runs on (R538). -/
def State.abortActivation (s : State) : State :=
  match s.cfg.activating with
  | none => s
  | some (_, old) =>
    ({ s with cfg := { s.cfg with activating := none } }).modCore (otherCore (Fin.ofNat 2 old)) (fun c => { c with promoting := false })

/-- Whether a core that fails now has failed within the hour (R537 step 4). -/
def Core.failedLately (c : Core) (now : Nat) : Bool := c.failedAt.any (fun t => decide (now < t + 90000000000))

/-- A service core fails (R464, R537). -/
def State.coreFail (s : State) (k : Fin 2) (fence : Bool) : State :=
  if (s.core k).state == .failed then s
  else
    let s := s.abortActivation
    let wasActive := (s.core k).state == .active
    let promotes := wasActive && (s.core (otherCore k)).state == .standby
    let again := fence || (s.core k).failedLately s.tick
    let s := s.modCore k (fun c => { c with
      state := .failed
      failedAt := some s.tick
      promoting := false
      fenced := c.fenced || again })
    let s := s.modCore (otherCore k) (fun c => { c with promoting := c.promoting || promotes })
    let s := s.failover k
    let s := s.record { blankRec (coreUnit k) 0x4C 1 with
      syndrome := [BitVec.ofNat 8 k.val, BitVec.ofNat 8 (otherCore k).val] }
    let s := if wasActive then
        s.note (if k = 0 then .coreA else .coreB) .failover (if promotes then 0 else 2) (coreUnit k).toNat 0 0
      else s
    if again && !fence then s.fenceRec (coreUnit k) 5 0 0 else s

/-- SERVICE_CORE_FAILURE (R537): a missed heartbeat or an uncorrectable error. -/
def execServiceCoreFailure (core : Fin 2) (_uncorrectable : Bool) (s : State) : Host.Outcome State Fault Refusal :=
  .next (s.coreFail core false)

/-- The new image runs: routes move as in a failover, without its event, and its slot is in force and marked (R538
steps 4 to 6). -/
def State.activated (s : State) : State :=
  match s.cfg.activating with
  | none => s
  | some (_, old) =>
    let o := 1 - s.cfg.fwSlot
    let s := { s with cfg := { s.cfg with
      activating := none
      fwSlot := o
      fw := upd s.cfg.fw (Fin.ofNat 2 o) (fun w => { w with bootMark := true }) } }
    let k : Fin 2 := Fin.ofNat 2 old
    let s := { s with req := s.req.map (fun (r : ReqState) => { r with routeLock := false }) }
    let s := s.evUpdate (fun v => { v.failover k (otherCore k) with failovers := v.failovers })
    s.modCore k (fun c => { c with state := .restarting })

/-- STANDBY_PROMOTED (R537 step 2, R538): the core runs as active from the last committed journal state; the other one
restarts. -/
def execStandbyPromoted (s : State) : Host.Outcome State Fault Refusal :=
  .next (match (List.finRange 2).find? (fun k => (s.core k).promoting && (s.core k).state == .standby) with
    | none => s
    | some k =>
      let s := s.modCore k (fun c => { c with state := .active, promoting := false })
      let s := s.modCore (otherCore k) (fun c =>
        if c.state == .failed && !c.fenced then { c with state := .restarting } else c)
      s.activated)

/-- CORE_RESTART_DONE (R537): a core that passes its self-test is STANDBY, or ACTIVE where no core is or becomes it; one
that fails it has failed again. -/
def execCoreRestartDone (core : Fin 2) (ok : Verdict) (s : State) : Host.Outcome State Fault Refusal :=
  .next (
    let c := s.core core
    let o := s.core (otherCore core)
    if c.fenced || !(c.state == .failed || c.state == .restarting) then s
    else match ok with
      | .pass =>
        s.modCore core (fun c => { c with state := if o.state == .active || o.promoting then .standby else .active })
      | .fail =>
        let again := c.failedLately s.tick
        let s := s.modCore core (fun c => { c with
          state := .failed
          failedAt := some s.tick
          fenced := again })
        if again then s.fenceRec (coreUnit core) 5 0 0 else s)

end Sys2Proof.Machine
end

