-- ==== Sys2Proof/Machine/Fence.lean ====
section
/-! DEFINITION. Fences and their drains (R31, R277, R431 to R435), engine resets, and what a host port's reset and an
S-die's reset leave. -/

namespace Sys2Proof.Machine

/-! ### Roles of tiles and banks (R31) -/

def Tile.unusedSpare (t : Tile) : Bool :=
  t.role == .spare && t.state != .fenced && t.state != .underTest && t.state != .migrating

/-- The unused spare tile of lowest index of a C-die. -/
def CDie.spareTile (c : CDie) : Option TileIx := (List.finRange 136).find? (fun t => c.tiles[t].unusedSpare)

/-- The unused spare bank of lowest index of a C-die. -/
def CDie.spareBank (c : CDie) : Option (Fin 51) := (List.finRange 51).find? (fun b => c.banks[b].state == .spare)

def CDie.modTile (c : CDie) (t : TileIx) (f : Tile → Tile) : CDie := { c with tiles := upd c.tiles t f }
def CDie.modBank (c : CDie) (b : Fin 51) (f : Bank → Bank) : CDie := { c with banks := upd c.banks b f }

/-- The passes and blocks bound to a tile unbound: the dispatcher gives them to another (R113), and the time lost goes to
FENCE (Table 9-3). -/
def State.unbind (s : State) (d t : Nat) : State :=
  let hit := (s.passes.filter (fun p => p.die == d && p.tile == some t)).map (fun p => (p.job, p.fid)) ++
    (s.blocks.filter (fun b => b.die == d && b.tile == some t)).map (fun b => (b.job, b.fid))
  let s := hit.eraseDups.foldl (fun s p => s.accrueFree (Fin.ofNat 64 p.1) p.2 3) s
  { s with
    passes := s.passes.map (fun (p : PassWork) =>
      if p.die == d && p.tile == some t then { p with tile := none, next := false } else p)
    blocks := s.blocks.map (fun (b : BlockWork) => if b.die == d && b.tile == some t then { b with tile := none } else b) }

/-! ### The states of units (Table 14-9) -/

def UnitState.code : UnitState → Nat
  | .inService => 0 | .draining => 1 | .armed => 2 | .fenced => 3 | .underTest => 4 | .spare => 5

def EngOverride.code : EngOverride → Nat
  | .draining => 1 | .armed => 2 | .fenced => 3 | _ => 0

def Tile.code (t : Tile) : Nat :=
  match t.state with
  | .fenced => 3 | .underTest => 4 | .migrating => 1 | _ => if t.role == .spare then 5 else 0

def PortState.unitCode : PortState → Nat
  | .draining => 1 | .armed => 2 | .fenced => 3 | _ => 0

def cdieOf (u : UnitName) : CIx := Fin.ofNat 4 u.die
def sdieOf (u : UnitName) : SIx := Fin.ofNat 12 u.die
def ldieOf (u : UnitName) : LIx := Fin.ofNat 3 u.die

/-- FLT_FENCE_STAT.STATE of a unit. -/
def State.unitStat (s : State) (w : Word) : Nat :=
  let u := unitName w
  let c := s.cdies[cdieOf u]
  let d := s.sdies[sdieOf u]
  match u.dieType, u.cls with
  | 1, 0 | 1, 5 => c.loomEng.code
  | 1, 1 => (c.tiles[Fin.ofNat 136 u.ix]).code
  | 1, 2 => (c.banks[Fin.ofNat 51 u.ix]).state.code
  | 1, 3 => (c.vus[Fin.ofNat 16 u.ix]).state.code
  | 1, 4 => (c.cps[Fin.ofNat 16 u.ix]).state.code
  | 2, 0 | 2, 0x15 => if d.state == .offline then 3 else 0
  | 2, 0x10 => if d.pcFenced.contains u.ix then 3 else 0
  | 2, 0x13 => d.cprEng.code
  | 3, 0x20 => (s.port (ldieOf u) (Fin.ofNat 2 u.ix)).state.unitCode
  | 4, _ => (s.hdies[Fin.ofNat 2 u.die]).port.state.code
  | 5, 0x40 =>
    let k := s.core (Fin.ofNat 2 u.ix)
    if k.fenced then 3 else if k.state == .standby then 5 else 0
  | _, _ => if s.flt.fenced.contains w then 3 else 0

/-! ### What a fence does to each unit (Table 14-1) -/

/-- The units of a bank position poisoned: no bank answers there any more. -/
def State.losePosition (s : State) (die p : Nat) : State :=
  { s with mem := { s.mem with
      padPoison := (List.range 8192).foldl (fun r q =>
        let k := padKey die (24576 * q + 512 * p) / 64
        Ranges.put r k (k + 8)) s.mem.padPoison } }

/-- Leases of a kind whose holder's unit a predicate selects are revoked for recovery (R438). -/
def State.recoverLeases (s : State) (sel : Lease → Bool) : State :=
  (List.range s.flt.leases.length).foldl (fun s k => if s.flt.leases[k]?.any sel then s.revoke k 2 else s) s

def noTest (t : TestState) : TestState := { t with unfencing := false, deferredSince := none, due := false }

/-- A tile is fenced: its role moves to the lowest unused spare (R31, R113). -/
def State.fenceTile (s : State) (d : CIx) (t : TileIx) : State :=
  let c := s.cdies[d]
  let heir := if c.tiles[t].role == .service then c.spareTile else none
  let s := s.unbind d.val t.val
  let s := s.modTile d t (fun x => { x with
    state := .fenced
    role := .none
    job := none
    migrated := []
    fencePend := none
    test := noTest x.test })
  match heir with
  | some h => s.modTile d h (fun x => { x with role := .service })
  | none => s

/-- A bank is fenced: a spare takes its contents and its position; without one the position is lost. -/
def State.fenceBank (s : State) (d : CIx) (b : Fin 51) : State :=
  let c := s.cdies[d]
  match c.banks[b].pos, c.spareBank with
  | some p, some h =>
    let s := s.modCDie d (fun c => c.modBank h (fun x => { x with state := .inService, pos := some p }))
    s.modCDie d (fun c => c.modBank b (fun x => { x with
      state := .draining
      pos := none
      test := noTest x.test }))
  | some p, none =>
    let s := s.modCDie d (fun c => c.modBank b (fun x => { x with
      state := .fenced
      pos := none
      test := noTest x.test }))
    (s.losePosition d.val p).recoverLeases (fun l => l.kind == 1 && (unitName l.unit).die == d.val)
  | none, _ => s.modCDie d (fun c => c.modBank b (fun x => { x with state := .fenced, test := noTest x.test }))

def SimpleUnit.fence (u : SimpleUnit) : SimpleUnit := { u with state := .fenced, test := noTest u.test }

/-- An engine that drains. -/
def EngOverride.drain : EngOverride → EngOverride
  | .none | .armed => .draining
  | x => x

/-- An add whose target or operand is poisoned, or that a stack has discarded: the job that issued it takes a POISON
fault (R324, R335). `e` is the engine of the command, `tag` its ID. -/
def State.addPoison (s : State) (j : JobIx) (e : EngIx) (st opcode : Nat) (tag step : Word) : State :=
  s.jobFault j
    { e := e, cause := 0x29, dieType := 2, die := st, unit := unitId 2 st 0x12 0, opcode := opcode, cmd := tag
      step := step, slot := false, inRun := false }

/-- The stack that an address lies on, for a unit identifier. -/
def stackAt (s : State) (a : Nat) : Nat := match placeOf s a with
  | .stack st _ => st
  | _ => 0

/-- An add that arrives from a command known by its ID and step alone (R331, R332): its generator is the adder set's
under the seed of that command (R58). -/
def State.memAdd (s : State) (j : JobIx) (addr fmt : Nat) (data : List Byte) (sr poison : Bool) (tag step : Word) : State :=
  let c := s.ctx j
  let st := stackAt s addr
  let (r, s) := addMem s j.val addr fmt (if sr && fmt == dtBf16 then .sr else .rne) (c.cfg.bit 2) poison .stream
    (genSeed c.seed (unitId 2 st 0x12 0) step tag) data
  let s := if r.flushed then s.setStatus j jsSubnFlush else s
  if r.consumed then s.addPoison j 2 st 0xFF tag step else s

/-- An access that waited reaches its stack (R322 to R324). -/
def State.serveWaiting (s : State) (w : Waiting) : State :=
  match w with
  | .read j a n h =>
    let (g, s) := readMem s (some j) a n h
    s.answer (.bytes g.data g.poison)
  | .write j a d h p => writeMem s (if j < 64 then some j else none) a d h p
  | .add j a fmt d sr => s.memAdd (Fin.ofNat 64 j) a fmt d sr false 0 0

def Waiting.addr : Waiting → Nat
  | .read _ a _ _ => a
  | .write _ a _ _ _ => a
  | .add _ a _ _ _ => a

/-- The accesses that wait at a stack served in order, as its state then meets them. -/
def State.drainWaiting (s : State) (st : SIx) : State :=
  let here := fun (w : Waiting) => stackAt s w.addr == st.val
  let ws := s.mem.waiting.filter here
  let s := { s with mem := { s.mem with waiting := s.mem.waiting.filter (fun w => !here w) } }
  ws.foldl State.serveWaiting s

/-- A stack goes OFFLINE: its event's condition falls, and the accesses that waited are met as R324 gives. -/
def State.stackOffline (s : State) (st : SIx) (retained : Bool) : State :=
  let s := s.noteSlow.modSDie st (fun d => { d with state := .offline, retained := d.retained && retained })
  (s.setCond (280 + st.val) false).drainWaiting st

/-- A router starts the drain ahead of its reset (R407). -/
def State.routerDrain (s : State) (l : LIx) : State :=
  let d := s.ldies[l]
  if d.held || d.router != .forwarding then s
  else
    let s := s.modLDie l (fun d => { d with router := .draining, drainStart := s.tick })
    let s := (List.finRange 2).foldl (fun s p => if (s.port l p).state == .up then s.portTo l p .draining else s) s
    s.raise (303 + l.val)

/-- What a reset of a host port or its fence leaves (R479): the configuration space at its defaults, no request in
flight, no BAR4 read waiting. -/
def HDie.portReset (d : HDie) : HDie :=
  { d with
    msixEnable := false
    msixMask := List.range 130
    msixData := []
    pba := []
    bar2Log2 := 41
    cfgSpace := []
    bar4Waiting := [] }

/-- Members proxied through a fenced port see their streams fault (Table 14-1): the proxy answers them no more. -/
def LDie.closeSystem (d : LDie) : LDie :=
  { d with
    streams := d.streams.map (fun (x : SrcStream) => if x.sys then { x with closed := true, waiting := [] } else x)
    leases := d.leases.map (fun (x : Reorder) => if x.sys then { x with closed := true, held := [] } else x) }

def State.fenceHost (s : State) (h : HIx) : State :=
  let s := s.modHDie h (fun d => { d.portReset with
    linkUp := false
    port := d.port.fence })
  if s.cfg.inForce.proxy && s.evc.hostPort == h.val then { s with ldies := s.ldies.map LDie.closeSystem } else s

/-- A lane fenced: swapped out as one that fails, its port DEAD below 8 lanes. -/
def State.fenceLane (s : State) (l : LIx) (p : PortIx) (k : Nat) : State :=
  let s := s.modPort l p (fun x => x.takeOut k true)
  if (s.port l p).width < 8 && ((s.port l p).state == .up || (s.port l p).state == .retrain) then s.portDead l p else s

/-- A port fenced: its retry buffer is routed again, and it drains where it carries frames. -/
def State.fencePort (s : State) (l : LIx) (p : PortIx) : State :=
  let st := (s.port l p).state
  let s := s.reroute l p
  if st == .up || st == .draining || st == .armed then
    (s.modPort l p (fun x => { x with fencing := true })).portTo l p .draining
  else s.portTo l p .fenced

/-! ### Engine resets (R277) -/

/-- A collective whose items in flight are discarded: it faults its job where it has applied adds, else starts again. -/
def State.resetCollectives (s : State) : State :=
  s.cols.foldl (fun s r =>
    let adds := (r.opcode == 0x40 || r.opcode == 0x41) && (r.phase != 0 || r.recv != [] || r.hops != (0, 0))
    if adds then s.jobFault (Fin.ofNat 64 r.job) (faultOf 3 0x2B 3 0 (unitId 3 0 0x23 0) r.bytes) else s) s

/-- The work items in flight on a copy engine are discarded and reissued from their start. An item of SCATTER_ADD or
SEGMENT_SUM that has applied an add faults its job; one that waits for remote rows has applied none. Whether the item in
flight has, the spec leaves to the moment: a free value (log 134). -/
def State.discardCopies (s : State) (d : CIx) : State :=
  (List.finRange 64).foldl (fun s j =>
    (s.queue j 2).inflight.foldl (fun s f =>
      let adds := opcodeOf f.bytes == 0x34 || opcodeOf f.bytes == 0x35
      let waits := s.far.any (fun r => r.job == j.val && r.fid == f.fid && r.die == d.val)
      let s' := s.accrueFree j f.fid 3
      if !(s.diesOf j 2 f.bytes).contains d then s
      else if adds && !waits && s'.free % 2 == 1 then
        s'.drawn.jobFault j (faultOf 2 0x2B 1 d.val (unitId 1 d.val 4 0) f.bytes)
      else s'.drawn) s) s

/-- A Cooper's tile in flight is discarded and reissued when it had written nothing; one whose writes had begun faults its
job (R378). Which it is the spec leaves to the moment: a free value (log 134). A share that waits has no tile in flight. -/
def State.discardTile (s : State) (d : SIx) : State :=
  match s.cpr with
  | some r =>
    let j : JobIx := Fin.ofNat 64 r.job
    match s.flight j 4 r.fid with
    | some f =>
      let s' := s.accrueFree j f.fid 3
      if r.left.any (fun x => x.1 == d.val) then s
      else if s'.free % 2 == 1 then s'.drawn.jobFault j (cooperFault 0x2B d.val f.bytes) else s'.drawn
    | none => s
  | none => s

/-- A reset of an engine: the work items in flight there are discarded and reissued (R277). Vector items have applied no
add, and the Loom's tiles drop the passes they stream. -/
def State.engineReset (s : State) (eng : EngineName) : State :=
  match eng with
  | .loom d =>
    let s := (List.range 136).foldl (fun s t => s.unbind d.val t) s
    s.modCDie d (fun c => c.releaseTiles (fun _ => true) s.tick)
  | .vec _ => s
  | .cpy d => s.discardCopies d
  | .coll => s.resetCollectives
  | .cooper d => s.discardTile d

/-- ENGINE_RESET (R277). -/
def execEngineReset (eng : EngineName) (s : State) : Host.Outcome State Fault Refusal := .next (s.engineReset eng)

/-! ### Fences -/

/-- The spare that takes over from a unit (Table 14-7), 0 where none does. -/
def State.heirOf (s : State) (w : Word) : Word :=
  let u := unitName w
  let c := s.cdies[cdieOf u]
  match u.dieType, u.cls with
  | 1, 1 => if c.tiles[Fin.ofNat 136 u.ix].role == .service then
      (c.spareTile.map (fun t => unitId 1 u.die 1 t.val)).getD 0 else 0
  | 1, 2 => if c.banks[Fin.ofNat 51 u.ix].pos.isSome then
      (c.spareBank.map (fun b => unitId 1 u.die 2 b.val)).getD 0 else 0
  | 3, 0x21 =>
    let p := s.port (ldieOf u) (Fin.ofNat 2 (u.ix / 18))
    if (p.lane (u.ix % 18)).inService then (p.spare.map (fun i => laneUnit (ldieOf u) (Fin.ofNat 2 (u.ix / 18)) i)).getD 0
    else 0
  | _, _ => 0

/-- The effect of a fence on its unit (Table 14-1); a unit that the table does not list is only marked. -/
def State.fenceEffect (s : State) (w : Word) : State :=
  let u := unitName w
  let mark := fun s : State => s.setFlt (fun f => { f with fenced := w :: f.fenced })
  match u.dieType, u.cls with
  | 1, 0 | 1, 5 => s.modCDie (cdieOf u) (fun c => { c with
      loomEng := c.loomEng.drain
      vecEng := c.vecEng.drain
      cpyEng := c.cpyEng.drain })
  | 1, 1 => s.fenceTile (cdieOf u) (Fin.ofNat 136 u.ix)
  | 1, 2 => s.fenceBank (cdieOf u) (Fin.ofNat 51 u.ix)
  | 1, 3 => s.modCDie (cdieOf u) (fun c => { c with vus := upd c.vus (Fin.ofNat 16 u.ix) SimpleUnit.fence })
  | 1, 4 => (s.discardCopies (cdieOf u)).modCDie (cdieOf u) (fun c => { c with
      cps := upd c.cps (Fin.ofNat 16 u.ix) SimpleUnit.fence })
  | 2, 0 | 2, 0x15 => s.drawn.stackOffline (sdieOf u) (s.free % 2 == 1)
  | 2, 0x10 => s.modSDie (sdieOf u) (fun d => { d with pcFenced := insertNat u.ix d.pcFenced })
  | 2, 0x13 => (s.discardTile (sdieOf u)).modSDie (sdieOf u) (fun d => { d with cprEng := d.cprEng.drain })
  | 3, 0 | 3, 0x22 => s.routerDrain (ldieOf u)
  | 3, 0x20 => s.fencePort (ldieOf u) (Fin.ofNat 2 u.ix)
  | 3, 0x21 => mark (s.fenceLane (ldieOf u) (Fin.ofNat 2 (u.ix / 18)) (u.ix % 18))
  | 3, 0x23 => mark s.resetCollectives
  | 3, 0x24 => mark (s.recoverLeases (fun l => l.kind == 2 && (unitName l.unit).die == u.die))
  | 4, _ => s.fenceHost (Fin.ofNat 2 u.die)
  | 5, 0x40 => s.coreFail (Fin.ofNat 2 u.ix) true
  | _, _ => mark s

/-- A fence of a unit (R431 to R433): none for a unit that is FENCED; one that meets a migration waits for it. -/
def State.fenceUnit (s : State) (w : Word) (source : Nat) : State :=
  let u := unitName w
  let before := s.unitStat w
  if !unitExists w || before == 3 then s
  else if u.dieType == 1 && u.cls == 1 && before == 1 then
    s.modTile (cdieOf u) (Fin.ofNat 136 u.ix) (fun t => { t with fencePend := some source })
  else
    let heir := s.heirOf w
    (s.fenceEffect w).fenceRec w source before heir

/-! ### Re-enabling (R434, R435) -/

/-- An S-die's logic reset, and its stack trained again (R324, R509). The repair tables come from the last committed
copy (R337); the cache, the fences and the temperature stay. -/
def SDie.dieReset (d : SDie) : SDie :=
  { Reset.sdie with
    held := d.held
    state := if d.held then .off else .training
    temp := d.temp
    sampled := d.sampled
    retained := d.retained
    t1 := d.t1
    t2 := d.t2
    t3 := d.t3
    tcrit := d.tcrit
    fenceLimit := d.fenceLimit
    split := d.split
    ceLimit := d.ceLimit
    period := d.period
    tables := d.committed
    committed := d.committed
    commitGen := d.commitGen
    pcFenced := d.pcFenced
    powerHold := d.powerHold }

def State.resetSDie (s : State) (st : SIx) : State := (s.modSDie st SDie.dieReset).setCond (280 + st.val) false

/-- A unit goes to an Assayer test before it serves again (R435). -/
def TestState.unfence (t : TestState) (now : Nat) : TestState := { noTest t with unfencing := true, testStart := now }
def SimpleUnit.unfence (u : SimpleUnit) (now : Nat) : SimpleUnit := { u with state := .underTest, test := u.test.unfence now }

/-- The record of a unit back in service (Table 14-8): by a passed test, or where no test applies. -/
def State.unfenceRec (s : State) (w : Word) (tested : Bool) : State :=
  s.record { blankRec w 0x46 1 with syndrome := [if tested then 1 else 0] }

/-- UNFENCE of a FENCED unit (R435). -/
def State.unfenceFenced (s : State) (w : Word) : State :=
  let u := unitName w
  let now := s.tick
  let unmark := fun s : State => s.setFlt (fun f => { f with fenced := f.fenced.filter (fun x => x != w) })
  match u.dieType, u.cls with
  | 1, 0 | 1, 5 => (s.modCDie (cdieOf u) (fun c => { c with
      loomEng := .none
      vecEng := .none
      cpyEng := .none })).unfenceRec w false
  | 1, 1 =>
    if (s.cdies[cdieOf u]).tiles[Fin.ofNat 136 u.ix].holding.isSome then s
    else s.modTile (cdieOf u) (Fin.ofNat 136 u.ix) (fun t => { t with state := .underTest, test := t.test.unfence now })
  | 1, 2 => s.modCDie (cdieOf u) (fun c => c.modBank (Fin.ofNat 51 u.ix) (fun b =>
      { b with state := .underTest, test := b.test.unfence now }))
  | 1, 3 => s.modCDie (cdieOf u) (fun c => { c with vus := upd c.vus (Fin.ofNat 16 u.ix) (fun x => x.unfence now) })
  | 1, 4 => s.modCDie (cdieOf u) (fun c => { c with cps := upd c.cps (Fin.ofNat 16 u.ix) (fun x => x.unfence now) })
  | 2, 0 | 2, 0x15 => (s.resetSDie (sdieOf u)).unfenceRec w false
  | 2, 0x10 => (s.modSDie (sdieOf u) (fun d => { d with pcFenced := eraseNat u.ix d.pcFenced })).unfenceRec w false
  | 2, 0x13 => (s.modSDie (sdieOf u) (fun d => { d with cprEng := .none })).unfenceRec w false
  | 3, 0x20 => (s.portTrain (ldieOf u) (Fin.ofNat 2 u.ix)).unfenceRec w false
  | 3, 0x21 =>
    let l := ldieOf u
    let p : PortIx := Fin.ofNat 2 (u.ix / 18)
    let s := if (s.port l p).trained then s.modPort l p (fun x => x.putBack (u.ix % 18)) else s
    (unmark s).unfenceRec w false
  | 4, _ => (s.modHDie (Fin.ofNat 2 u.die) (fun d => { d with port := { d.port with state := .inService } })).unfenceRec w false
  | 5, 0x40 => (s.modCore (Fin.ofNat 2 u.ix) (fun c => { c with
      state := .restarting
      fenced := false
      failedAt := none })).unfenceRec w false
  | _, _ => (unmark s).unfenceRec w false

/-- An enable that arrives in DRAINING is latched (R434). -/
def State.unfenceDraining (s : State) (w : Word) : State :=
  let u := unitName w
  let arm := fun x : EngOverride => if x == .draining then EngOverride.armed else x
  match u.dieType, u.cls with
  | 1, 0 | 1, 5 => s.modCDie (cdieOf u) (fun c => { c with
      loomEng := arm c.loomEng
      vecEng := arm c.vecEng
      cpyEng := arm c.cpyEng })
  | 1, 2 => s.modCDie (cdieOf u) (fun c => c.modBank (Fin.ofNat 51 u.ix) (fun b => { b with state := .armed }))
  | 2, 0x13 => s.modSDie (sdieOf u) (fun d => { d with cprEng := arm d.cprEng })
  | 3, 0x20 => s.portTo (ldieOf u) (Fin.ofNat 2 u.ix) .armed
  | _, _ => s

/-- UNFENCE (R434, R435): no effect on a unit that is neither FENCED nor draining. -/
def State.unfenceUnit (s : State) (w : Word) : State :=
  if !unitExists w then s
  else match s.unitStat w with
  | 3 => s.unfenceFenced w
  | 1 => s.unfenceDraining w
  | _ => s

/-- The engine of a C-die has no share left to run. -/
def State.engIdle (s : State) (d : CIx) : Bool :=
  s.blocks.all (fun b => b.die != d.val) && s.far.all (fun r => r.die != d.val)

def EngOverride.drained : EngOverride → EngOverride
  | .draining => .fenced
  | .armed => .none
  | x => x

/-- A unit's drain completes (R434): it stops FENCED, or starts where an enable was latched. -/
def State.drainDone (s : State) (w : Word) : State :=
  let u := unitName w
  let now := s.tick
  match u.dieType, u.cls with
  | 1, 0 | 1, 5 =>
    if s.engIdle (cdieOf u) then s.modCDie (cdieOf u) (fun c => { c with
      loomEng := c.loomEng.drained
      vecEng := c.vecEng.drained
      cpyEng := c.cpyEng.drained })
    else s
  | 1, 1 =>
    let d := cdieOf u
    let t : TileIx := Fin.ofNat 136 u.ix
    let x := s.cdies[d].tiles[t]
    if x.state != .migrating then s
    else
      let s := s.modTile d t (fun y => { y with
        state := .underTest
        fencePend := none
        test := { y.test with testStart := now, due := false, deferredSince := none } })
      match x.fencePend with
      | some src => s.fenceUnit w src
      | none => s
  | 1, 2 => s.modCDie (cdieOf u) (fun c => c.modBank (Fin.ofNat 51 u.ix) (fun b =>
      match b.state with
      | .draining => { b with state := .fenced }
      | .armed => { b with state := .underTest, test := b.test.unfence now }
      | _ => b))
  | 2, 0x13 =>
    if s.cpr.any (fun r => r.left.all (fun x => x.1 != (sdieOf u).val)) then s else s.modSDie (sdieOf u) (fun d => { d with cprEng := d.cprEng.drained })
  | 3, 0x20 =>
    let p : PortIx := Fin.ofNat 2 u.ix
    if (s.port (ldieOf u) p).state == .draining || (s.port (ldieOf u) p).state == .armed then s.portDrained (ldieOf u) p
    else s
  | _, _ => s

/-! ### The commands -/

def fenceCtrlAddr : Nat := regBase + 0x20104

/-- A write of FLT_FENCE_CTRL (Table 14-9): both bits, or an absent unit, is ignored and recorded. -/
def State.fenceCtrl (s : State) (rq : Requester) (fenceBit unfenceBit : Bool) : State :=
  let w := s.flt.fenceUnit
  if s.access rq .installerOrCore == .refused then s.regAccess rq fenceCtrlAddr 3
  else if !fenceBit && !unfenceBit then s
  else if (fenceBit && unfenceBit) || !unitExists w then s.regAccess rq fenceCtrlAddr 4
  else if fenceBit then
    s.recorded rq .installerOrCore fenceCtrlAddr (s.auditRec rq .fence 0 w.toNat (s.unitStat w) 1) .fence
      (fun s => s.fenceUnit w 4)
  else
    s.recorded rq .installerOrCore fenceCtrlAddr (s.auditRec rq .unfence 0 w.toNat (s.unitStat w) 2) .unfence
      (fun s => s.unfenceUnit w)

/-- FENCE (R432, R452): a write of FLT_FENCE_CTRL. -/
def execFence (rq : Requester) (fenceBit unfenceBit : Bool) (s : State) : Host.Outcome State Fault Refusal :=
  .next (s.fenceCtrl rq fenceBit unfenceBit)

/-- UNFENCE (R435). -/
def execUnfence (rq : Requester) (s : State) : Host.Outcome State Fault Refusal := .next (s.fenceCtrl rq false true)

/-- UNIT_WATCHDOG (R432). -/
def execUnitWatchdog (unit : Word) (s : State) : Host.Outcome State Fault Refusal := .next (s.fenceUnit unit 3)

/-- UNIT_DRAIN_DONE (R434). -/
def execUnitDrainDone (unit : Word) (s : State) : Host.Outcome State Fault Refusal := .next (s.drainDone unit)

end Sys2Proof.Machine
end

