-- ==== Sys2Proof/Machine/Stack.lean ====
section
/-! DEFINITION. The stacks (chapter 10): temperature steps and fences (R319 to R324), accesses with ECC and parity
(R325, R328, R331, R334), row repair and page retirement (R337 to R339), patrol scrub (R340) and the Assayer's page
test (R440). -/

namespace Sys2Proof.Machine

/-! ### Temperature (R319 to R322) -/

/-- The highest threshold that a temperature in 1/16 °C reaches: 0 none, 1 to 3 T1 to T3, 4 TCRIT. -/
def SDie.levelAt (d : SDie) (temp : Int) : Nat :=
  if (d.tcrit * 16 : Nat) ≤ temp then 4 else if (d.t3 * 16 : Nat) ≤ temp then 3
  else if (d.t2 * 16 : Nat) ≤ temp then 2 else if (d.t1 * 16 : Nat) ≤ temp then 1 else 0

/-- The level that holds now: the temperature's, or that of a lost P-die phase (R494). -/
def SDie.level (d : SDie) : Nat := max (d.levelAt d.temp) d.powerHold

def stateOfLevel : Nat → StackState
  | 0 => .normal | 1 => .step75 | 2 => .step50 | 3 => .step25 | _ => .fenced

/-- The level of a state that temperature moves; none for the others. -/
def StackState.level : StackState → Option Nat
  | .normal => some 0 | .step75 => some 1 | .step50 => some 2 | .step25 => some 3 | .fenced => some 4 | _ => none

/-- The threshold of a level, in °C. -/
def SDie.threshold (d : SDie) : Nat → Nat
  | 1 => d.t1 | 2 => d.t2 | 3 => d.t3 | _ => d.tcrit

/-- Whether the latest sample lies below the threshold of a state less 3 °C (Table 10-1). -/
def SDie.coolNow (d : SDie) (x : StackState) : Bool :=
  match x.level with
  | some n => decide (d.temp < (d.threshold n * 16 : Int) - 48)
  | none => false

/-- A stack range that a device range reaches. -/
def spanOn (s : State) (st : SIx) (lo len : Nat) : Bool :=
  decide (lo < 0x012000000000) && (spansOf s.sdies[0].split lo (lo + len)).any (fun p => p.st == st.val)

/-- Whether an operand of a running collective lies on a stack (R323). -/
def State.colOnStack (s : State) (st : SIx) (r : ColRun) : Bool :=
  match s.flight (Fin.ofNat 64 r.job) 3 r.fid with
  | some f => f.ops.any (fun o => o.any (fun o => spanOn s st o.d.base o.d.span))
  | none => false

/-- The collectives that a FENCED stack fails at once (R323, Table 13-4). -/
def State.failCollectives (s : State) (st : SIx) : State :=
  (s.cols.filter (s.colOnStack st)).foldl (fun s r => s.colFail (Fin.ofNat 64 r.job) r.ch 3) s

/-- A stack enters a state of Table 10-1: its event's condition (Table 15-1), its counts, the collectives that it fails,
the accesses that waited. -/
def State.stackTo (s : State) (st : SIx) (x : StackState) : State :=
  let old := s.sdies[st].state
  let s := s.noteSlow.modSDie st (fun d => { d with
    state := x
    coolSince := if d.coolNow x then some s.tick else none
    fencedSince := if x == .fenced then s.tick else d.fencedSince
    thermCnt := if x == .fenced then d.thermCnt.bump 31 16 1 else d.thermCnt })
  let s := s.setCond (280 + st.val) (x.level.any (fun n => n != 0))
  let s := if x == .fenced then s.failCollectives st else s
  if x.access == .serves && old.access != .serves then s.drainWaiting st else s

/-- A move up, at once to the highest step reached; at TCRIT + 5 °C the stack goes OFFLINE with its contents lost
(R320, R321). -/
def State.stackWarm (s : State) (st : SIx) : State :=
  let d := s.sdies[st]
  match d.state.level with
  | none => s
  | some n =>
    let m := d.level
    let s := if n < m then
        let s := if m < 4 then s.modSDie st (fun d => { d with thermCnt := d.thermCnt.bump 15 0 1 }) else s
        s.stackTo st (stateOfLevel m)
      else s
    if m == 4 && decide (((d.tcrit + 5) * 16 : Nat) ≤ d.temp) then s.stackOffline st false else s

/-- A temperature sample (R320): taken at the ticks that are multiples of 25, in every state but OFF. -/
def State.sampleStack (s : State) (st : SIx) (temp : Int) : State :=
  let d := s.sdies[st]
  if d.state == .off || s.tick % 25 != 0 then s
  else
    let s := s.modSDie st (fun d => { d with
      temp := temp
      sampled := true })
    let s := s.stackWarm st
    s.modSDie st (fun d => { d with coolSince := if d.coolNow d.state then some (d.coolSince.getD s.tick) else none })

/-- STACK_TEMP_SAMPLE (R320): `temp` is in 1/16 °C. -/
def execStackTempSample (st : SIx) (temp : Int) (s : State) : Host.Outcome State Fault Refusal :=
  .next (s.sampleStack st temp)

/-- STACK_STEP_DOWN (Table 10-1): one step, after 25,000 ticks below the own threshold less 3 °C. -/
def execStackStepDown (st : SIx) (s : State) : Host.Outcome State Fault Refusal :=
  .next (
    let d := s.sdies[st]
    match d.state.level with
    | none | some 0 => s
    | some (n + 1) =>
      if d.coolSince.any (fun t => decide (t + 25000 ≤ s.tick)) && decide (d.powerHold ≤ n) then s.stackTo st (stateOfLevel n)
      else s)

/-- STACK_FENCE_LIMIT (Table 10-1). -/
def execStackFenceLimit (st : SIx) (s : State) : Host.Outcome State Fault Refusal :=
  .next (
    let d := s.sdies[st]
    if d.state == .fenced && decide (d.fencedSince + d.fenceLimit ≤ s.tick) then s.stackOffline st true else s)

/-- Every line of a stack written back, then none of them in the cache (R324). -/
def State.flushStack (s : State) (st : SIx) : State :=
  let s := (s.mem.cache.filter (fun l => l.stack == st.val)).foldl writeBack s
  { s with mem := { s.mem with cache := s.mem.cache.filter (fun l => l.stack != st.val) } }

/-- The 64 B units of a stack's presented range and repair pool (R326). -/
def stackUnits : Nat := 25559040 * 64

/-- Every unit of a stack poisoned and its cache emptied without write-back (R324). -/
def State.loseStack (s : State) (st : SIx) : State :=
  let m := { s.mem with
    cache := s.mem.cache.filter (fun l => l.stack != st.val)
    dramPoison := Ranges.put s.mem.dramPoison (dramKey st.val 0 / 64) (dramKey (st.val + 1) 0 / 64) }
  ({ s with mem := m } : State).countPoison st.val stackUnits 0

/-- A stack that training has passed: what its cache holds, and the state its latest sample selects (R320, R324). -/
def State.stackTrained (s : State) (st : SIx) : State :=
  let s := if s.sdies[st].retained then s.flushStack st else s.loseStack st
  let s := s.modSDie st (fun d => { d with retained := true })
  s.stackTo st (stateOfLevel s.sdies[st].level)

/-- STACK_TRAINING_DONE (Table 10-1). -/
def execStackTrainingDone (st : SIx) (ok : Verdict) (s : State) : Host.Outcome State Fault Refusal :=
  .next (
    if s.sdies[st].state != .training then s
    else match ok with
      | .pass => s.stackTrained st
      | .fail => s.stackOffline st true)

/-- SELF_REFRESH_EXIT (R322): an access has come, and the stack enters the state its temperature selects. -/
def execSelfRefreshExit (st : SIx) (s : State) : Host.Outcome State Fault Refusal :=
  .next (if s.sdies[st].state == .selfRefresh then s.stackTo st (stateOfLevel s.sdies[st].level) else s)

/-! ### Row repair and page retirement (R337 to R339) -/

def firstPool : Nat := 25165824
def poolPages : Nat := 393216

/-- The place of a stack offset whose page is retired: its pool page. -/
def retiredAt (t : RepairTables) (off : Nat) : Nat :=
  match t.retired.find? (fun p => p.1 == off / 4096) with
  | some p => p.2 * 4096 + off % 4096
  | none => off

def BankMask.of (t : RepairTables) (r : RowId) : BankMask :=
  (t.masks.find? (fun m => m.pc == r.pc && m.sid == r.sid && m.bank == r.bank)).getD ⟨r.pc, r.sid, r.bank, [], []⟩

def RepairTables.putMask (t : RepairTables) (m : BankMask) : RepairTables :=
  { t with masks := m :: t.masks.filter (fun x => !(x.pc == m.pc && x.sid == m.sid && x.bank == m.bank)) }

/-- The remap entry's 64 bits (Table 10-6). -/
def Remap.word (m : Remap) : Nat :=
  m.row.row + m.row.bank * 2 ^ 17 + m.row.sid * 2 ^ 21 + m.row.pc * 2 ^ 23 + m.spare * 2 ^ 32 + 2 ^ 63

/-- The poisoned units of a stretch of a stack's DRAM. -/
def poisonedUnits (m : MemSys) (st src n : Nat) : Nat :=
  ((List.range (n / 64)).filter (fun k => Ranges.has m.dramPoison (dramKey st src / 64 + k))).length

/-- Bytes and poison of a stack moved from one place of its DRAM to another. -/
def MemSys.moveDram (m : MemSys) (st src dst n : Nat) : MemSys :=
  let a := dramKey st src
  let b := dramKey st dst
  let units := (List.range (n / 64)).foldl (fun r k =>
    Ranges.set r (b / 64 + k) (Ranges.has m.dramPoison (a / 64 + k))) m.dramPoison
  { m with
    dram := m.dram.writeN b (m.dram.readN a n)
    dramPoison := units }

/-- The slots of a row moved between the places that two tables give it. -/
def moveRow (s : State) (st : SIx) (old new : RepairTables) (r : RowId) : State :=
  let place := fun (t : RepairTables) (o : Nat) => match t.remaps.find? (fun m => m.row == r) with
    | some m => (24960 + m.spare) * 2 ^ 22 + o % 2 ^ 22
    | none => o
  let m := (List.range 4).foldl (fun m k =>
    let o := slotOffset r k
    m.moveDram st.val (place old o) (place new o) 256) s.mem
  let n := ((List.range 4).map (fun k => poisonedUnits s.mem st.val (place old (slotOffset r k)) 256)).foldl (· + ·) 0
  ({ s with mem := m } : State).countPoison st.val n 0

/-- A repair that finds no room: the units stay poisoned in place, and the eighth in a second fences the
pseudo-channel (R339, R432). -/
def State.repairFailed (s : State) (st : SIx) (pc : Nat) : State :=
  let s := s.raise (268 + st.val)
  let s := s.modSDie st (fun d => { d with
    repairFails := (pc, s.tick) :: d.repairFails.filter (fun p => decide (s.tick < p.2 + 25000000)) })
  if 8 ≤ (s.sdies[st].repairFails.filter (fun p => p.1 == pc)).length then s.fenceUnit (unitId 2 st.val 0x10 pc) 2 else s

/-- A page retired into the free pool page of lowest number, or moved there from the pool page it had. -/
def State.retirePage (s : State) (st : SIx) (pc page : Nat) : State :=
  let t := s.sdies[st].tables
  let owner := match t.retired.find? (fun p => p.2 == page) with
    | some p => p.1
    | none => page
  let old := t.retired.filter (fun p => p.1 != owner)
  let used := t.retired.map (·.2)
  if 65536 ≤ old.length then s.repairFailed st pc
  else match ((List.range (used.length + 5)).map (firstPool + ·)).find? (fun p => !used.contains p && p != page) with
  | none => s.repairFailed st pc
  | some pool =>
    let place := fun (o : Nat) => match t.remaps.find? (fun m => m.row == rowOf o) with
      | some m => (24960 + m.spare) * 2 ^ 22 + o % 2 ^ 22
      | none => o
    let m := (List.range 16).foldl (fun m k =>
      m.moveDram st.val (place (page * 4096 + 256 * k)) (place (pool * 4096 + 256 * k)) 256) s.mem
    let n := ((List.range 16).map (fun k => poisonedUnits s.mem st.val (place (page * 4096 + 256 * k)) 256)).foldl (· + ·) 0
    let s := (({ s with mem := m } : State).countPoison st.val n 0).modSDie st (fun d => { d with
      tables := { t with retired := old ++ [(owner, pool)] } })
    s.record { blankRec (unitId 2 st.val 0x14 0) 0x43 1 with
      syndrome := leBytes 4 owner ++ leBytes 4 (pool - firstPool) }

/-- A row repaired: copied to an unused good spare and remapped, the old spare marked BAD; without one, the four pages
that have a slot in it are retired (R337 to R339). -/
def State.repairRow (s : State) (st : SIx) (r : RowId) : State :=
  let t := s.sdies[st].tables
  let old := t.remaps.find? (fun m => m.row == r)
  let m := BankMask.of t r
  let bad := match old with
    | some o => insertNat o.spare m.bad
    | none => m.bad
  let free := (List.range 16).find? (fun i => !m.used.contains i && !bad.contains i)
  match free, decide (t.remaps.length < 8192) || old.isSome with
  | some i, true =>
    let e : Remap := ⟨r, i⟩
    let new : RepairTables := { t with remaps := e :: t.remaps.filter (fun x => x.row != r) }
    let new := new.putMask { m with
      used := insertNat i m.used
      bad := bad }
    let s := moveRow s st t new r
    let s := s.modSDie st (fun d => { d with
      tables := new
      tracker := d.tracker.filter (fun x => x.row != r) })
    s.record { blankRec (unitId 2 st.val 0x14 0) 0x42 1 with syndrome := leBytes 8 e.word }
  | _, _ =>
    let s := s.modSDie st (fun d => { d with tables := d.tables.putMask { m with bad := bad } })
    (List.range 4).foldl (fun s k => s.retirePage st r.pc (slotOffset r k / 4096)) s

/-! ### ECC and parity (R325, R334, R432) -/

/-- A corrected unit: written back corrected, counted and recorded; the row is repaired when its count in the tracker
of 1,024 rows reaches CE_LIMIT (R334, R337). -/
def State.eccCorrected (s : State) (st : SIx) (a off syn sym : Nat) : State :=
  let r := rowOf (retiredAt s.sdies[st].tables off)
  let n := ((s.sdies[st].tracker.find? (fun x => x.row == r)).map (·.count)).getD 0 + 1
  let s := s.modSDie st (fun d => { d with
    eccCnt := d.eccCnt.bump 15 0 1
    tracker := (⟨r, n⟩ :: d.tracker.filter (fun x => x.row != r)).take 1024 })
  let s := s.record { blankRec (unitId 2 st.val 0x10 r.pc) 0x40 0 with
    syndrome := leBytes 8 syn ++ [BitVec.ofNat 8 sym]
    addr := some a }
  if s.sdies[st].ceLimit ≤ n then s.repairRow st r else s

/-- An uncorrectable unit (R334 steps 1 to 4), poisoned unless `keep` gives what stands there in its place (R340);
16 in distinct rows within 25,000 ticks fence the stack (R432). -/
def State.eccUncorrectable (s : State) (st : SIx) (a off syn : Nat) (keep : Option (List Byte)) : State :=
  let r := rowOf (retiredAt s.sdies[st].tables off)
  let s : State := match keep with
    | some b => writeDramUnit s st.val (off / 256) (off / 64 % 4) b false
    | none =>
      let k := dramKey st.val (repaired s.sdies[st].tables off) / 64
      ({ s with mem := s.mem.setDramPoison k true } : State).countPoison st.val 1 0
  let s := s.modSDie st (fun d => { d with
    eccCnt := d.eccCnt.bump 31 16 1
    ueRows := (s.tick, r) :: d.ueRows.filter (fun p => decide (s.tick < p.1 + 25000) && p.2 != r) })
  let s := s.record { blankRec (unitId 2 st.val 0x10 r.pc) 0x41 1 with
    syndrome := leBytes 8 syn ++ [BitVec.ofNat 8 r.pc, BitVec.ofNat 8 r.bank]
    addr := some a }
  let s := s.repairRow st r
  let n := (s.sdies[st].ueRows).length
  if 16 ≤ n then s.fenceUnit (unitId 2 st.val 0x15 0) 2 else s

/-- A command or address parity error: the command is repeated, the error recorded; the fourth within 25,000 ticks
fences the pseudo-channel (R325, R432). -/
def State.parityError (s : State) (st : SIx) (a off : Nat) : State :=
  let pc := (rowOf off).pc
  let s := s.modSDie st (fun d => { d with
    parity := (pc, s.tick) :: d.parity.filter (fun p => decide (s.tick < p.2 + 25000)) })
  let n := (s.sdies[st].parity.filter (fun p => p.1 == pc)).length
  let s := s.record { blankRec (unitId 2 st.val 0x10 pc) 0x4D 1 with
    syndrome := [BitVec.ofNat 8 pc, BitVec.ofNat 8 n]
    addr := some a }
  if 4 ≤ n then s.fenceUnit (unitId 2 st.val 0x10 pc) 2 else s

/-- What the DRAM read of the first unit of an access found, when the access reads DRAM. -/
def State.eccOnRead (s : State) (st : SIx) (a off : Nat) (ecc : EccOutcome) : State :=
  if (s.mem.findLine st.val (off / 256)).isSome then s
  else match ecc with
    | .clean => s
    | .corrected syn sym => s.eccCorrected st a off syn sym
    | .uncorrectable syn => s.eccUncorrectable st a off syn none

/-! ### Accesses -/

/-- MEM_READ (R328): the answer goes to the model's port; a stack that sleeps or is FENCED keeps it waiting. -/
def execMemRead (j : JobIx) (addr n : Nat) (hint : Hint) (ecc : EccOutcome) (parity : Bool) (s : State) :
    Host.Outcome State Fault Refusal :=
  .next (
    match placeOf s addr with
    | .stack t off =>
      let st : SIx := Fin.ofNat 12 t
      match slotAccess s t off with
      | .waits => { s with mem := { s.mem with waiting := s.mem.waiting ++ [.read j.val addr n hint] } }
      | .gone =>
        let (g, s) := readMem s (some j.val) addr n hint
        s.answer (.bytes g.data g.poison)
      | .serves =>
        let s := if parity then s.parityError st addr off else s
        let s := s.eccOnRead st addr off ecc
        let (g, s) := readMem s (some j.val) addr n hint
        s.answer (.bytes g.data g.poison)
    | _ =>
      let (g, s) := readMem s (some j.val) addr n hint
      s.answer (.bytes g.data g.poison))

/-- A HWIN_WRITE record and event of a write that a host port drops (R476): 1 link down, 2 in reset, 3 fenced. -/
def State.hostDrop (s : State) (h : HIx) (addr : Nat) : State :=
  let d := s.hdies[h]
  let why := if d.port.state == .fenced then 3 else if d.inReset || d.held then 2 else 1
  s.record { blankRec (unitId 4 h.val 0x30 0) 0x4E 1 with
    syndrome := [BitVec.ofNat 8 why, BitVec.ofNat 8 h.val]
    addr := some addr }

/-- MEM_WRITE (R328, R476). -/
def execMemWrite (j : JobIx) (addr : Nat) (data : List Byte) (hint : Hint) (parity : Bool) (s : State) :
    Host.Outcome State Fault Refusal :=
  .next (
    let s := match placeOf s addr with
      | .stack t off => if parity && slotAccess s t off == .serves then s.parityError (Fin.ofNat 12 t) addr off else s
      | .host h _ => if hostServes s h then s else s.hostDrop (Fin.ofNat 2 h) addr
      | _ => s
    writeMem s (some j.val) addr data hint false)

/-- MEM_ADD (R331, R332): an add that arrives at its adder, from a command whose ID and step the row does not give. -/
def execMemAdd (j : JobIx) (addr fmt : Nat) (data : List Byte) (sr : Bool) (s : State) : Host.Outcome State Fault Refusal :=
  .next (
    if !addFormat fmt || addr % addWidth fmt != 0 || data.length % addWidth fmt != 0 then s
    else s.memAdd j addr fmt data sr false 0 0)

/-- REPAIR_TABLE_COMMIT (R337, R339): the tables go to flash, their commit flag last; no commit starts in an emergency
off. -/
def execRepairTableCommit (st : SIx) (s : State) : Host.Outcome State Fault Refusal :=
  .next (if s.flashOk then s.modSDie st (fun d => { d with
      committed := d.tables
      commitGen := d.commitGen + 1 }) else s)

/-! ### Patrol scrub (R340) -/

/-- The units of one pass: the presented range, the retired pages, the spare rows in use. -/
def SDie.scrubUnits (d : SDie) : Nat := firstPool * 64 + d.tables.retired.length * 64 + d.tables.remaps.length * 16

/-- The stack offset that the `n`-th unit of a pass belongs to; a retired page or a remapped row is reached through
the place that it presents. -/
def SDie.scrubOffset (d : SDie) (n : Nat) : Nat :=
  if n < firstPool * 64 then n * 64
  else
    let m := n - firstPool * 64
    if m < d.tables.retired.length * 64 then
      ((d.tables.retired[m / 64]?).getD (0, 0)).1 * 4096 + m % 64 * 64
    else
      let q := m - d.tables.retired.length * 64
      match d.tables.remaps[q / 16]? with
      | some x => slotOffset x.row (q % 16 / 4) + q % 4 * 64
      | none => 0

/-- PATROL_SCRUB (R340): the next unit of the pass, in NORMAL only (R322). -/
def execPatrolScrub (st : SIx) (unit : Nat) (ecc : EccOutcome) (s : State) : Host.Outcome State Fault Refusal :=
  .next (
    let d := s.sdies[st]
    if d.state != .normal || unit != d.scrubUnit then s
    else
      let off := d.scrubOffset unit
      let a := deviceOf d.split st.val off
      let s := match ecc with
        | .clean => s
        | .corrected syn sym => s.eccCorrected st a off syn sym
        | .uncorrectable syn =>
          let u := off / 64 % 4
          let copy := (s.mem.findLine st.val (off / 256)).bind (fun l =>
            if l.dirty.getD u false || l.poison.getD u false then none else some ((l.data.drop (64 * u)).take 64))
          s.eccUncorrectable st a off syn copy
      s.modSDie st (fun d =>
        if d.scrubUnits ≤ d.scrubUnit + 1 then { d with
          scrubUnit := 0
          scrubPasses := satAdd 0xFFFF d.scrubPasses 1 }
        else { d with scrubUnit := d.scrubUnit + 1 }))

/-- STACK_PAGE_TEST (R440): a presented page is copied into a free pool page, tested there and put back, which leaves
its contents as they were; the pool page holds the copy. -/
def execStackPageTest (st : SIx) (page : Nat) (s : State) : Host.Outcome State Fault Refusal :=
  .next (
    let d := s.sdies[st]
    let used := d.tables.retired.map (·.2)
    if firstPool ≤ page || d.state.access != .serves || used.contains page then s
    else match ((List.range (used.length + 1)).map (firstPool + ·)).find? (fun p => !used.contains p) with
      | none => s
      | some pool =>
        let m := (List.range 16).foldl (fun m k =>
          m.moveDram st.val (repaired d.tables (page * 4096 + 256 * k)) (repaired d.tables (pool * 4096 + 256 * k)) 256) s.mem
        ({ s with mem := m } : State).modAsy (fun a => { a with cnt := a.cnt.bump 31 16 1 }))

end Sys2Proof.Machine
end

