-- ==== Sys2Proof/Machine/Fabric.lean ====
section
/-! DEFINITION. The Drover fabric (chapter 12): routing (R398 to R400), streams at both ends (R401 to R405), the packets
of memory and of the copy engine, and router reset and loss (R406 to R408). -/

namespace Sys2Proof.Machine

/-! ### Where a packet may go (R398, R399) -/

/-- An output of a router. -/
inductive RouteOut where
  | port (p : PortIx)
  | cross (l : LIx)
  | eject
deriving DecidableEq, Repr

/-- The L-die that a stream's packets leave the fabric on; an ACK's is that of the window it moves (R401). -/
def homeDie (p : Packet) : LIx := Fin.ofNat 3 (p.srcRank + p.channel)

/-- The shorter ports of one dimension from `a` to `b` over `n` places, + first (R398). -/
def shortPorts (a b n : Nat) : List PortIx :=
  let n := max n 1
  let up := (b + n - a % n) % n
  if up = 0 then [] else if 2 * up < n then [0] else if 2 * up = n then [0, 1] else [1]

/-- The productive outputs of a packet at router `l`, in order (R398). -/
def productive (s : State) (l : LIx) (p : Packet) : List RouteOut :=
  let me := s.cfg.inForce.coord
  let e := s.cfg.inForce.extent
  if p.dst == me then
    if homeDie p = l then [.eject] else [.cross (homeDie p)]
  else
    let dims : List (LIx × List PortIx) :=
      [(0, shortPorts me.x p.dst.x e.x), (1, shortPorts me.y p.dst.y e.y), (2, shortPorts me.z p.dst.z e.z)]
    dims.flatMap (fun d => if d.1 = l then d.2.map RouteOut.port else if d.2 == [] then [] else [.cross d.1])

/-- The contest's last key: source coordinates Z, Y, X, then CHANNEL, then SEQ, as one number. -/
def contestKey (p : Packet) : Nat :=
  ((((p.src.z * 16 + p.src.y) * 16 + p.src.x) * 16 + p.channel) * 65536) + p.seq

/-- Whether a packet stands before another in the contest (R398). -/
def before (a b : Packet) : Bool :=
  if a.golden != b.golden then a.golden
  else if a.age != b.age then decide (b.age < a.age)
  else if a.deflect != b.deflect then decide (b.deflect < a.deflect)
  else decide (contestKey a < contestKey b)

/-- A list of packets with their inputs in contest order. -/
def contestInsert (x : Nat × Packet) : List (Nat × Packet) → List (Nat × Packet)
  | [] => [x]
  | y :: ys => if before x.2 y.2 then x :: y :: ys else y :: contestInsert x ys

def contest (l : List (Nat × Packet)) : List (Nat × Packet) := l.foldr contestInsert []

/-! ### Ejection (R396, R399, R403) -/

/-- Whether a lease belongs to a packet's stream. -/
def Reorder.of (r : Reorder) (p : Packet) : Bool :=
  r.sys == p.sys && r.srcRank == p.srcRank && r.channel == p.channel && (p.sys || r.job == p.job)

def LDie.lease (d : LDie) (p : Packet) : Option Reorder := d.leases.find? (fun r => r.of p)

def LDie.leased (d : LDie) (sys : Bool) : Nat := (d.leases.filter (fun r => r.leased && r.sys == sys)).length

def leaseUnit (l : LIx) : Word := unitId 3 l.val 0x24 0

/-- Whether a destination accepts a packet (R396); a system stream belongs to no context. -/
def rankCheck (s : State) (p : Packet) : Bool :=
  p.sys ||
  (let c := s.ctx (Fin.ofNat 64 p.job)
   (c.rankAt p.srcRank).any (fun e => e.at' == p.src) && p.dstRank == c.selfRank)

def State.dropPacket (s : State) (l : LIx) (closed : Bool) : State :=
  s.modLDie l (fun d => { d with drop := if closed then d.drop.bump 31 16 1 else d.drop.bump 15 0 1 })

/-- A packet put into its stream's lease (R403): discarded where the stream is closed or its SEQ lies outside the
window. -/
def Reorder.take (r : Reorder) (p : Packet) (now : Nat) : Reorder :=
  if r.closed then r
  else
    let ahead := (p.seq + 65536 - r.next) % 65536
    if 64 ≤ ahead || r.held.any (fun q => q.seq == p.seq) then { r with lastArrival := now }
    else { r with
      held := p :: r.held
      lastArrival := now
      gapSince := if ahead == 0 then none else some (r.gapSince.getD now) }

/-- A packet for this module at its home L-die: none where ejection is refused for want of a lease or by a drain. -/
def State.eject (s : State) (l : LIx) (p : Packet) : Option State :=
  let d := s.ldies[l]
  let closed := !p.sys && (s.ctx (Fin.ofNat 64 p.job)).state != .opened
  if closed then some (s.dropPacket l true)
  else if !rankCheck s p then some (s.dropPacket l false)
  else if p.kind == .ack then some (s.modLDie l (fun d => { d with acksIn := d.acksIn ++ [p] }))
  else
    let cap := if p.sys then 4 else 448
    match d.lease p with
    | some r =>
      if !r.leased && (d.router != .forwarding || cap ≤ d.leased p.sys) then none
      else
        let s := if p.sys then s
          else if r.leased then s.renew 2 p.job (p.srcRank * 16 + p.channel)
          else s.grant 2 p.job (leaseUnit l) (p.srcRank * 16 + p.channel) 0 0
        some (s.modLDie l (fun d => { d with
          leases := modFirst (fun r => r.of p) (fun r => { r.take p s.tick with leased := true }) d.leases }))
    | none =>
      if d.router != .forwarding || cap ≤ d.leased p.sys then none
      else
        let r : Reorder := ⟨p.job, p.srcRank, p.src, p.channel, p.sys, 0, [], 0, none, s.tick, none, false, false, true, none, []⟩
        let s := if p.sys then s else s.grant 2 p.job (leaseUnit l) (p.srcRank * 16 + p.channel) 0 0
        some (s.modLDie l (fun d => { d with leases := d.leases ++ [r.take p s.tick] }))

/-! ### One slot of a router (R398, R399) -/

/-- The input of router `l'` that the cross link from `l` feeds. -/
def crossInput (l l' : LIx) : Nat :=
  if l = 0 || (l = 1 && l' = 0) then 2 else 3

/-- What a slot has given out so far: outputs taken, data and header-only packets ejected. -/
structure SlotUse where
  outs : List RouteOut
  data : Nat
  heads : Nat

def SlotUse.takes (u : SlotUse) (o : RouteOut) (p : Packet) : Bool :=
  match o with
  | .eject => if p.headerOnly then u.heads < 4 else u.data < 2
  | _ => !u.outs.contains o

def SlotUse.use (u : SlotUse) (o : RouteOut) (p : Packet) : SlotUse :=
  match o with
  | .eject => if p.headerOnly then { u with heads := u.heads + 1 } else { u with data := u.data + 1 }
  | _ => { u with outs := o :: u.outs }

/-- An output of router `l` tried for a packet: none where it is not free or refuses it. -/
def State.output (s : State) (l : LIx) (p : Packet) (o : RouteOut) : Option State :=
  let q := { p with age := min 255 (p.age + 1) }
  match o with
  | .port k => if (s.port l k).sends p then some (s.sendFrame l k q) else none
  | .cross l' => some (s.modLDie l' (fun d => { d with inputs := d.inputs ++ [(crossInput l l', q)] }))
  | .eject => s.eject l p

/-- The first of some outputs that takes a packet. -/
def State.firstOut (s : State) (l : LIx) (p : Packet) (u : SlotUse) : List RouteOut → Option (RouteOut × State)
  | [] => none
  | o :: os =>
    match if u.takes o p then s.output l p o else none with
    | some s' => some (o, s')
    | none => State.firstOut s l p u os

/-- The outputs of a router but ejection. -/
def otherOuts (l : LIx) : List RouteOut :=
  [.port 0, .port 1] ++ ((List.finRange 3).filter (fun k => k ≠ l)).map RouteOut.cross

/-- A packet deflected: DEFLECT rises, and at 64 it is golden (R398). -/
def Packet.deflected (p : Packet) : Packet :=
  { p with
    deflect := min 255 (p.deflect + 1)
    golden := p.golden || p.deflect + 1 == 64 }

/-- A packet of a slot given an output; one that finds none stays at its input. -/
def State.placePacket (s : State) (l : LIx) (u : SlotUse) (x : Nat × Packet) : SlotUse × State :=
  let p := x.2
  match s.firstOut l p u (productive s l p) with
  | some (o, s) => (u.use o p, s)
  | none =>
    let q := Packet.deflected p
    match s.firstOut l q u (otherOuts l) with
    | some (o, s) =>
      (u.use o p, s.modLDie l (fun d => { d with
        deflects := (d.deflects + 1) % 2 ^ 64
        golden := if q.golden && !p.golden then d.golden.bump 31 0 1 else d.golden }))
    | none => (u, s.modLDie l (fun d => { d with inputs := d.inputs ++ [x] }))

def PktKindKnown (k : PktKind) : Bool :=
  match k with
  | .other _ => false
  | _ => true

/-- A packet of a reserved KIND discarded at its first router, counted and recorded (R394, log 17). -/
def State.dropKind (s : State) (l : LIx) (p : Packet) : State :=
  (s.dropPacket l false).record { blankRec (unitId 3 l.val 0x22 0) 0x2D 1 with
    cmd := p.tag
    step := p.step }

/-- A slot of router `l`: the packet that stands at each input is given one output in contest order. -/
def State.routeSlot (s : State) (l : LIx) : State :=
  let ins := s.ldies[l].inputs
  let now := (List.range 4).filterMap (fun i => ins.find? (fun x => x.1 == i))
  let rest := (List.range 4).foldl (fun r i => match r.findIdx? (fun (x : Nat × Packet) => x.1 == i) with
    | some k => r.eraseIdx k
    | none => r) ins
  let s := s.modLDie l (fun d => { d with inputs := rest })
  let s := (now.filter (fun x => !PktKindKnown x.2.kind)).foldl (fun s x => s.dropKind l x.2) s
  ((contest (now.filter (fun x => PktKindKnown x.2.kind))).foldl (fun (u, s) x => State.placePacket s l u x)
    ((⟨[], 0, 0⟩ : SlotUse), s)).2

/-- PACKET_ARRIVE (R398): a slot of a router that holds packets. -/
def execPacketArrive (l : LIx) (s : State) : Host.Outcome State Fault Refusal :=
  .next (if s.ldies[l].held then s else s.routeSlot l)

/-! ### Injection (R400, R402) -/

/-- The first packet of a stream that its window lets go (R402). -/
def SrcStream.next? (x : SrcStream) : Option Packet :=
  if x.closed then none
  else match x.waiting.head? with
    | some p => if (p.seq + 65536 - x.acked) % 65536 < 64 then some p else none
    | none => none

/-- The packet that an L-die would inject next: an ACK, or the first of a stream with a packet to go. -/
def LDie.toInject (d : LDie) : Option (Packet × Option Nat) :=
  match d.acksOut.head? with
  | some p => some (p, none)
  | none => match d.streams.findIdx? (fun x => (SrcStream.next? x).isSome) with
    | some k => (d.streams[k]?).bind (fun x => (SrcStream.next? x).map (fun p => (p, some k)))
    | none => none

/-- The packet gone from where it waited; a stream with nothing outstanding starts its timeout now. -/
def LDie.injected (d : LDie) (k : Option Nat) (now : Nat) : LDie :=
  match k with
  | none => { d with acksOut := d.acksOut.drop 1 }
  | some k => { d with
    streams := modAt d.streams k (fun x => { x with
      waiting := x.waiting.drop 1
      lastAck := if x.sent.length == x.waiting.length then now else x.lastAck }) }

/-- PACKET_INJECT (R400): a packet of this module enters its router when no transit packet stands there and an output
takes it. -/
def execPacketInject (l : LIx) (s : State) : Host.Outcome State Fault Refusal :=
  .next (
    let d := s.ldies[l]
    if d.held || d.router != .forwarding || d.inputs != [] then s
    else match d.toInject with
      | none => s
      | some (p, k) =>
        let p := { p with
          age := 0
          deflect := 0
          golden := false
          src := s.cfg.inForce.coord }
        let s' := s.modLDie l (fun d => d.injected k s.tick)
        if !PktKindKnown p.kind then s'.dropKind l p
        else match s'.firstOut l p ⟨[], 0, 0⟩ (productive s' l p ++ otherOuts l) with
          | some (_, t) => t
          | none => s)

/-! ### Delivery in stream order (R401 to R403) -/

def State.leaseAt (s : State) (l : LIx) (k : Nat) : Option Reorder := s.ldies[l].leases[k]?

/-- The packet that a lease delivers next. -/
def Reorder.ready (r : Reorder) : Option Packet :=
  if r.closed then none else r.held.find? (fun p => p.seq == r.next)

def Reorder.same (a b : Reorder) : Bool :=
  a.job == b.job && a.srcRank == b.srcRank && a.channel == b.channel && a.sys == b.sys

/-- The ACK of a lease (R402). -/
def State.ackPacket (s : State) (r : Reorder) : Packet :=
  let c := s.ctx (Fin.ofNat 64 r.job)
  { (default : Packet) with
    kind := .ack
    dst := r.srcAt
    src := s.cfg.inForce.coord
    channel := r.channel
    job := if r.sys then r.job else ((c.rankAt r.srcRank).map (fun e => e.ctx)).getD 0
    err := r.err
    seq := r.next
    srcRank := if r.sys then s.cfg.inForce.member else c.selfRank
    dstRank := r.srcRank
    sys := r.sys }

def Reorder.acked (r : Reorder) : Reorder :=
  { r with
    sinceAck := 0
    unackedSince := none
    err := false }

/-- The ACK of a lease sent: it leaves through the L-die that keeps the stream's lease. -/
def State.sendAck (s : State) (l : LIx) (r : Reorder) : State :=
  let p := s.ackPacket r
  s.modLDie l (fun d => { d with
    acksOut := d.acksOut ++ [p]
    leases := modFirst (fun x => x.same r) Reorder.acked d.leases })

/-- A delivery: the next SEQ, and the count to the next ACK. -/
def Reorder.step (r : Reorder) (p : Packet) (err : Bool) (now : Nat) : Reorder :=
  let held := r.held.filter (fun q => q.seq != p.seq)
  let next := (r.next + 1) % 65536
  { r with
    next := next
    held := held
    sinceAck := r.sinceAck + 1
    unackedSince := some (r.unackedSince.getD now)
    gapSince := if held == [] || held.any (fun q => q.seq == next) then none else some now
    err := r.err || err }

/-- The packet of a lease delivered, with the 16th an ACK. -/
def State.delivered (s : State) (l : LIx) (r : Reorder) (p : Packet) (err : Bool) : State :=
  let s := s.modLDie l (fun d => { d with
    leases := modFirst (fun x => x.same r) (fun x => x.step p err s.tick) d.leases })
  match s.ldies[l].leases.find? (fun x => x.same r) with
  | some x => if 16 ≤ x.sinceAck then s.sendAck l x else s
  | none => s

/-- A packet whose FORMAT is no code of Table 2-1 and not 0: rejected with a DTYPE fault, as a command is at its decode
(R36, R275, R394; log 137). -/
def State.formatFault (s : State) (l : LIx) (p : Packet) : State :=
  let s := s.record { blankRec (leaseUnit l) 0x04 2 with job := some p.job, cmd := p.tag, step := p.step }
  s.raise (64 + p.job)

/-- The next packet of the `k`-th lease, when it is of a kind, given to `f`, which answers none while it cannot go, else
the state and whether the packet is refused. -/
def State.deliver (s : State) (l : LIx) (k : Nat) (kind : PktKind)
    (f : State → Reorder → Packet → Option (State × Bool)) : State :=
  match s.leaseAt l k with
  | none => s
  | some r =>
    match r.ready with
    | none => s
    | some p =>
      if p.kind != kind then s
      else if p.format != 0 && !dtypeKnown p.format then (s.formatFault l p).delivered l r p true
      else match f s r p with
        | none => s
        | some (s, err) => s.delivered l r p err

/-- Whether a packet's range lies in a region of its context that it may write. -/
def writable (s : State) (p : Packet) (add : Bool) : Bool :=
  ((s.ctx (Fin.ofNat 64 p.job)).regionOf p.addr p.length).any (fun r => r.write && (!add || r.kind < 3))

/-- The payload of a packet in its four units with their poison. -/
def Packet.units (p : Packet) : List (Nat × List Byte × Bool) :=
  ((List.range 4).map (fun u => (64 * u, ((p.payload.take p.length).drop (64 * u)).take 64, p.poison.testBit u))).filter
    (fun x => x.2.1 != [])

/-- A stack that keeps a write or an add waiting. -/
def stackWaits (s : State) (a : Nat) : Bool :=
  match placeOf s a with
  | .stack st off => slotAccess s st off == .waits
  | _ => false

/-- A WRITE packet's payload written (R394, R405). -/
def deliverWrite (s : State) (_r : Reorder) (p : Packet) : Option (State × Bool) :=
  if !writable s p false then some (s, true)
  else if stackWaits s p.addr then none
  else some ((Packet.units p).foldl (fun s u => writeMem s (some p.job) (p.addr + u.1) u.2.1 .stream u.2.2) s, false)

/-- The generator of an adder set for the command whose adds a stream carries, seeded when the command starts there
(R58). -/
def Reorder.genOf (r : Reorder) (seed : Nat) (p : Packet) (unit : Word) : Gen :=
  match r.gens.find? (fun x => r.adds == some (p.tag, p.step) && x.unit == unit) with
  | some x => ⟨x.state, x.left⟩
  | none => genSeed seed unit p.step p.tag

/-- The generator as an add has left it. -/
def Reorder.putGen (r : Reorder) (p : Packet) (unit : Word) (g : Gen) : Reorder :=
  let old := if r.adds == some (p.tag, p.step) then r.gens.filter (fun x => x.unit != unit) else []
  { r with
    adds := some (p.tag, p.step)
    gens := old ++ [⟨unit, g.state, g.left⟩] }

/-- An ADD packet's payload added in FORMAT (R394, R567), with a POISON fault of the job where it consumes poison (R335);
a FORMAT that no adder takes is refused as an address outside the regions is. -/
def deliverAdd (l : LIx) (s : State) (r : Reorder) (p : Packet) : Option (State × Bool) :=
  if !writable s p true || !addFormat p.format then some (s, true)
  else if stackWaits s p.addr then none
  else
    let j : JobIx := Fin.ofNat 64 p.job
    let c := s.ctx j
    let st := stackAt s p.addr
    let mode : Rnd := if p.sr && p.format == dtBf16 then .sr else .rne
    let unit := unitId 2 st 0x12 0
    let (g, flushed, bad, s) := (Packet.units p).foldl (fun (g, fl, bad, s) u =>
      let (x, s) := addMem s p.job (p.addr + u.1) p.format mode (c.cfg.bit 2) u.2.2 .stream g u.2.1
      (x.gen, fl || x.flushed, bad || x.consumed, s)) (r.genOf c.seed p unit, false, false, s)
    let s := s.modLDie l (fun d => { d with leases := modFirst (fun x => x.same r) (fun x => x.putGen p unit g) d.leases })
    let s := if flushed then s.setStatus j jsSubnFlush else s
    some (if bad then s.addPoison j 2 st 0xFF p.tag p.step else s, false)

/-- A READ_REQ answered with the rest of the 256 B slot at ADDR on the same channel (R394). -/
def deliverReadReq (s : State) (_r : Reorder) (p : Packet) : Option (State × Bool) :=
  let j : JobIx := Fin.ofNat 64 p.job
  let n := 256 - p.addr % 256
  if ((s.ctx j).regionOf p.addr n).isNone then some (s, true)
  else
    let (gs, s') := (pieces 64 (n + 1) p.addr n).foldl (fun (gs, s) q =>
      let (g, s) := readMem s (some p.job) q.1 q.2 .stream
      (gs ++ [g], s)) (([] : List Got), s)
    if gs.any (·.waits) then none
    else
      let data := gs.flatMap (·.data)
      let starts := (pieces 64 (n + 1) p.addr n).map (fun q => q.1 - p.addr)
      let bad := fun u : Nat => (gs.zip starts).any (fun x =>
        x.1.poison && decide (x.2 < 64 * (u + 1)) && decide (64 * u < x.2 + x.1.data.length))
      let bits := ((List.range 4).map (fun u => if bad u then 2 ^ u else 0)).foldl (· + ·) 0
      let q := { dataPacket .readRsp 0 p.addr false false p.tag p.step data with poison := bits }
      some (s'.sendTo j p.srcRank p.channel nobody q, false)

/-- A READ_RSP handed to the copy channel that asked (R394). -/
def deliverReadRsp (s : State) (_r : Reorder) (p : Packet) : Option (State × Bool) :=
  (s.farArrived (Fin.ofNat 64 p.job) p.srcRank (p.payload.take p.length) p.poison).map (fun s => (s, false))

/-- WRITE (R394): the next packet of the `k`-th lease of an L-die. -/
def execWrite (l : LIx) (k : Nat) (s : State) : Host.Outcome State Fault Refusal := .next (s.deliver l k .write deliverWrite)
/-- ADD (R394). -/
def execAdd (l : LIx) (k : Nat) (s : State) : Host.Outcome State Fault Refusal := .next (s.deliver l k .add (deliverAdd l))
/-- READ_REQ (R394). -/
def execReadReq (l : LIx) (k : Nat) (s : State) : Host.Outcome State Fault Refusal :=
  .next (s.deliver l k .readReq deliverReadReq)
/-- READ_RSP (R394). -/
def execReadRsp (l : LIx) (k : Nat) (s : State) : Host.Outcome State Fault Refusal :=
  .next (s.deliver l k .readRsp deliverReadRsp)

/-! ### Faults of streams (R402, R404, R409) -/

/-- What a sender meets when its stream fails: the command that sent, by its engine, faults its job with `cause` for
copy traffic and CHANNEL for a collective. -/
def State.sourceFault (s : State) (x : SrcStream) (who : Nat × Nat) (cause : Nat) : State :=
  let j : JobIx := Fin.ofNat 64 x.job
  if who.1 == 3 then s.colFail j x.channel 2
  else if who.1 == 2 then
    match s.flight j 2 who.2 with
    | some f => s.jobFault j (faultOf 2 cause 3 (streamHome x.dstRank x.channel).val
        (unitId 3 (streamHome x.dstRank x.channel).val 0x24 0) f.bytes)
    | none => s
  else s

/-- A member's proxy stream faults: recorded, DRV_PROXY asserted, and the jobs run on (R409). -/
def State.proxyFault (s : State) : State :=
  (s.record { blankRec (unitId 3 0 0x24 0) 0x4B 1 with
    syndrome := [BitVec.ofNat 8 s.cfg.inForce.member] }).setCond 302 true

def SrcStream.same (a b : SrcStream) : Bool :=
  a.job == b.job && a.dstRank == b.dstRank && a.channel == b.channel && a.sys == b.sys

/-- ACK (R402): the `k`-th ACK that an L-die has received moves its stream's window; with ERR it faults the sender. -/
def execAck (l : LIx) (k : Nat) (s : State) : Host.Outcome State Fault Refusal :=
  .next (match s.ldies[l].acksIn[k]? with
    | none => s
    | some p =>
      let s := s.modLDie l (fun d => { d with acksIn := d.acksIn.eraseIdx k })
      let sel := fun x : SrcStream => x.sys == p.sys && (x.sys || x.job == p.job) && x.dstRank == p.srcRank && x.channel == p.channel
      match s.ldies[l].streams.find? sel with
      | none => s
      | some x =>
        let n := (p.seq + 65536 - x.acked) % 65536
        let out := x.sent.length - x.waiting.length
        if x.closed || out < n then s
        else
          let s := s.modLDie l (fun d => { d with
            streams := modFirst sel (fun x => { x with
              acked := p.seq
              sent := x.sent.drop n
              lastAck := if n == 0 then x.lastAck else s.tick }) d.streams })
          if p.err then s.sourceFault x ((x.sent.take (max n 1)).getLast?.getD nobody) 0x28 else s)

/-- ACK_TIMER (R402): 25 ticks since the oldest delivery not acknowledged. -/
def execAckTimer (l : LIx) (k : Nat) (s : State) : Host.Outcome State Fault Refusal :=
  .next (match s.leaseAt l k with
    | some r => if r.unackedSince.any (fun t => decide (t + 25 ≤ s.tick)) then s.sendAck l r else s
    | none => s)

/-- The lease of a stream given back (R403). -/
def State.endLease (s : State) (l : LIx) (r : Reorder) : State :=
  let s := s.modLDie l (fun d => { d with
    leases := modFirst (fun x => x.same r) (fun x => { x with leased := false }) d.leases })
  if r.sys then s else s.release [2] r.job (r.srcRank * 16 + r.channel)

/-- REORDER_LEASE_IDLE (R403). -/
def execReorderLeaseIdle (l : LIx) (k : Nat) (s : State) : Host.Outcome State Fault Refusal :=
  .next (match s.leaseAt l k with
    | some r =>
      if r.leased && r.held == [] && decide (r.lastArrival + 25000 ≤ s.tick) then s.endLease l r else s
    | none => s)

/-- STREAM_TIMEOUT (R404): the `k`-th stream of an L-die has packets outstanding and saw no ACK advance. -/
def execStreamTimeout (l : LIx) (k : Nat) (s : State) : Host.Outcome State Fault Refusal :=
  .next (match s.ldies[l].streams[k]? with
    | none => s
    | some x =>
      let limit := if x.sys then 2500 else ((s.ctx (Fin.ofNat 64 x.job)).streamCfg).field 31 16
      if x.closed || x.sent.length ≤ x.waiting.length || s.tick < x.lastAck + limit then s
      else
        let s := s.modLDie l (fun d => { d with
          streams := modFirst (fun y => y.same x) (fun y => { y with closed := true, waiting := [] }) d.streams })
        if x.sys then (if s.isMember then s.proxyFault else s)
        else s.sourceFault x (x.sent.headD nobody) 0x2D)

/-- A stream faults at its destination: it closes, what it held is dropped, and a collective that runs on it fails
(R404, R407, Table 13-4). -/
def State.sinkFault (s : State) (l : LIx) (r : Reorder) : State :=
  let s := s.modLDie l (fun d => { d with
    leases := modFirst (fun x => x.same r) (fun x => { x with
      held := []
      closed := true
      gapSince := none }) d.leases })
  if r.sys then (if s.isMember then s.proxyFault else s)
  else
    let s := s.record { blankRec (leaseUnit l) 0x2D 1 with job := some r.job }
    s.colFail (Fin.ofNat 64 r.job) r.channel 2

/-- GAP_TIMEOUT (R404): a held packet's predecessor has not come. -/
def execGapTimeout (l : LIx) (k : Nat) (s : State) : Host.Outcome State Fault Refusal :=
  .next (match s.leaseAt l k with
    | none => s
    | some r =>
      let limit := if r.sys then 2500 else ((s.ctx (Fin.ofNat 64 r.job)).streamCfg).field 15 0
      if !r.closed && r.gapSince.any (fun t => decide (t + limit ≤ s.tick)) then s.sinkFault l r else s)

/-! ### Router reset and loss (R407, R408) -/

def routerCtrlAddr (l : LIx) : Nat := regBase + 0x300104 + l.val * 0x10000

/-- ROUTER_RESET (R407): a write of DRV_ROUTER_CTRL.RESET. -/
def execRouterReset (rq : Requester) (l : LIx) (s : State) : Host.Outcome State Fault Refusal :=
  .next (s.privileged rq .installerOrCore (routerCtrlAddr l) (s.auditRec rq .regWrite 0 (routerCtrlAddr l) 0 1)
    (.routerReset l) (fun s => s.routerDrain l))

/-- A router holds no packet. -/
def LDie.clear (d : LDie) : Bool :=
  d.inputs == [] && d.leases.all (fun r => r.held == []) && d.ports.all (fun (p : Port) => p.retry == [])

/-- ROUTER_DRAIN_END (R407): the drain ends empty or after 500 ticks; streams that still hold packets fault, the router
resets and its ports retrain. -/
def execRouterDrainEnd (l : LIx) (s : State) : Host.Outcome State Fault Refusal :=
  .next (
    let d := s.ldies[l]
    if d.router != .draining || !(d.clear || decide (d.drainStart + 500 ≤ s.tick)) then s
    else
      let s := (d.leases.filter (fun r => r.held != [])).foldl (fun s r => s.sinkFault l r) s
      let s := s.modLDie l (fun d => { d with
        inputs := []
        router := .training
        ports := d.ports.map (fun (p : Port) => { p with retry := [] }) })
      let s := (List.finRange 2).foldl (fun s p =>
        let st := (s.port l p).state
        if st == .fenced || st == .dead then s else s.portTrain l p) s
      s.routerSettle l)

/-- ROUTER_LOSS (R408): the packets inside a router, in its retry buffers and in its leases are lost; its ports are DEAD
to its neighbours. -/
def execRouterLoss (l : LIx) (s : State) : Host.Outcome State Fault Refusal :=
  .next (
    let s := s.setFlt (fun f => { f with
      leases := f.leases.filter (fun x => !(x.kind == 2 && (unitName x.unit).die == l.val)) })
    let s := s.modLDie l (fun d => { d with
      inputs := []
      acksOut := []
      acksIn := []
      leases := []
      ports := d.ports.map (fun (p : Port) => { p with retry := [] }) })
    (List.finRange 2).foldl (fun s p => if (s.port l p).state == .off then s else s.portTo l p .dead) s)

/-- NEIGHBOUR_ROUTER_DRAIN (R407): the port facing a draining router drains and is dead to routing. -/
def execNeighbourRouterDrain (l : LIx) (p : PortIx) (s : State) : Host.Outcome State Fault Refusal :=
  .next (
    let s := s.modPort l p (fun x => { x with neighbourDrain := true })
    if (s.port l p).state == .up then s.portTo l p .draining else s)

end Sys2Proof.Machine
end

