-- ==== Sys2Proof/Machine/Loom.lean ====
section
/-! DEFINITION. The Loom (chapters 3 and 4, R237 to R241): its commands cut into blocks and passes, what tiles do with
them, and the storm rule. -/

namespace Sys2Proof.Machine

/-! ### Small operations on tiles, flights and lists -/

def State.modFlight (s : State) (j : JobIx) (e : EngIx) (fid : Nat) (f : Flight → Flight) : State :=
  s.modQ j e (fun q => { q with inflight := modFirst (fun x => x.fid == fid) f q.inflight })

/-- Clocks charged to the fallback reserve of a list and to its FALLBACK account (R150, R172, Table 9-3). -/
def Queue.fallback (q : Queue) (list : Option Nat) (reserve account : Nat) : Queue :=
  { q with
    lists := q.lists.map (fun l =>
      if some l.lid == list then
        { l with reserve := l.reserve - reserve, accounts := modAt l.accounts 0 (· + account) }
      else l) }

/-- Tiles that hold the service role and are not fenced (R31, R116). -/
def CDie.serviceTiles (d : CDie) : List Nat :=
  (List.range 136).filter (fun i => d.tiles[Fin.ofNat 136 i].role == .service && d.tiles[Fin.ofNat 136 i].state != .fenced)

/-- The `k`-th entry that satisfies a predicate. -/
def nthWhere {α : Type} (p : α → Bool) (k : Nat) (l : List α) : Option α := (l.filter p)[k]?

/-- A tile's tally when a pass of a command starts on it (R447). -/
def Tile.tallied (t : Tile) (j : Nat) (cmd step : Word) (level : Nat) : Tile :=
  let first := if t.first.any (fun f => f.job == j) then t.first else t.first ++ [⟨j, step⟩]
  let fresh := { t with
    tally := (⟨cmd, step, j, level, 1⟩ :: t.tally).take 4096
    wrapped := t.wrapped || decide (4096 ≤ t.tally.length)
    first := first }
  match t.tally with
  | e :: es =>
    if e.cmd == cmd && e.step == step && e.job == j then
      { t with tally := { e with passes := min (e.passes + 1) 0xFFFFFFFF, level := max e.level level } :: es }
    else fresh
  | [] => fresh

/-! ### Decode (R79, R122 to R129, R137 to R139, R237) -/

/-- Operand addresses of a matmul, in the order `Mat.of` takes them. -/
def matUses (b : List Byte) : List (Nat × Use) :=
  let x := fun lo => if Slot.ext b then Slot.extField b lo 6 else 0
  let bf := Use.input (· == dtBf16)
  let nb := if opcodeOf b == 0x11 then Slot.extField b 46 2 else 1
  [(Slot.d b 0, Use.input loomType), (Slot.d b 2, Use.output (fun c => c == dtFp32 || c == dtBf16 || isBlock c)),
   (Slot.d b 3, Use.input (fun c => c == dtFp32 || c == dtBf16)), (Slot.d b 4, Use.output dtypeKnown),
   (x 0, bf), (x 6, bf), (x 24, bf), (x 18, Use.input (· == dtInt32))] ++
  (List.range (min nb 1024)).map (fun i => (Slot.d b 1 + 64 * i, (⟨loomType, false, false, false, true⟩ : Use)))

/-- A matmul's own checks, which follow those of Table 6-2. -/
def matChecks (m : Mat) : List (Nat × Nat) :=
  let b := m.b
  let grouped := opcodeOf b == 0x11
  let a := m.a.d
  let o := m.o.d
  let seed := fun (d : Desc) => d.seedOn (Slot.kaxis b)
  let b0 := (m.bs.headD default).d
  let nb := Slot.extField b 46 2
  let batch := b0.rows / max 1 (b0.ext 1)
  let outer := fun (x : Scaled) => x.d.smode != 0 && x.d.rot != 2
  rankAt 4 (m.bs.any (fun x => !x.d.woven)) 3 ++
  rankAt 7 (m.bs.any (fun x => (x.d.rot == 0) != (a.rot == 0) || (a.rot != 0 && seed x.d != seed a)) ||
    (m.outer && a.rot == 1)) 7 ++
  rankAt 8 (!m.bias && m.p.any (fun p => p.d.smode != 0)) 8 ++
  rank10 ((m.outer && outer m.a) || m.up.any outer) 9 ++
  rank10 (m.bs.any (fun x => x.d.ext 0 != m.k || x.d.ext 1 != m.n) ||
    (!m.outer && a.ext 0 != m.k) || o.rows != m.rows ||
    (if grouped then nb == 0 || 1024 < nb || Slot.extField b 36 6 % 4 != 0 || m.outer
      else batch != 1 && (m.outer || !(List.range 4).all (fun i => a.ext (i + 2) == b0.ext (i + 2)))) ||
    m.p.any (fun p => p.d.ext 0 != m.n || (!m.bias && p.d.rows != o.rows)) ||
    (!grouped && decide (m.f.d.span < 4 * (batch * ceilDiv (m.rows / max 1 batch) 256 * ceilDiv m.n 128))) ||
    m.down.isSome != m.up.isSome || m.down.any (fun x => x.d.ext 0 != m.rlr || x.d.rows != m.rows) ||
    m.up.any (fun x => x.d.ext 0 != m.n || x.d.rows != m.rlr) ||
    m.downG.isSome != m.tags.isSome || m.downG.isSome != (m.ledger != 0) ||
    m.downG.any (fun x => x.d.ext 0 != 64 || x.d.rows != m.rows)) 3 ++
  rank10 (64 < m.rlr) 0x0F

/-! ### Segments, blocks and passes (R82, R83, R127, R238, R239, R253) -/

/-- A segment: its rows, the B descriptor it takes (none = no operand), and B's indices from dimension 2 on. -/
structure LoomSeg where
  row0 : Nat
  rows : Nat
  b : Nat
  bidx : List Nat
deriving DecidableEq, Repr, Inhabited

/-- The entries of a segment table: how many are left, the first entry, the end of the one before (R238). -/
def Eng.segmentTable (a rows nb : Nat) (noneOk : Bool) : Nat → Nat → Nat → Eng (List LoomSeg)
  | 0, _, _ => pure []
  | n + 1, i, stop => do
    if ← Eng.stopped then return []
    let (e, p) ← Eng.rd (a + 16 * i) 16 .stream
    Eng.consume p
    let r0 := slotField e 0 4
    let rn := slotField e 4 4
    let sel := slotField e 8 2
    Eng.failIf (!p && (r0 < stop || rows < r0 + rn || (if sel == 0xFFFF then !noneOk else nb ≤ sel))) 0x25
    let rest ← Eng.segmentTable a rows nb noneOk n (i + 1) (r0 + rn)
    return ⟨r0, rn, sel, [0, 0, 0, 0]⟩ :: rest

/-- The segments of a grouped command. -/
def Eng.grouped (b : List Byte) (rows : Nat) (noneOk : Bool) : Eng (List LoomSeg) := do
  let n ← Eng.word (Slot.extField b 36 6) 4
  Eng.segmentTable (Slot.extField b 30 6) rows (Slot.extField b 46 2) noneOk n 0 0

/-- The segments of an ungrouped matmul: one per matrix of a batched B (log 45). -/
def Mat.batches (m : Mat) : List LoomSeg :=
  let b0 := (m.bs.headD default).d
  let batch := b0.rows / max 1 (b0.ext 1)
  if batch == 1 then [⟨0, m.rows, 0, [0, 0, 0, 0]⟩]
  else (List.range batch).map (fun q => ⟨q * m.a.d.ext 1, m.a.d.ext 1, 0, (b0.coords (q * b0.ext 1)).drop 1⟩)

/-- The grid of output blocks, segment by segment in row-major order (R239, R253); `passes` gives the passes of a block by
its segment's B. -/
def gridOf (j fid n : Nat) (passes : Nat → Nat) (segs : List LoomSeg) : List BlockWork :=
  let cs := List.range (ceilDiv n 128)
  let bs := ((List.range segs.length).zip segs).flatMap (fun p =>
    (List.range (ceilDiv p.2.rows 256)).flatMap (fun r => cs.map (fun c =>
      (⟨j, fid, 0, 0, p.1, p.2.b, r, p.2.row0 + 256 * r, min 256 (p.2.rows - 256 * r), 128 * c, min 128 (n - 128 * c), 0,
        passes p.2.b, 0, LoomFlags.none, false, false, false, none, false⟩ : BlockWork))))
  ((List.range bs.length).zip bs).map (fun p => { p.2 with idx := p.1 })

/-- A range of groups cut into passes at a level: first group and length of each (R82, R83, R127). -/
def cutPasses (g0 groups unit level : Nat) : List (Nat × Nat) :=
  let units := groups / max 1 unit
  let top := (if level == 2 then 32 else 128) / max 1 unit
  let n := ceilDiv units top
  (List.range n).map (fun i =>
    let q := units / n
    let r := units % n
    (g0 + unit * (i * q + min i r), unit * (q + if i < r then 1 else 0)))

/-- Whether a command's output is written a band of rows at a time: row scales and rotation blocks span its blocks. -/
def Mat.banded (m : Mat) : Bool := m.o.row || m.o.d.rot == 1

/-- The passes of a block of a B: first group and length of each. -/
def Mat.cuts (m : Mat) (i : Nat) : List (Nat × Nat) := cutPasses 0 m.groups m.unit (m.level i)

/-- Blocks that a KEEP command leaves as they stand, by the level in their flag words (R152); the two blocks that share
the rotation blocks of a STORED output together (log 123). -/
def Mat.keeps (m : Mat) (words : List (Nat × Nat)) (bs : List BlockWork) (x : BlockWork) : Bool :=
  let has := fun (y : BlockWork) =>
    0 < m.level y.bsel && words.any (fun w => w.1 == y.idx && decide (m.level y.bsel ≤ w.2 / 256 % 4))
  if m.o.d.rot == 1 then bs.all (fun y => !(y.seg == x.seg && y.band == x.band && y.c0 / 256 == x.c0 / 256) || has y)
  else has x

/-- The passes of a block. -/
def Mat.passList (m : Mat) (x : BlockWork) : List PassWork :=
  let cuts := m.cuts x.bsel
  ((List.range cuts.length).zip cuts).map (fun p =>
    ⟨x.job, x.fid, x.die, x.idx, p.1 == 0, p.2.1, p.2.2, m.level x.bsel, 0, false, none⟩)

/-- How many passes a command counts and restarts for its layer scoreboard (R151). -/
def Ctx.layerCount (c : Ctx) (sb : Nat) (issued repeated : Nat) : Ctx :=
  let l := if c.layers.any (fun l => l.sb == sb) then c.layers else c.layers ++ [⟨sb, 0, 0⟩]
  { c with
    layers := modFirst (fun l => l.sb == sb)
      (fun l => { l with issued := l.issued + issued, repeated := l.repeated + repeated }) l }

def Ctx.layerRestart (c : Ctx) (m : Mat) : Ctx :=
  if Slot.layerFirst m.b && m.layerEn then { c with layers := c.layers.filter (fun l => l.sb != m.layerSb) } else c

/-- The work of a command put before the tiles: blocks and passes by C-die, and the leases of its partial tensor. -/
def State.putBlocks (s : State) (j : JobIx) (fid : Nat) (m : Mat) (dies : List CIx)
    (grid : List BlockWork) (keep : BlockWork → Bool) : State × Nat :=
  let n := dies.length
  ((List.range n).zip dies).foldl (fun (r : State × Nat) p =>
    let share := shareOf grid p.1 n
    let split := decide (share.length < (r.1.cdies[p.2].serviceTiles).length)
    let mine := ((List.range share.length).zip share).map (fun q =>
      { q.2 with
        die := p.2.val
        pos := q.1
        split := split })
    let mine := mine.filter (fun x => !keep x)
    let s := if mine == [] then r.1
      else r.1.grant 1 j.val (unitId 1 p.2.val 2 0) fid (0x080000000000 + p.2.val * 2 ^ 28 + m.partialAt)
        (131072 * share.length)
    let s : State := { s with
      blocks := s.blocks ++ mine
      passes := s.passes ++ mine.flatMap m.passList }
    (s, r.2 + mine.length)) (s, 0)

/-- A matmul over its operands as their descriptors give them. -/
def matOf (b : List Byte) (ds : List (Option Desc)) : Mat :=
  Mat.of b (ds.map (fun d => d.map (fun d => (⟨d, false, d.tscale⟩ : Scaled))))

/-- What a matmul reads before its passes: its operands in their step, its grid of blocks, the flag words of a KEEP. -/
def Eng.matPrep (b : List Byte) (ds : List (Option Desc)) (row : Bool) (j : JobIx) (fid : Nat) :
    Eng (List (Option Scaled) × List BlockWork × List (Nat × Nat)) := do
  let m := matOf b ds
  let ops ← ds.mapM (fun d => Eng.scaledOpt d row (cmdStep b))
  let segs ← if opcodeOf b == 0x11 then Eng.grouped b m.rows false else pure m.batches
  let grid := gridOf j.val fid m.n (fun i => (m.cuts i).length) segs
  let words ← if Slot.keep b then grid.mapM (fun x => do
      let (d, p) ← Eng.rd (m.f.d.base + 4 * x.idx) 4 m.f.d.hint
      Eng.consume p
      return (x.idx, leNat d))
    else pure []
  return (ops, grid, words)

/-- What the start of a matmul sets: LONG_SUM past 2^24 products, its layer count anew (R98, R151). -/
def State.matBegin (s : State) (j : JobIx) (m : Mat) : State :=
  let s := if 2 ^ 24 < m.k then s.setStatus j jsLongSum else s
  s.modCtx j (fun c => c.layerRestart m)

/-- A matmul of one or several segments decoded and cut (R75, R83, R94, R237). -/
def State.matmul (j : JobIx) (s : State) (b : List Byte) (fid : Nat) : Begin :=
  let c := s.ctx j
  let dies := s.diesOf j 0 b
  if dies == [] || s.overtaken j 0 dies then .stays
  else
    let low := (dies.head?.map (·.val)).getD 0
    let ((ds, fs), v) := (Eng.operands c (matUses b)).run (envOf s j b fid)
    let m0 := matOf b ds
    settleDecode 0 b low v (fs ++ matChecks m0 ++ stepFault c b) (fun s =>
      let (row, s) := s.fixRow j (cmdStep b)
      let s := s.matBegin j m0
      if m0.o.d.empty then .done s
      else
        let ((ops, grid, words), v) := (Eng.matPrep b ds row j fid).run (envOf s j b fid)
        settleDecode 0 b low v [] (fun s =>
          let m := Mat.of b ops
          let (s, n) := s.putBlocks j fid m dies grid (m.keeps words grid)
          .starts s { shares := n, ops := ops }))

/-- MATMUL (R75, R94 to R103). -/
def execMatmul (j : JobIx) (s : State) : Host.Outcome State Fault Refusal := .next (s.runSlot j 0 0x10 (State.matmul j))
/-- MATMUL_GROUPED (R237 to R239). -/
def execMatmulGrouped (j : JobIx) (s : State) : Host.Outcome State Fault Refusal :=
  .next (s.runSlot j 0 0x11 (State.matmul j))

/-! ### A pass (R82, R86, R93, R140 to R147) -/

/-- The rows of A and the columns of B of a block. -/
def Mat.rowsOf (m : Mat) (x : BlockWork) : List PortRow :=
  (rangeFrom x.r0 x.rows).map (fun r => if m.outer then ⟨m.a, true, [], r⟩ else ⟨m.a, false, m.a.d.coords r, 0⟩)

def Mat.colsOf (m : Mat) (x : BlockWork) (seg : LoomSeg) : List PortRow :=
  (rangeFrom x.c0 x.cols).map (fun c => ⟨m.bs.getD seg.b default, false, c :: seg.bidx, 0⟩)

/-- Which of a pass's groups hold no non-zero element in any row of the block (R108), and the poison of the bits. -/
def Eng.emptyGroups (rows : List PortRow) (k g0 n : Nat) : Eng (List Bool × Bool) := do
  let a := (rows.headD default).x.d
  let bits ← (List.range n).mapM (fun i =>
    if ceilDiv k 32 ≤ g0 + i then pure (true, false)
    else do
      let bs ← rows.mapM (fun r => Eng.rd (a.bitmapAt + a.rowIndex r.idx * a.bitmapPitch + (g0 + i) / 8) 1 .stream)
      return (bs.all (fun b => !((leNat b.1).testBit ((g0 + i) % 8))), bs.any (fun b => b.2)))
  return (bits.map (·.1), bits.any (·.2))

/-- What streaming the units of a pass gives. -/
structure Streamed where
  units : List PassUnit
  trouble : Trouble
  skipped : Nat
  groups : Nat
  stopped : Bool
  /-- Poison read in the unit that trouble dropped. -/
  poison : Bool
deriving Repr, Inhabited

/-- The rows of A of a masked rotation block may list outliers, whose terms are added all the same (R136, log 53). -/
def PortRow.lists (r : PortRow) (level : Nat) : Bool := r.x.d.rot == 1 && r.x.d.outlierAt != 0 && level == 0

/-- The units of a pass in K order, until trouble stops it (R142, R146). -/
def Eng.stream (pa pb : Port') (ar br : List PortRow) (k unit : Nat) (stops : Bool) (empty : Nat → Bool) :
    List Nat → Eng Streamed
  | [] => pure ⟨[], Trouble.none, 0, 0, false, false⟩
  | g :: gs => do
    if ← Eng.stopped then return ⟨[], Trouble.none, 0, 0, false, false⟩
    let all := (List.range unit).map (fun i => empty (g + i))
    let inTile := (ar.head?.map (fun r => r.x.d.rot)).getD 0 == 2
    if all.all id && !ar.any (fun r => r.lists pa.level) then
      let r ← Eng.stream pa pb ar br k unit stops empty gs
      return { r with skipped := r.skipped + unit }
    else
      let mask := (List.range unit).map (fun i => !inTile && empty (g + i) && (all.all id || decide (g + i < ceilDiv k 32)))
      let (us, ta) ← Eng.portUnit pa ar k g unit mask
      let dirty := us.any (fun u => u.poison)
      if stops && ta.any then return ⟨[], ta, 0, 0, true, dirty⟩
      let bmask := (List.range unit).map (fun i => mask.getD i false &&
        !us.any (fun u => u.list.any (fun o => o.1 / 32 == i)))
      let (bs, tb) ← Eng.portUnit pb br k g unit bmask
      let t := ta.or tb
      let sk := (mask.filter id).length
      if stops && t.any then return ⟨[], t, 0, 0, true, dirty || bs.any (fun u => u.poison)⟩
      let r ← Eng.stream pa pb ar br k unit stops empty gs
      return ⟨⟨us, bs, mask⟩ :: r.units, t.or r.trouble, r.skipped + sk, r.groups + unit - sk, r.stopped, r.poison⟩

/-- P of a block's row in the scratchpad of its C-die: 512 bytes a row, 128 KiB a block (R94, log 46). -/
def Mat.partialRow (m : Mat) (x : BlockWork) (row : Nat) : Nat :=
  0x080000000000 + x.die * 2 ^ 28 + m.partialAt + 131072 * x.pos + 512 * row

/-- P starts as the preload, or as zero (R94, R100): whether the block's own preload is poisoned (R182), and whether it is
NaN somewhere (R145). -/
def Eng.startP (m : Mat) (x : BlockWork) : Eng (Bool × Bool) := do
  let ws ← (List.range x.rows).mapM (fun i => do
    let (v, p) ← match m.p with
      | none => pure (List.replicate x.cols 0#32, false)
      | some d => Eng.spanValues d (if m.bias then [0, 0, 0, 0, 0] else d.d.coords (x.r0 + i)) x.c0 x.cols
    Eng.wr (m.partialRow x i) (v.flatMap (fun w => leBytes 4 w.toNat)) .stream p
    return (p, v.any isNan32))
  return (ws.any (·.1), ws.any (·.2))

def Eng.readP (m : Mat) (x : BlockWork) (i : Nat) : Eng (List Word × Bool) := do
  let (b, p) ← Eng.rd (m.partialRow x i) (4 * x.cols) .stream
  return ((List.range x.cols).map (fun c => BitVec.ofNat 32 (slotField b (4 * c) 4)), p)

/-- An FP32 result of the Loom flushed in its job's subnormal mode (R101). -/
def Eng.flushed (subn : Bool) (w : Word) : Eng Word := do
  let (w, f) := flush32 subn w
  Eng.status f jsSubnFlush
  return w

/-- What an attempt at a pass leaves. -/
structure Attempt where
  trouble : Trouble
  nonfinite : Bool
  added : Bool
  poison : Bool
  flags : LoomFlags
  /-- Groups skipped, those of a discarded attempt included (R120). -/
  skips : Nat
  clocks : Nat
  stall : Nat
  stretch : Nat
deriving Repr, Inhabited

/-- A row of y, o and u of a pass, and whether y became infinite from finite operands. -/
structure OutRow where
  y : List Word
  o : List Word
  u : List Word
  ovf : Bool
  lost : Bool
deriving Repr, Inhabited

/-- One output row of a pass (R93, R140). -/
def Eng.outRow (us : List PassUnit) (level : Nat) (e5m2 subn hasO : Bool) (tb : List Word) (ta : Word)
    (up : Option (List Word)) (i : Nat) : Eng OutRow := do
  let cs ← ((List.range tb.length).zip tb).mapM (fun p => do
    let tab := mul32 ta p.2
    let (acc, lost) := accumulate level e5m2 us i p.1
    let y ← Eng.flushed subn (rne32 (acc.mul (dec32 tab)))
    let o := if hasO then mul32 (outlierSum us i p.1) tab else 0
    return (y, o, acc.isFin && isInf32 y && isFin32 tab, lost))
  return ⟨cs.map (·.1), if hasO then cs.map (·.2.1) else [], up.getD [], cs.any (·.2.2.1), cs.any (·.2.2.2)⟩

/-- The adds of one row into P in the order of R140, poisoned with the whole block (R104): whether an add of finite values
became infinite. o and u are flushed as adds into P (R163). -/
def Eng.drainRow (m : Mat) (x : BlockWork) (subn poison : Bool) (i : Nat) (r : OutRow) : Eng Bool := do
  let (p, _) ← Eng.readP m x i
  let add := fun (p v : List Word) => (List.zip p v).mapM (fun t => do
    let z ← Eng.flushed subn (add32 t.1 t.2)
    return (z, isInf32 z && isFin32 t.1 && isFin32 t.2))
  let p1 ← add p r.y
  let p2 ← if r.o == [] then pure p1 else add (p1.map (·.1)) r.o
  let p3 ← if r.u == [] then pure p2 else add (p2.map (·.1)) r.u
  Eng.wr (m.partialRow x i) ((p3.map (·.1)).flatMap (fun w => leBytes 4 w.toNat)) .stream poison
  return (p1 ++ p2 ++ p3).any (·.2)

/-- How a port works in a command (R125, R128, R133). -/
def Mat.port (m : Mat) (c : Ctx) (level : Nat) (grad : Bool) : Port' where
  level := level
  rnd := if grad then .sr else .rne
  outShift := c.fbCfg.field 15 12
  amaxShift := c.fbCfg.field 11 8
  seed := m.a.d.seedOn (Slot.kaxis m.b)

/-- MAX_LEVEL; 3 acts as 2 (R157). -/
def Ctx.maxLevel (c : Ctx) : Nat := min 2 (c.fbCfg.field 17 16)

/-- What an attempt that is dropped, or stopped by a fault, leaves. -/
def Attempt.dropped (t : Trouble) (nonfinite : Bool) (flags : LoomFlags) (skips clocks stall stretch : Nat) : Attempt :=
  ⟨t, nonfinite, false, false, flags, skips, clocks, stall, stretch⟩

/-- One attempt at a pass: it streams, and drains into P unless trouble drops it or a fault stops it (R107, R135, R146).
The bitmap of an A contracted over its dimension 1 is not used: its bits stand for groups along dimension 0 (log 124). -/
def Eng.attempt (m : Mat) (x : BlockWork) (seg : LoomSeg) (p : PassWork) (zskip : Bool) : Eng Attempt := do
  let c ← Eng.context
  let subn := c.cfg.bit 2
  let stops := decide (p.level < c.maxLevel)
  let ar := m.rowsOf x
  let br := m.colsOf x seg
  let (startPoison, badPre) ← if x.started then pure (false, false) else Eng.startP m x
  let (mt, mp) ← if zskip && m.a.d.bitmapAt != 0 && !m.outer then Eng.emptyGroups ar m.k p.g0 p.groups else pure ([], false)
  let units := (List.range (p.groups / m.unit)).map (fun i => p.g0 + m.unit * i)
  let st ← Eng.stream (m.port c p.level (Slot.gradA m.b)) (m.port c p.level (Slot.gradB m.b)) ar br m.k m.unit stops
    (fun g => mt.getD (g - p.g0) false) units
  let rows := st.units.flatMap (fun u => u.as ++ u.bs)
  let inPoison := startPoison || mp || x.poisoned || st.poison || rows.any (fun r => r.poison)
  let none' := LoomFlags.none
  let seen := { none' with
    outlierOvf := st.trouble.outlier || rows.any (fun r => r.listOvf)
    amaxRatio := st.trouble.amax
    clamp := st.trouble.clamp }
  let array := arrayClocks p.level (m.sparse x.bsel) st.groups st.skipped
  if ← Eng.stopped then return Attempt.dropped Trouble.none false none' st.skipped 0 0 0
  if st.stopped && !inPoison then
    return Attempt.dropped st.trouble false seen st.skipped (if st.groups == 0 && st.skipped == 0 then 0 else array + 8) 0 0
  let (urows, up) ← if p.up then Eng.upRows m x.c0 x.cols else pure ([], false)
  let us ← if p.up && (m.up.isSome || m.tags.isSome) then
      (rangeFrom x.r0 x.rows).mapM (fun r => do return some (← Eng.upRow m urows r x.c0 x.cols))
    else pure (List.replicate x.rows none)
  let tb ← br.mapM (fun r => Eng.rowT r.x r.idx)
  let tas ← (List.range x.rows).mapM (fun i =>
    if m.outer then pure (if m.a.row then one32 else m.a.t, false) else Eng.rowT m.a (m.a.d.coords (x.r0 + i)))
  let old ← (List.range x.rows).mapM (Eng.readP m x)
  if ← Eng.stopped then return Attempt.dropped Trouble.none false none' st.skipped 0 0 0
  let e5 := fun (d : Desc) => (d.dtype == dtE5m2 || d.dtype == 9) && d.rot != 2
  let e5m2 := p.level != 2 && (e5 m.a.d || e5 (m.bAt seg.b).d)
  let hasO := st.units.any (fun u => u.outliers != (0, 0))
  let outs ← ((List.range x.rows).zip (us.zip tas)).mapM (fun t =>
    Eng.outRow st.units p.level e5m2 subn hasO (tb.map (·.1)) t.2.2.1 (t.2.1.map (·.u)) t.1)
  let uinfo := us.filterMap id
  let bad := badPre || rows.any (fun r => r.bad) || uinfo.any (fun u => u.bad)
  let nonfin := !bad && outs.any (fun r => (r.y ++ r.o ++ r.u).any (fun w => !isFin32 w))
  let poison := inPoison || up || uinfo.any (fun u => u.poison) || (tb ++ tas).any (·.2) || old.any (·.2)
  let rank := (uinfo.map (fun u => u.rank)).foldl max 0
  let side := sideClocks st.units + if p.up then 16 * (m.rlr + rank) else 0
  let clocks := max array side + 8
  let ovfY := outs.any (fun r => r.ovf)
  let seen := { seen with
    ovf := ovfY
    e5m2Trunc := outs.any (fun r => r.lost) }
  let a' := max array (16 * (m.rlr + if m.ledger != 0 then 64 else 0))
  if nonfin && stops && !poison then
    Eng.status ovfY jsAccOvf
    return Attempt.dropped st.trouble true seen st.skipped clocks (side - array) (side - a')
  let ds ← ((List.range x.rows).zip outs).mapM (fun t => Eng.drainRow m x subn poison t.1 t.2)
  let ovf := ovfY || ds.any id
  Eng.status ovf jsAccOvf
  return ⟨st.trouble, nonfin, true, poison,
    { seen with
      ovf := ovf
      passes := 1
      skipped := st.skipped
      level := p.level
      poison := poison }, st.skipped, clocks, side - array, side - a'⟩

/-- The columns of a block's B: descriptor and indices from dimension 2 on. -/
def Mat.segOf (m : Mat) (x : BlockWork) : LoomSeg :=
  let g := m.batches.getD x.seg ⟨0, 0, 0, [0, 0, 0, 0]⟩
  if opcodeOf m.b == 0x11 then ⟨0, 0, x.bsel, [0, 0, 0, 0]⟩ else g

/-! ### Writing blocks (R96, R100 to R105, R172) -/

/-- The values of P of a block, by row, and their poison. -/
def Eng.blockRows (m : Mat) (x : BlockWork) : Eng (List (List Word) × Bool) := do
  let rs ← (List.range x.rows).mapM (Eng.readP m x)
  return (rs.map (·.1), rs.any (·.2))

/-- The parts of the row of some blocks that stand side by side: their P from the first one's column on, with the marks
of blocks that hold an infinity or NaN (R172). -/
def rowPartsOf (m : Mat) (bs : List (BlockWork × List (List Word) × Bool)) : List RowPart :=
  let x := (bs.headD default).1
  (List.range x.rows).map (fun r =>
    let v := bs.flatMap (fun b => b.2.1.getD r [])
    (⟨m.o.d.coords (x.r0 + r), x.c0, v, amaxOf v, bs.any (fun b => b.2.2),
      bs.map (fun b => b.2.1.any (fun l => l.any (fun w => !isFin32 w)))⟩ : RowPart))

/-- The parts of a band of blocks as rows for the writer: whole where every block of the band is here, else by rotation
block of a STORED output, else by block. -/
def bandParts (m : Mat) (bs : List (BlockWork × List (List Word) × Bool)) : List RowPart :=
  if (bs.map (fun b => b.1.cols)).foldl (· + ·) 0 == m.n then rowPartsOf m bs
  else if m.o.d.rot == 1 then
    ((bs.map (fun b => b.1.c0 / 256)).eraseDups).flatMap (fun k => rowPartsOf m (bs.filter (fun b => b.1.c0 / 256 == k)))
  else bs.flatMap (fun b => rowPartsOf m [b])

/-- The clocks that the recomputes of a finish add: 136 for each block whose P is quantised a second time (R172; once,
whether one or both of its scale blocks are recomputed, log 125). -/
def recomputeClocks (m : Mat) (bs : List BlockWork) (halved : List Nat) : Nat :=
  136 * (bs.filter (fun x => (List.range x.rows).any (fun r =>
    halved.contains (m.o.d.scaleBlock (m.o.d.coords (x.r0 + r)) x.c0)))).length

/-- Blocks written to the output with their flag words: what their P holds decides NAN and INF (R102, R103). -/
def Eng.finishBlocks (m : Mat) (die : Nat) (bs : List BlockWork) : Eng (List LoomFlags × Nat) := do
  let rs ← bs.mapM (fun x => do
    if !x.started then
      let _ ← Eng.startP m x
    let (v, p) ← Eng.blockRows m x
    return (x, v, p || x.poisoned))
  let grad := Slot.gradOut m.b && loomType m.o.d.dtype
  let kept := (bs.map (fun b => b.cols)).foldl (· + ·) 0 != m.n
  let w ← Eng.writeParts { Writer.of m.o (if grad then .sr else .rne) m.b die with kept := m.o.row && kept } (bandParts m rs)
  let fs ← rs.mapM (fun r => do
    let f := { r.1.flags with
      clamp := r.1.flags.clamp || w.clamp
      nan := r.2.1.any (fun l => l.any isNan32)
      inf := r.2.1.any (fun l => l.any isInf32)
      poison := r.2.2 }
    Eng.wr (m.f.d.base + 4 * r.1.idx) (leBytes 4 f.word.toNat) m.f.d.hint false
    return f)
  Eng.consume (rs.any (fun r => r.2.2))
  return (fs, recomputeClocks m bs w.halved)

/-- The finish of some blocks: their LAST lines leave the cache before its writes reach them (R96, R216). -/
def Eng.finish (m : Mat) (die : Nat) (bs : List BlockWork) : Eng (List LoomFlags × Nat) := do
  let r ← Eng.finishBlocks m die bs
  Eng.settle
  return r

/-- The flags of an attempt joined to its block's; a dropped attempt adds no pass. -/
def BlockWork.seen (x : BlockWork) (a : Attempt) (t : TileIx) : BlockWork :=
  { x with
    flags := x.flags.join a.flags
    started := true
    poisoned := x.poisoned || a.poison
    arrived := if a.added then x.arrived + 1 else x.arrived
    tile := some t.val }

/-- An attempt at a pass of a block on a tile. One that reads poison consumes it: its output block is written poisoned with
its flag word, and the job faults at the command (R104, R335; log 126). -/
def Eng.pass (m : Mat) (d : CIx) (t : TileIx) (x : BlockWork) (p : PassWork) (zskip : Bool) : Eng Attempt := do
  let a ← Eng.attempt m x (m.segOf x) p zskip
  if a.poison then
    let _ ← Eng.finishBlocks m d.val [x.seen a t]
  Eng.settle
  return a

/-! ### Issuing passes (R95, R113, R114, R147, R305) -/

/-- The generator of a tile for a command in flight (R58 to R60). -/
def Flight.genOf (f : Flight) (seed : Nat) (unit : Word) : Gen :=
  match f.gens.find? (fun g => g.unit == unit) with
  | some g => ⟨g.state, g.left⟩
  | none => genSeed seed unit (cmdStep f.bytes) (cmdId f.bytes)

def Flight.putGen (f : Flight) (unit : Word) (g : Gen) : Flight :=
  { f with gens := ⟨unit, g.state, g.left⟩ :: f.gens.filter (fun x => x.unit != unit) }

def State.modBlock (s : State) (x : BlockWork) (f : BlockWork → BlockWork) : State :=
  { s with blocks := modFirst (fun y => y.job == x.job && y.fid == x.fid && y.idx == x.idx) f s.blocks }

def State.blockOf (s : State) (p : PassWork) : Option BlockWork :=
  s.blocks.find? (fun x => x.job == p.job && x.fid == p.fid && x.idx == p.block)

/-- The deadline rank of a list in a queue: late lists last (R305, R310). -/
def State.rankOf (s : State) (j : Nat) (list : Option Nat) : Nat × Nat :=
  match (s.queue (Fin.ofNat 64 j) 0).lists.find? (fun l => some l.lid == list) with
  | some l => (if l.late then 1 else 0, l.deadlineTick)
  | none => (2, 0)

def rankBefore (a b : (Nat × Nat) × Nat) : Bool :=
  decide (a.1.1 < b.1.1) || (a.1.1 == b.1.1 && (decide (a.1.2 < b.1.2) || (a.1.2 == b.1.2 && decide (a.2 < b.2))))

def State.passRank (s : State) (p : PassWork) : (Nat × Nat) × Nat :=
  (s.rankOf p.job ((s.flight (Fin.ofNat 64 p.job) 0 p.fid).bind (·.list)), p.job)

/-- Whether a first attempt keeps the K order of a block whose passes run on one tile (R95). -/
def State.inOrder (s : State) (p : PassWork) : Bool :=
  p.repeats != 0 || (s.blockOf p).any (·.split) ||
  s.passes.find? (fun q => q.job == p.job && q.fid == p.fid && q.block == p.block && q.repeats == 0) == some p

/-- Whether a C-die's engine may give a first attempt out: no command of a list with an earlier deadline has one (R305).
Passes of split blocks go out in any order. -/
def State.isNext (s : State) (p : PassWork) : Bool :=
  (s.passes.filter (fun q => q.die == p.die && q.tile.isNone && q.repeats == 0)).all
    (fun q => q.job == p.job || !rankBefore (s.passRank q) (s.passRank p))

/-- Whether a tile may take a pass: none of its own comes first. A queued repeat leaves room for the one pass that R86
has started before it, and then comes next (R146, R147). -/
def State.tileFree (s : State) (d : CIx) (t : TileIx) (p : PassWork) : Bool :=
  let own := s.passes.filter (fun q => q.die == d.val && q.tile == some t.val)
  (p.tile == some t.val || own.all (fun q => q.repeats != 0)) && own.all (fun q => !q.next || q == p)

/-- A lease of the command's partial tensor is being revoked: the arbiter refuses its accesses (R438). -/
def State.partialRevoked (s : State) (p : PassWork) : Bool :=
  s.flt.leases.any (fun l => l.kind == 1 && l.job == p.job && l.fid == p.fid && l.revoking.isSome)

/-- Whether a C-die runs work of its Loom. -/
def CDie.loomRuns (c : CDie) : Bool := c.powered && !c.held && c.loomEng.goes

/-- A pass bound to a tile; with it, in a block that is not split, every pass of the block (R95). -/
def State.bindPass (s : State) (t : TileIx) (p : PassWork) (split : Bool) : State :=
  { s with
    passes := s.passes.map (fun q =>
      if q == p || (!split && q.job == p.job && q.fid == p.fid && q.block == p.block) then { q with tile := some t.val }
      else q) }

/-- The state of a tile when a pass or a finish on it has ended. -/
def State.settleTile (s : State) (d : CIx) (t : TileIx) (finishing : Bool) : State :=
  let more := s.passes.any (fun q => q.die == d.val && q.tile == some t.val)
  s.modTile d t (fun x => { x with
    state := if finishing then .finishing else if more then .running else .idle
    idleSince := s.tick })

/-- A repeat one level up of a pass that met trouble: at level 2 in as many passes as its range needs (R123, R146,
R147). -/
def PassWork.again (p : PassWork) (t : TileIx) (unit : Nat) (now : Bool) : List PassWork :=
  let cuts := cutPasses p.g0 p.groups unit (p.level + 1)
  ((List.range cuts.length).zip cuts).map (fun c =>
    { p with
      up := p.up && c.1 == 0
      g0 := c.2.1
      groups := c.2.2
      level := p.level + 1
      repeats := p.repeats + 1
      next := now
      tile := some t.val })

/-- The storm window that a tick lies in (R153). -/
def stormWindow (cfg : Word) (tick : Nat) : Nat := tick / 2 ^ cfg.field 20 16

/-- A repeat counted in its window (R153). -/
def CtxOnDie.countRepeat (x : CtxOnDie) (cfg : Word) (now : Nat) (step : Word) : CtxOnDie :=
  if stormWindow cfg x.winStart == stormWindow cfg now then
    { x with winCount := x.winCount + 1, winStart := now, winStep := step }
  else { x with winCount := 1, winStart := now, winStep := step, tripped := false }

/-- What a dropped attempt leaves (R146 to R151, R153). -/
def State.repeatPass (s : State) (d : CIx) (t : TileIx) (m : Mat) (p : PassWork) (now : Bool) : State :=
  let j : JobIx := Fin.ofNat 64 p.job
  let again := p.again t m.unit now
  let s := { s with passes := again ++ s.passes }
  let s := s.modCDie d (fun c => { c with
    ctxs := upd c.ctxs j (fun x => x.countRepeat (s.ctx j).stormCfg s.tick (cmdStep m.b)) })
  let s := if p.repeats == 0 && m.layerEn then s.modCtx j (fun c => c.layerCount m.layerSb 0 1) else s
  { s with
    blocks := s.blocks.map (fun x =>
      if x.job == p.job && x.fid == p.fid && x.idx == p.block then { x with passes := x.passes + again.length - 1 } else x) }

/-- Trouble counted (R161). -/
def CDie.countTrouble (c : CDie) (a : Attempt) : CDie :=
  let b := fun (w : Word) (on : Bool) (hi lo : Nat) => if on then w.bump hi lo 1 else w
  { c with
    troubleCnt := b (b (b (b c.troubleCnt a.nonfinite 31 24) a.trouble.clamp 23 16) a.trouble.amax 15 8)
      a.trouble.outlier 7 0 }

/-- A pass started on a tile: its tally, and what its registers report (R118, R119, R447). -/
def State.onTile (s : State) (d : CIx) (t : TileIx) (j : JobIx) (f : Flight) (p : PassWork) : State :=
  s.modTile d t (fun y => { (y.tallied j.val (cmdId f.bytes) (cmdStep f.bytes) p.level) with
    job := some j.val
    level := p.level
    cmd := cmdId f.bytes
    step := cmdStep f.bytes
    fid := p.fid })

/-- A pass, or a queued repeat, runs on a tile (R85, R146, R147). -/
def State.runPass (s : State) (d : CIx) (t : TileIx) (p : PassWork) : State :=
  let j : JobIx := Fin.ofNat 64 p.job
  match s.flight j 0 p.fid, s.blockOf p with
  | some f, some x =>
    let m := Mat.of f.bytes f.ops
    let unit := unitId 1 d.val 1 t.val
    let v : Env := { envOf s j f.bytes p.fid with
      gen := f.genOf (s.ctx j).seed unit
      die := d.val }
    let (a, v) := (Eng.pass m d t x p (s.cdies[d].loomCtrl.bit 1)).run v
    if v.waits then s
    else
      let s := v.s.onTile d t j f p
      let s := s.modCDie d (fun c => { c with skipCnt := c.skipCnt + BitVec.ofNat 32 a.skips })
      match v.stop with
      | some cause => s.jobFault j (dieFault 0 cause d.val 1 t.val f.bytes)
      | none =>
        let s := s.modFlight j 0 p.fid (fun f => f.putGen unit v.gen)
        let s := s.renew 1 j.val p.fid
        let s := { s with passes := (s.passes.filter (fun q => q != p)).map (fun (q : PassWork) =>
          if q.die == d.val && q.tile == some t.val && q.repeats != 0 then { q with next := true } else q) }
        let s := s.bindPass t p x.split
        let s := s.modBlock x (fun x => x.seen a t)
        let s := s.modCDie d (fun c => { c.countTrouble a with
          passCnt := (c.passCnt + if a.added then 1 else 0) % 2 ^ 64
          stallCnt := (c.stallCnt + a.stall) % 2 ^ 64 })
        let s := if p.repeats == 0 && m.layerEn then s.modCtx j (fun c => c.layerCount m.layerSb 1 0) else s
        let charged := if a.added && p.repeats == 0 then 0 else a.clocks
        let s := s.modQ j 0 (fun q => q.fallback f.list charged (charged + if charged == 0 then a.stretch else 0))
        if a.added then
          let s := if (a.trouble.any || a.nonfinite) && !a.poison then s.setStatus j jsFbTop else s
          s.settleTile d t ((s.blockOf p).any (fun y => y.arrived == y.passes))
        else (s.repeatPass d t m p (!a.nonfinite)).settleTile d t false
  | _, _ => s

/-- Whether a tile can take a pass now (R112, R114). -/
def TileState.takes : TileState → Bool
  | .idle | .running | .finishing => true
  | _ => false

/-- Some service tile of the die that is awake could take a pass (R114). -/
def State.awakeFor (s : State) (d : CIx) (p : PassWork) : Bool :=
  (List.finRange 136).any (fun (u : TileIx) =>
    let x := s.cdies[d].tiles[u]
    x.role == .service && x.state.takes && s.tileFree d u p)

/-- Whether the place of a pass's block in the partial tensor is its own: a block that has come from another C-die waits
for the one that stands there (R285, R496). -/
def State.placeFree (s : State) (p : PassWork) : Bool :=
  match s.blockOf p with
  | none => false
  | some x =>
    (s.blocks.find? (fun y => y.job == x.job && y.fid == x.fid && y.die == x.die && y.pos == x.pos)).any
      (fun y => y.idx == x.idx)

/-- A pass reaches a tile: it runs, or a gated tile wakes for it (R114). -/
def State.issue (s : State) (d : CIx) (t : TileIx) (p : PassWork) : State :=
  let c := s.cdies[d]
  let tile := c.tiles[t]
  let j : JobIx := Fin.ofNat 64 p.job
  let mine := p.tile == some t.val || (p.tile.isNone && (p.repeats != 0 || s.isNext p))
  if !s.runs j || !c.loomRuns || tile.role != .service || !mine || !s.inOrder p || !s.tileFree d t p || s.partialRevoked p ||
      !s.placeFree p then s
  else if tile.state.takes then s.runPass d t p
  else if tile.state == .off && !s.awakeFor d p then
    (s.bindPass t p ((s.blockOf p).any (·.split))).modTile d t (fun x => { x with state := .waking })
  else s

/-- LOOM_PASS (R85): the `k`-th first attempt that waits on a C-die. -/
def execLoomPass (d : CIx) (t : TileIx) (k : Nat) (s : State) : Host.Outcome State Fault Refusal :=
  .next (match nthWhere (fun (p : PassWork) => p.die == d.val && p.repeats == 0) k s.passes with
    | some p => s.issue d t p
    | none => s)

/-- PASS_REPEAT (R147): the `k`-th repeat that waits on a C-die. -/
def execPassRepeat (d : CIx) (t : TileIx) (k : Nat) (s : State) : Host.Outcome State Fault Refusal :=
  .next (match nthWhere (fun (p : PassWork) => p.die == d.val && p.repeats != 0) k s.passes with
    | some p => s.issue d t p
    | none => s)

/-! ### Finishing a block (R96, R172) -/

/-- The blocks of a block's band (log 47). -/
def State.bandOf (s : State) (x : BlockWork) : List BlockWork :=
  s.blocks.filter (fun y => y.job == x.job && y.fid == x.fid && y.seg == x.seg && y.band == x.band)

/-- The block that a tile has completed is finished; a band's blocks are written when its last one is (log 47). -/
def State.finishBlock (s : State) (d : CIx) (t : TileIx) (x : BlockWork) : State :=
  let j : JobIx := Fin.ofNat 64 x.job
  match s.flight j 0 x.fid with
  | none => s
  | some f =>
    let m := Mat.of f.bytes f.ops
    let band := s.bandOf x
    let unit := unitId 1 d.val 1 t.val
    if m.banded && band.any (fun y => y.idx != x.idx && !y.finished) then
      (s.modBlock x (fun y => { y with finished := true })).settleTile d t false
    else
      let bs := if m.banded then band else [x]
      let v : Env := { envOf s j f.bytes x.fid with
        gen := f.genOf (s.ctx j).seed unit
        die := d.val
        amax := f.amax }
      let ((fs, extra), v) := (Eng.finish m d.val bs).run v
      if v.waits then s
      else
        let s := v.s.modFlight j 0 x.fid (fun f => { f.putGen unit v.gen with
          shares := f.shares - bs.length
          amax := v.amax })
        let s := { s with blocks := s.blocks.filter (fun y => !bs.any (fun z => z.job == y.job && z.fid == y.fid && z.idx == y.idx)) }
        let s := s.modQ j 0 (fun q => q.fallback f.list extra extra)
        let s := s.modCDie d (fun c => { c with
          flagCnt := (c.flagCnt.bump 31 16 (fs.filter (·.nan)).length).bump 15 0 (fs.filter (·.ovf)).length })
        let s := s.renew 1 j.val x.fid
        let s := s.settleTile d t false
        match v.stop with
        | some cause => s.jobFault j (dieFault 0 cause d.val 1 t.val f.bytes)
        | none => s

/-- BLOCK_FINISH (R96): the `k`-th block of a C-die whose every pass has reached P. -/
def execBlockFinish (d : CIx) (t : TileIx) (k : Nat) (s : State) : Host.Outcome State Fault Refusal :=
  .next (match nthWhere (fun (x : BlockWork) => x.die == d.val && x.arrived == x.passes && !x.finished) k s.blocks with
    | some x =>
      let tile := s.cdies[d].tiles[t]
      if s.runs (Fin.ofNat 64 x.job) && s.cdies[d].loomRuns && tile.state.takes && tile.role == .service &&
          (x.tile == some t.val || x.tile.isNone) then s.finishBlock d t x
      else s
    | none => s)

/-! ### A C-die lost (R285, R496) -/

/-- A block of a lost C-die begun anew on another one, at its place there. -/
def BlockWork.moved (x : BlockWork) (die : Nat) : BlockWork :=
  { x with
    die := die
    arrived := 0
    flags := LoomFlags.none
    poisoned := false
    started := false
    tile := none
    finished := false }

/-- The blocks that a C-die has not written go to the other C-dies of their commands' masks; those of a command with none
left wait. The extra time goes to FENCE (Table 9-3). -/
def State.recutLoom (s : State) (n : CIx) : State :=
  let mine := s.blocks.filter (fun x => x.die == n.val)
  let s := ((mine.map (fun x => (x.job, x.fid))).eraseDups).foldl (fun s p => s.accrueFree (Fin.ofNat 64 p.1) p.2 3) s
  mine.foldl (fun s x =>
    let j : JobIx := Fin.ofNat 64 x.job
    match s.flight j 0 x.fid with
    | none => s
    | some f =>
      let dies := (s.diesOf j 0 f.bytes).filter (fun d => d != n)
      match dies[x.idx % max 1 dies.length]? with
      | none => s
      | some d =>
        let m := Mat.of f.bytes f.ops
        let y := x.moved d.val
        let mine := fun (p : PassWork) => p.job == x.job && p.fid == x.fid && p.block == x.idx
        { s with
          blocks := s.blocks.filter (fun b => b != x) ++ [y]
          passes := s.passes.filter (fun p => !mine p) ++ m.passList y }) s

/-! ### Tiles awake and gated (R112, R115) -/

/-- TILE_WAKE_DONE (Table 3-7). -/
def execTileWakeDone (d : CIx) (t : TileIx) (s : State) : Host.Outcome State Fault Refusal :=
  .next (if s.cdies[d].tiles[t].state == .waking then
      s.modTile d t (fun x => { x with state := .idle, idleSince := s.tick })
    else s)

/-- TILE_GATE (R115). -/
def execTileGate (d : CIx) (t : TileIx) (s : State) : Host.Outcome State Fault Refusal :=
  .next (
    let c := s.cdies[d]
    let x := c.tiles[t]
    if x.state == .idle && c.loomCtrl.bit 0 && decide (x.idleSince + c.loomCtrl.field 23 8 ≤ s.tick) then
      s.modTile d t (fun x => { x with state := .off })
    else s)

/-! ### The storm rule (R153, R154) -/

/-- The storm rule trips for a context during a command of a step (R154). -/
def Ctx.storm (c : Ctx) (step : Word) : Ctx :=
  { c with
    stormStat := (c.stormStat.setField 31 31 1).bump 30 16 1
    stormEnd := BitVec.ofNat 32 (max c.stormEnd.toNat (min (step.toNat + c.stormCfg.field 31 24) 0xFFFFFFFF)) }

/-- STORM_TRIP (R154): the count of a C-die's window exceeds LIMIT. -/
def execStormTrip (d : CIx) (j : JobIx) (s : State) : Host.Outcome State Fault Refusal :=
  .next (
    let x := s.cdies[d].ctxs[j]
    let cfg := (s.ctx j).stormCfg
    if cfg.field 31 24 != 0 && !x.tripped && decide (cfg.field 15 0 < x.winCount) then
      let s := s.modCDie d (fun c => { c with ctxs := upd c.ctxs j (fun x => { x with tripped := true }) })
      ((s.modCtx j (fun c => c.storm x.winStep)).setStatus j jsStorm).raise (192 + j.val)
    else s)

/-- STORM_WINDOW_END (R153): the window of the count has passed. -/
def execStormWindowEnd (d : CIx) (j : JobIx) (s : State) : Host.Outcome State Fault Refusal :=
  .next (
    let x := s.cdies[d].ctxs[j]
    let cfg := (s.ctx j).stormCfg
    if stormWindow cfg x.winStart < stormWindow cfg s.tick then
      s.modCDie d (fun c => { c with
        ctxs := upd c.ctxs j (fun x => { x with winCount := 0, winStart := s.tick, tripped := false }) })
    else s)

/-! ### The side-only commands (R137, R240) -/

/-- The operands of a side-only command: A, output, factors. -/
def sideUses (b : List Byte) : List (Nat × Use) :=
  let nb := if opcodeOf b == 0x13 then Slot.extField b 46 2 else 1
  [(Slot.d b 0, Use.input loomType), (Slot.d b 2, Use.output (· == dtBf16))] ++
  (List.range (min nb 1024)).map (fun i => (Slot.d b 1 + 64 * i, Use.input (· == dtBf16)))

/-- A side-only command's own checks. -/
def sideChecks (b : List Byte) (a o : Desc) (ls : List Desc) : List (Nat × Nat) :=
  let grouped := opcodeOf b == 0x13
  let nb := Slot.extField b 46 2
  rank10 (ls.any (fun l => l.smode != 0 && l.rot != 2)) 9 ++
  rank10 (ls.any (fun l => l.rows != a.ext 0) || o.rows != a.rows ||
    (if grouped then nb == 0 || 1024 < nb || Slot.extField b 36 6 % 4 != 0
      else ls.any (fun l => l.ext 0 != o.ext 0))) 3 ++
  rank10 (ls.any (fun l => 64 < l.ext 0)) 0x0F

/-- One row of a down product: the sum over K of A's decoded values times L, then T_A, in BF16 (log 48). -/
def downRowOf (a : List Word) (t : Word) (l : List (List Word)) (rank : Nat) : List Word :=
  (List.range rank).map (fun c => mul32 (dot32 0 a (columnOf l c)) t)

/-- A block of up to 256 rows of a side-only command. -/
def Eng.sideBlock (b : List Byte) (a o : Scaled) (ls : List Scaled) (die : CIx) (x : LoomSeg) : Eng Unit := do
  let l := ls.getD x.b default
  let rank := if x.b == 0xFFFF then 0 else l.d.ext 0
  let lr : List (List Word × Bool) ← if rank == 0 then pure [] else (List.range (a.d.ext 0)).mapM (fun k => Eng.rowValues l (l.d.coords k))
  let ps ← (rangeFrom x.row0 x.rows).mapM (fun (r : Nat) => do
    let idx := a.d.coords r
    let plain : Scaled := { a with
      row := false
      t := one32 }
    let r0 : List Word × Bool ← if rank == 0 then pure ([], false) else Eng.rowValues plain idx
    let (av, p) := r0
    let (t, tp) ← if rank == 0 then pure (one32, false) else Eng.rowT a idx
    let v := (downRowOf av t (lr.map (fun (x : List Word × Bool) => x.1)) rank ++ List.replicate (o.d.ext 0) 0).take (o.d.ext 0)
    return ({ idx := o.d.coords r, i0 := 0, xs := v, amax := amaxOf v, poison := p || tp || lr.any (fun (x : List Word × Bool) => x.2) } : RowPart))
  let _ ← Eng.writeParts (Writer.of o .rne b die.val) ps
  Eng.consume (ps.any (fun p => p.poison))

/-- Tiles that a side-only command runs on. -/
def tileUnits (d : CDie) : List Nat := d.serviceTiles

/-- What a side-only command reads before its blocks: its operands in their step, its segments. -/
def Eng.sidePrep (b : List Byte) (a d : Desc) (ls : List Desc) (row : Bool) : Eng (List Scaled × List LoomSeg) := do
  let xs ← (a :: d :: ls).mapM (fun d => Eng.scaledBy d row (cmdStep b))
  let segs ← if opcodeOf b == 0x13 then Eng.grouped b a.rows true else pure [⟨0, a.rows, 0, [0, 0, 0, 0]⟩]
  return (xs, segs)

/-- The work items of a side-only command: bands of 256 rows, segment by segment. -/
def sideItems (segs : List LoomSeg) : List LoomSeg :=
  segs.flatMap (fun x => (List.range (ceilDiv x.rows 256)).map (fun i =>
    ({ x with row0 := x.row0 + 256 * i, rows := min 256 (x.rows - 256 * i) } : LoomSeg)))

/-- A side-only command decoded and run (R137, R240). -/
def State.sideDown (j : JobIx) (s : State) (b : List Byte) (fid : Nat) : Begin :=
  let c := s.ctx j
  let dies := s.diesOf j 0 b
  if dies == [] || s.overtaken j 0 dies then .stays
  else
    let low := (dies.head?.map (·.val)).getD 0
    let ((ds, fs), v) := (Eng.operands c (sideUses b)).run (envOf s j b fid)
    let g := fun k => (ds.getD k none).getD default
    let ls := (ds.drop 2).map (fun d => d.getD default)
    settleDecode 0 b low v (fs ++ sideChecks b (g 0) (g 1) ls ++ stepFault c b) (fun s =>
      let (row, s) := s.fixRow j (cmdStep b)
      if (g 1).empty then .done s
      else
        let ((xs, segs), v) := (Eng.sidePrep b (g 0) (g 1) ls row).run (envOf s j b fid)
        settleDecode 0 b low v [] (fun s =>
          runShares 0 1 b fid tileUnits (sideItems segs) (Eng.sideBlock b (xs.getD 0 default) (xs.getD 1 default) (xs.drop 2))
            (fun _ d => d) dies s j))

/-- SIDE_DOWN (R137). -/
def execSideDown (j : JobIx) (s : State) : Host.Outcome State Fault Refusal := .next (s.runSlot j 0 0x12 (State.sideDown j))
/-- SIDE_DOWN_GROUPED (R240). -/
def execSideDownGrouped (j : JobIx) (s : State) : Host.Outcome State Fault Refusal :=
  .next (s.runSlot j 0 0x13 (State.sideDown j))

end Sys2Proof.Machine
end

