-- ==== Sys2Proof/Machine/Collective.lean ====
section
/-! DEFINITION. The collective engine (chapter 13): groups and rings (R413, R414), wire formats (R418), reduction and
remainders at each hop (R419 to R421), results (R422 to R424), and how COLL packets move a collective on (R426 to
R428). -/

namespace Sys2Proof.Machine

/-! ### Groups (R413, R414, R416) -/

/-- A group: its first rank, its three extents, and this module's position. -/
structure Group where
  base : Nat
  exts : List Nat
  me : Nat
deriving Repr

namespace Group

def ext (g : Group) (d : Nat) : Nat := max 1 (g.exts.getD d 1)
def size (g : Group) : Nat := g.ext 0 * g.ext 1 * g.ext 2
def weight (g : Group) (d : Nat) : Nat := if d = 0 then 1 else if d = 1 then g.ext 0 else g.ext 0 * g.ext 1
def coordOf (g : Group) (p d : Nat) : Nat := p / g.weight d % g.ext d
/-- Position `p` with coordinate `k` along dimension `d`. -/
def put (g : Group) (p d k : Nat) : Nat := p - g.coordOf p d * g.weight d + k * g.weight d
/-- The ring successor in a direction: 0 is +, 1 is −. -/
def next (g : Group) (p d dir : Nat) : Nat :=
  g.put p d ((g.coordOf p d + (if dir = 0 then 1 else g.ext d - 1)) % g.ext d)
/-- The dimensions that form rings. -/
def dims (g : Group) : List Nat := [0, 1, 2].filter (fun d => 1 < g.ext d)
/-- The shares that position `p` holds before the phase along `d`: the first and how many. -/
def range (g : Group) (p d : Nat) : Nat × Nat :=
  (g.dims.filter (fun x => x < d)).foldl (fun r x => (r.1 + g.coordOf p x * (r.2 / g.ext x), r.2 / g.ext x)) (0, g.size)
/-- Chunk `k` of the phase along `d` of position `p`'s ring, in shares. -/
def chunk (g : Group) (p d k : Nat) : Nat × Nat :=
  let r := g.range p d
  (r.1 + k * (r.2 / g.ext d), r.2 / g.ext d)
/-- The share that a position owns (R416). -/
def share (g : Group) (p : Nat) : Nat := (g.coordOf p 0 * g.ext 1 + g.coordOf p 1) * g.ext 2 + g.coordOf p 2

end Group

/-- The chunk that ring place `k` of `n` sends at hop `h` (R419, R423). -/
def sentChunk (gather : Bool) (k h dir n : Nat) : Nat :=
  let back := if gather then h else h + 1
  if dir = 0 then (k + 2 * n - back) % n else (k + back) % n

/-! ### What a collective command says (Table 13-2) -/

namespace Slot

def colChannel (b : List Byte) : Nat := imm b % 16
def colWire (b : List Byte) : Nat := bitsOf (imm b) 11 4
def colAccum (b : List Byte) : Bool := (imm b).testBit 12
def colTag (b : List Byte) : Word := BitVec.ofNat 32 (extField b 0 4)
def colTimeout (b : List Byte) : Nat := extField b 4 4
def colRoot (b : List Byte) : Nat := extField b 13 2 % 4096

end Slot

def groupOf (c : Ctx) (b : List Byte) : Group :=
  let base := Slot.extField b 8 2 % 4096
  ⟨base, [Slot.extField b 10 1, Slot.extField b 11 1, Slot.extField b 12 1], c.selfRank - base⟩

/-- A wire format: the bytes of 32 elements, and how many such units a packet carries (Table 13-3). -/
def wireUnit (c : Nat) : Nat × Nat :=
  if c = dtMx4 then (17, 15) else if c = 8 ∨ c = 9 then (33, 7) else if c = dtBf16 then (64, 4) else (128, 2)

def wireKnown (c : Nat) : Bool := [1, 2, 8, 9, 0xC].contains c

/-- A collective as its run needs it: the command, its group and its operands. `n` is the elements of a reducing
collective, the bytes of the result of another. -/
structure ColPlan where
  b : List Byte
  g : Group
  src : Scaled
  dst : Scaled
  third : Scaled
  fourth : Option Scaled
  n : Nat

/-- The bytes of a tensor's elements as a non-reducing packet carries them: block after block with its scale. -/
def Desc.rawRow (d : Desc) : Nat :=
  if isBlock d.dtype then d.blocks (d.ext 0) * (Desc.blockBytes d.dtype + 1) else Desc.elemBytes d.dtype (d.ext 0)

namespace ColPlan

def op (x : ColPlan) : Nat := opcodeOf x.b
def reduces (x : ColPlan) : Bool := x.op == 0x40 || x.op == 0x41
def wire (x : ColPlan) : Nat := Slot.colWire x.b
def fb (x : ColPlan) : Option Desc := if x.reduces then x.fourth.map (·.d) else none

def make (c : Ctx) (b : List Byte) (ops : List (Option Scaled)) : ColPlan :=
  let o := fun k => (ops.getD k none).getD default
  let g := groupOf c b
  let n := match opcodeOf b with
    | 0x40 | 0x41 => (o 0).d.rows * (o 0).d.ext 0
    | 0x42 => g.size * (o 0).d.rows * (o 0).d.rawRow
    | _ => (o 1).d.rows * (o 1).d.rawRow
  ⟨b, g, o 0, o 1, o 2, ops.getD 3 none, n⟩

/-- The phases in order: whether one gathers, and its dimension (R419, R423, R424). -/
def phases (x : ColPlan) : List (Bool × Nat) :=
  match x.op with
  | 0x40 => x.g.dims.map (fun d => (false, d))
  | 0x41 => x.g.dims.map (fun d => (false, d)) ++ x.g.dims.reverse.map (fun d => (true, d))
  | 0x42 => x.g.dims.reverse.map (fun d => (true, d))
  | _ => []

/-- Elements, or bytes, of a share. -/
def per (x : ColPlan) : Nat := x.n / x.g.size
/-- Bytes on the wire of a run of elements. -/
def wireBytes (x : ColPlan) (k : Nat) : Nat := if x.reduces then k / 32 * (wireUnit x.wire).1 else k
def packetBytes (x : ColPlan) : Nat :=
  if x.reduces then (wireUnit x.wire).1 * (wireUnit x.wire).2 else 256

/-- The half of chunk `k` that travels in a direction: its first element and its length (R419). -/
def half (x : ColPlan) (d k dir : Nat) : Nat × Nat :=
  let c := x.g.chunk x.g.me d k
  let len := c.2 * x.per
  if dir = 0 then (c.1 * x.per, len / 2) else (c.1 * x.per + len / 2, len - len / 2)

/-- The half chunk that arrives at a hop. -/
def arriving (x : ColPlan) (gather : Bool) (d dir h : Nat) : Nat × Nat :=
  let q := x.g.next x.g.me d (1 - dir)
  x.half d (sentChunk gather (x.g.coordOf q d) h dir (x.g.ext d)) dir

/-- The half chunk that this position sends at a hop. -/
def leaving (x : ColPlan) (gather : Bool) (d dir h : Nat) : Nat × Nat :=
  x.half d (sentChunk gather (x.g.coordOf x.g.me d) h dir (x.g.ext d)) dir

/-- The first element of what the stage holds, and where the stage is (R416). -/
def stageElem (x : ColPlan) : Nat :=
  let d := x.g.dims.headD 0
  (x.g.chunk x.g.me d (x.g.coordOf x.g.me d)).1 * x.per
def stageAt (x : ColPlan) (e : Nat) : Nat := x.third.d.base + 4 * (e - x.stageElem)

/-- Bytes of half a remainder buffer (R421). -/
def halfBytes (x : ColPlan) : Nat := 64 + 64 * ceilDiv (33 * ceilDiv x.n 32) 64
/-- Remainder slots before those of a send; phase = the number of phases gives the owner's (R421). -/
def slotOf (x : ColPlan) (phase h dir : Nat) : Nat :=
  let len := fun d => (x.g.chunk x.g.me d 0).2 * x.per
  let before := ((x.phases.take phase).filter (fun p => !p.1)).map (fun p => (x.g.ext p.2 - 1) * len p.2)
  before.foldl (· + ·) 0 +
    (match x.phases[phase]? with
     | some (false, d) => h * len d + (if dir = 0 then 0 else len d / 2)
     | _ => 0)

/-- BROADCAST's tree (R424): along x from the root, then y, then z, each in the + direction. -/
def parent (x : ColPlan) : Option Nat :=
  let r := Slot.colRoot x.b
  match [2, 1, 0].find? (fun d => x.g.coordOf x.g.me d != x.g.coordOf r d) with
  | some d => some (x.g.next x.g.me d 1)
  | none => none
def children (x : ColPlan) : List Nat :=
  let r := Slot.colRoot x.b
  ([0, 1, 2].filter (fun d =>
    let q := x.g.next x.g.me d 0
    1 < x.g.ext d && x.g.coordOf q d != x.g.coordOf r d &&
    ([0, 1, 2].filter (fun e => d < e)).all (fun e => x.g.coordOf x.g.me e == x.g.coordOf r e))).map
    (fun d => x.g.next x.g.me d 0)

/-- The parts that a position sends here, in the order it sends them: phase, direction, hop. -/
def expected (x : ColPlan) (src : Nat) : List (Nat × Nat × Nat) :=
  match x.op with
  | 0x43 => if src == x.g.me then [] else [(0, 0, 0)]
  | 0x44 => if x.parent == some src then [(0, 0, 0)] else []
  | _ => ((List.range x.phases.length).zip x.phases).flatMap (fun p =>
      (List.range (x.g.ext p.2.2 - 1)).flatMap (fun h =>
        ([0, 1].filter (fun dir => x.g.next x.g.me p.2.2 (1 - dir) == src)).map (fun dir => (p.1, dir, h))))

/-- The bytes received of a part. -/
def gotOf (r : ColRun) (src : Nat) (k : Nat × Nat × Nat) : List Byte :=
  ((r.recv.find? (fun q => q.src == src && q.phase == k.1 && q.dir == k.2.1 && q.hop == k.2.2)).map (·.got)).getD []

/-- Whether a part is whole. An ALL_TO_ALL part begins with its count of rows. -/
def whole (x : ColPlan) (r : ColRun) (src : Nat) (k : Nat × Nat × Nat) : Bool :=
  let got := gotOf r src k
  match x.op with
  | 0x43 => 4 ≤ got.length && got.length == 4 + leNat (got.take 4) * x.dst.d.rawRow
  | 0x44 => got.length == x.n
  | _ => match x.phases[k.1]? with
    | some (g, d) => got.length == x.wireBytes (x.arriving g d k.2.1 k.2.2).2
    | none => true

/-- Whether the half chunk of a hop of the run's phase has come. -/
def come (x : ColPlan) (r : ColRun) (d dir h : Nat) : Bool :=
  x.whole r (x.g.next x.g.me d (1 - dir)) (r.phase, dir, h)

/-- The bytes of a gathered result that stand here: the own share and every part received by a gathering phase. -/
def placed (x : ColPlan) (r : ColRun) : List (Nat × List Byte) :=
  r.data ++ r.recv.filterMap (fun q => match x.phases[q.phase]? with
    | some (true, d) => some (x.wireBytes (x.arriving true d q.dir q.hop).1, q.got)
    | _ => none)

end ColPlan

/-- Bytes `[o, o+n)` of what parts hold. -/
def bytesAt (ps : List (Nat × List Byte)) (o n : Nat) : List Byte :=
  (List.range n).map (fun i => match ps.find? (fun p => decide (p.1 ≤ o + i) && decide (o + i < p.1 + p.2.length)) with
    | some p => p.2.getD (o + i - p.1) 0
    | none => 0)

/-! ### Decode checks -/

def colUses (c : Ctx) (b : List Byte) : List (Nat × Use) :=
  let d := Slot.d b
  let i32 := fun w : Bool => (⟨(· == dtInt32), w, false, false, false⟩ : Use)
  let out : Use := ⟨floatType, true, Slot.colAccum b, false, false⟩
  match opcodeOf b with
  | 0x40 | 0x41 => [(d 0, Use.input floatType), (d 1, out), (d 2, ⟨(· == dtFp32), true, false, false, false⟩),
      (d 3, ⟨(· == dtU8), true, false, false, false⟩)]
  | 0x42 => [(d 0, Use.input dtypeKnown), (d 1, Use.output dtypeKnown)]
  | 0x43 => [(d 0, Use.input dtypeKnown), (d 1, Use.output dtypeKnown), (d 2, i32 false), (d 3, i32 true)]
  | _ => [(if (groupOf c b).me == Slot.colRoot b then d 0 else 0, Use.input dtypeKnown), (d 1, Use.output dtypeKnown)]

/-- The checks of a collective command itself (R413, R416, R418, R421 to R424). -/
def colChecks (c : Ctx) (x : ColPlan) (present : List Bool) : List (Nat × Nat) :=
  let has := fun k => present.getD k false
  let dn := x.dst.d.rows * x.dst.d.ext 0
  let sn := x.src.d.rows * x.src.d.ext 0
  let dt := x.dst.d.dtype
  let same := has 0 && dt != x.src.d.dtype
  rank10 (c.rankCfg.field 12 0 < x.g.base + x.g.size || c.selfRank < x.g.base ||
    x.g.base + x.g.size ≤ c.selfRank) 3 ++
  match x.op with
  | 0x40 | 0x41 =>
    let all := x.op == 0x41
    rank10 (!wireKnown x.wire) 4 ++
    rank10 (x.n % (64 * x.g.size) != 0 || dn != (if all then x.n else x.n / x.g.size)) 3 ++
    rank10 (x.third.d.span < 4 * (x.n / x.g.ext (x.g.dims.headD 0))) 3 ++
    rank10 (!(c.regionOf x.third.d.base x.third.d.span).any (fun q => q.kind < 3)) 0x0A ++
    rank10 (Slot.colAccum x.b && dt != dtFp32 && dt != dtBf16) 4 ++
    rank10 (all && dt != dtFp32 && dt != x.wire && !(dt == dtBf16 && x.wire != 1)) 4 ++
    (match x.fourth with
     | none => []
     | some r =>
       rank10 (x.wire == 1 || r.d.ndim != 1 || r.d.ext 0 < 2 * x.halfBytes) 3 ++
       rank10 (!(c.regionOf r.d.base (r.d.ext 0)).any (fun q => q.kind < 2)) 0x0A)
  | 0x42 => rank10 same 4 ++ rank10 (dn != sn * x.g.size) 3
  | 0x43 =>
    rank10 same 4 ++ rank10 (x.src.d.ext 0 != x.dst.d.ext 0 || x.third.d.ndim != 1 || x.third.d.ext 0 < x.g.size) 3 ++
    (match x.fourth with
     | none => []
     | some r => rank10 (r.d.ndim != 1 || r.d.ext 0 < x.g.size) 3)
  | _ => rank10 same 4 ++ rank10 (x.g.size ≤ Slot.colRoot x.b || (has 0 && sn != dn)) 3

/-! ### Wire values (R419, R420) -/

/-- The values that a unit of wire bytes holds, exactly. -/
def fromWire (c : Nat) (b : List Byte) : List FV :=
  (List.range 32).map (fun i =>
    if isBlock c then elemValue c (elemAt c b i) (b.getLastD 0).toNat else (elemFp c).decode (elemAt c b i))

/-- The bytes of a packet: whole blocks, their elements first and then their scales. -/
def toPayload (c : Nat) (b : List Byte) : List Byte :=
  if isBlock c then
    let us := chunks (wireUnit c).1 (b.length + 1) b
    us.flatMap (fun u => u.dropLast) ++ us.map (fun u => u.getLastD 0)
  else b

def fromPayload (c : Nat) (b : List Byte) : List Byte :=
  if isBlock c then
    let w := (wireUnit c).1
    let k := b.length / w
    (List.range k).flatMap (fun i => (b.drop (i * (w - 1))).take (w - 1) ++ [b.getD (k * (w - 1) + i) 0])
  else b

def reductionUnit (die : Nat) : Word := unitId 3 die 0x23 0

/-- 32 sums narrowed to the wire with SR, flushed by R62; what a block reports (R420). -/
def Eng.toWire (c die : Nat) (xs : List Word) : Eng (List Byte × List FV) := do
  let ctx ← Eng.context
  let subn := ctx.cfg.bit 2
  if isBlock c then
    let q ← Eng.withGen (fun g => let q := quantY c .sr subn g xs []; (q, q.gen))
    Eng.status (q.clampTop || q.clampLow) jsScaleClamp
    Eng.status q.qnan jsQnan
    Eng.status q.flushed jsSubnFlush
    if q.clampTop || q.clampLow then
      Eng.onState (fun s => s.modLDie (Fin.ofNat 3 die) (fun d => { d with colCnt := d.colCnt.bump 31 24 1 }))
    return (packElems c q.codes ++ [BitVec.ofNat 8 q.scale], q.codes.map (fun k => elemValue c k q.scale))
  else
    let f := elemFp c
    let ks ← xs.mapM (fun x => do
      let k ← Eng.withGen (fun g => f.encode .sr g (dec32 x))
      let (k, fl) := f.flush subn k
      Eng.status fl jsSubnFlush
      return k)
    return (packElems c ks, ks.map f.decode)

/-! ### Contributions and remainders (R416, R419, R421) -/

/-- Elements `e` to `e + m − 1` of a tensor in row-major logical order, decoded (R45). -/
def Eng.span (x : Scaled) (e m : Nat) : Eng (List Word × Bool) := do
  let n := max 1 (x.d.ext 0)
  let vs ← (List.range m).mapM (fun i => do
    let idx := x.d.coords ((e + i) / n)
    let i0 := (e + i) % n
    let (k, s, p) ← Eng.oneCode x.d idx i0
    let (g, gp) ← Eng.factorOf x.d idx i0
    let (t, tp) ← Eng.rowT x idx
    return (decodeElem x.d.dtype k s t g, p || gp || tp))
  return (vs.map (·.1), vs.any (·.2))

/-- What the stage holds of elements `e` to `e + m − 1`. -/
def Eng.staged (x : ColPlan) (e m : Nat) : Eng (List Word × Bool) := do
  let (b, p) ← Eng.rd (x.stageAt e) (4 * m) x.third.d.hint
  return ((List.range m).map (fun i => BitVec.ofNat 32 (slotField b (4 * i) 4)), p)

/-- The position's contribution of 32 elements in a phase. -/
def Eng.contribution (x : ColPlan) (first : Bool) (e : Nat) : Eng (List Word × Bool) :=
  if first then Eng.span x.src e 32 else Eng.staged x e 32

def remAt (x : ColPlan) (d : Desc) (k : Nat) : Nat := d.base + k % 2 * x.halfBytes

/-- 32 remainders of the step before, zero where its half is not used. -/
def Eng.remOld (x : ColPlan) (r : ColRun) (d : Desc) (slot : Nat) : Eng (List FV × Bool) := do
  if !r.useOld then return (List.replicate 32 (.fin false 0 0), false)
  let a := remAt x d ((cmdStep x.b).toNat + 1) + 64
  let (b, p) ← Eng.rd (a + slot) 32 d.hint
  let (s, q) ← Eng.rd (a + x.n + slot / 32) 1 d.hint
  return ((List.range 32).map (fun i => elemValue 9 (elemAt 9 b i) (s.headD 0).toNat), p || q)

/-- 32 new remainders written through the quantiser; those of a non-finite unit are zero (R54, R420). -/
def Eng.putRem (x : ColPlan) (d : Desc) (slot : Nat) (xs : List Word) (ys : List FV) : Eng Unit := do
  let ctx ← Eng.context
  let a := remAt x d (cmdStep x.b).toNat + 64
  let (codes, scale) ← if xs.any (fun v => !isFin32 v) then pure (xs.map (fun _ => 0), 0)
    else do
      let q := quantY 9 .rne (ctx.cfg.bit 2) noGen
        (List.zipWith (fun v y => rne32 ((dec32 v).add (FV.neg y))) xs ys) []
      Eng.status (q.clampTop || q.clampLow) jsScaleClamp
      Eng.status q.flushed jsSubnFlush
      pure (q.codes, q.scale)
  Eng.wr (a + slot) (packElems 9 codes) d.hint false
  Eng.wr (a + x.n + slot / 32) [BitVec.ofNat 8 scale] d.hint false

/-- 32 elements narrowed for the wire, with the remainders of slot `slot` (R419). -/
def Eng.narrow (x : ColPlan) (r : ColRun) (slot : Nat) (xs : List Word) : Eng (List Byte × Bool) := do
  match x.fb with
  | none =>
    let (b, _) ← Eng.toWire x.wire r.die xs
    return (b, false)
  | some d =>
    let (old, p) ← Eng.remOld x r d slot
    let xs := List.zipWith (fun v o => rne32 ((dec32 v).add o)) xs old
    let (b, ys) ← Eng.toWire x.wire r.die xs
    Eng.putRem x d slot xs ys
    return (b, p)

/-- What came plus what is here, rounded once. -/
def joinSums (ins : List FV) (loc : List Word) : List Word := List.zipWith (fun a b => rne32 (a.add (dec32 b))) ins loc

/-! ### Sending -/

/-- Packets of a stream that its window lets go leave ahead of a job fault that drops the stream (R428). -/
def State.letGo (s : State) (j : JobIx) (rank ch : Nat) : State :=
  s.modLDie (streamHome rank ch) (fun d =>
    match d.streams.find? (fun x => x.is j.val rank ch) with
    | none => d
    | some x => { d with acksOut := d.acksOut ++ x.waiting.takeWhile (fun p => decide ((p.seq + 65536 - x.acked) % 65536 < 64)) })

/-- One COLL packet to a position; a rank that the job may not address fails the collective (R396). -/
def Eng.colPacket (x : ColPlan) (r : ColRun) (pos : Nat) (b : List Byte) (p : Bool) : Eng Unit := do
  if ← Eng.stopped then return
  let e ← get
  let rank := x.g.base + pos
  if ((e.s.ctx e.job).rankAt rank).isNone then Eng.fail 0x2D
  else
    let b := if x.reduces then toPayload x.wire b else b
    let k := dataPacket .coll (if x.reduces then x.wire else 0) 0 p false (Slot.colTag x.b) (cmdStep x.b) b
    Eng.onState (fun s =>
      let s := s.modLDie (Fin.ofNat 3 r.die) (fun d => { d with wireBytes := (d.wireBytes + 300) % 2 ^ 64 })
      let s := s.renew 3 e.job.val r.fid
      s.sendTo e.job rank r.ch (3, r.fid) k)
    if p then
      Eng.onState (fun s => s.letGo e.job rank r.ch)
      Eng.consume true

/-- Bytes sent in packets; `bad` marks runs of them that come from poisoned units. -/
def Eng.colBytes (x : ColPlan) (r : ColRun) (pos o : Nat) (b : List Byte) (bad : List (Nat × Nat)) : Eng Unit :=
  let ps := chunks x.packetBytes (b.length + 1) b
  ((List.range ps.length).zip ps).forM (fun p =>
    let lo := o + p.1 * x.packetBytes
    Eng.colPacket x r pos p.2 (bad.any (fun q => decide (q.1 < lo + p.2.length) && decide (lo < q.2))))

/-- A hop of a reduce-scatter phase sent: the half chunk unit by unit, a packet of units at a time. -/
def Eng.reduceHop (x : ColPlan) (r : ColRun) (d dir h : Nat) : Eng Unit := do
  let (e0, len) := x.leaving false d dir h
  let src := x.g.next x.g.me d (1 - dir)
  let ub := (wireUnit x.wire).1
  let got := ColPlan.gotOf r src (r.phase, dir, h - 1)
  let slot := x.slotOf r.phase h dir
  (chunks (wireUnit x.wire).2 (len + 1) (List.range (len / 32))).forM (fun us => do
    if !(← Eng.stopped) then
      let qs ← us.mapM (fun u => do
        let (loc, p) ← Eng.contribution x (r.phase == 0) (e0 + 32 * u)
        let ins := if h == 0 then List.replicate 32 (.fin false 0 0) else fromWire x.wire ((got.drop (u * ub)).take ub)
        let (b, q) ← Eng.narrow x r (slot + 32 * u) (joinSums ins loc)
        return (b, p || q))
      Eng.colPacket x r (x.g.next x.g.me d dir) (qs.flatMap (·.1)) (qs.any (·.2)))

/-- The last hop of a phase: the owner adds its own contribution and writes the sums to the stage (R419). -/
def Eng.ownSums (x : ColPlan) (r : ColRun) (d : Nat) : Eng Unit := do
  let ctx ← Eng.context
  let ub := (wireUnit x.wire).1
  let h := x.g.ext d - 2
  [0, 1].forM (fun dir => do
    let (e0, len) := x.arriving false d dir h
    let got := ColPlan.gotOf r (x.g.next x.g.me d (1 - dir)) (r.phase, dir, h)
    (List.range (len / 32)).forM (fun u => do
      if !(← Eng.stopped) then
        let (loc, p) ← Eng.contribution x (r.phase == 0) (e0 + 32 * u)
        Eng.consume p
        let sums := (joinSums (fromWire x.wire ((got.drop (u * ub)).take ub)) loc).map (flush32 (ctx.cfg.bit 2))
        Eng.status (sums.any (·.2)) jsSubnFlush
        Eng.wr (x.stageAt (e0 + 32 * u)) (wordBytes (sums.map (·.1))) x.third.d.hint false))
  Eng.settle

/-- A tensor's rows as a non-reducing packet carries them, with the byte runs that poison touches. -/
def Eng.rawRows (x : Scaled) (lo n : Nat) : Eng (List Byte × List (Nat × Nat)) := do
  let d := x.d
  let rs ← (List.range n).mapM (fun i => do
    let r ← Eng.readRow d (d.coords (lo + i))
    let b := if isBlock d.dtype then
        let cs := chunks (blockSize d.dtype) (r.codes.length + 1) r.codes
        ((List.range cs.length).zip cs).flatMap (fun p =>
          let e := packElems d.dtype p.2
          e ++ List.replicate (Desc.blockBytes d.dtype - e.length) 0 ++ [BitVec.ofNat 8 (r.scales.getD p.1 0)])
      else packElems d.dtype r.codes
    return (b, r.poison))
  return (rs.flatMap (·.1), ((List.range n).zip rs).filterMap (fun p =>
    if p.2.2 then some (p.1 * d.rawRow, (p.1 + 1) * d.rawRow) else none))

/-- What rows written as they came leave beside their bytes in a tensor with scales of its own: the row scale 1.0 in row
mode, the factor 1.0 of each scale block, the record's amax of the values that the codes then stand for (R168, R169, R181;
log 138). -/
def Eng.rawScales (x : Scaled) (b : List Byte) (rows : List HeldRow) (die : Nat) : Eng Unit := do
  let d := x.d
  if d.smode != 0 then
    if x.row then rows.forM (fun r => Eng.wr (d.rowScaleAt + 4 * d.rowIndex r.place.1) (leBytes 4 one32.toNat) .stream false)
    let qs := (rows.flatMap (fun r =>
      (List.range (ceilDiv (d.ext 0) 128)).map (fun k => d.scaleBlock r.place.1 (128 * k)))).eraseDups
    qs.forM (fun q => Eng.wr (d.factorAt + 4 * q) (leBytes 4 one32.toNat) .stream false)
    if d.smode == 1 && b != [] then
      let vs := rows.map (fun r => x.values ⟨r.codes, r.scales, false⟩ (if x.row then one32 else x.t) [])
      let a := vs.foldl (fun a v => maxMag a (amaxOf v)) 0
      modify (fun e => { e with amax := mergeAmax e.amax d.recordAt die a })

/-- The bytes of rows written to a tensor from row `lo` on, as they came. -/
def Eng.putRaw (x : Scaled) (lo : Nat) (b : List Byte) : Eng Unit := do
  let d := x.d
  let n := d.ext 0
  let w := Desc.blockBytes d.dtype + 1
  let (codes, scales) := if isBlock d.dtype then
      let bs := chunks w (b.length + 1) b
      (bs.flatMap (fun k => unpack d.dtype k (blockSize d.dtype)), bs.map (fun k => (k.getLastD 0).toNat))
    else (unpack d.dtype b (b.length * 8 / elemBits d.dtype), [])
  let per := if isBlock d.dtype then d.blocks n * blockSize d.dtype else n
  let rows := (List.range (b.length / max 1 d.rawRow)).map (fun i =>
    (⟨(d.coords (lo + i), 0), ((codes.drop (i * per)).take per).take n,
      (scales.drop (i * d.blocks n)).take (d.blocks n), [], false, []⟩ : HeldRow))
  Eng.putRows d false rows
  let e ← get
  Eng.rawScales x b rows (homeOf (e.s.ctx e.job)).val

/-- The own share's bytes of a gather (R423, R424), with the runs that poison touches. -/
def Eng.ownShare (x : ColPlan) (r : ColRun) : Eng (List Byte × List (Nat × Nat)) := do
  if x.reduces then
    let e0 := x.g.share x.g.me * x.per
    let us ← (List.range (x.per / 32)).mapM (fun u => do
      let (loc, p) ← Eng.staged x (e0 + 32 * u) 32
      let (b, q) ← Eng.narrow x r (x.slotOf x.phases.length 0 0 + 32 * u) loc
      return (b, p || q))
    let ub := (wireUnit x.wire).1
    return (us.flatMap (·.1), ((List.range us.length).zip us).filterMap (fun p =>
      if p.2.2 then some (x.wireBytes e0 + p.1 * ub, x.wireBytes e0 + (p.1 + 1) * ub) else none))
  else
    let (b, bad) ← Eng.rawRows x.src 0 x.src.d.rows
    let o := x.g.share x.g.me * x.per
    return (b, bad.map (fun q => (q.1 + o, q.2 + o)))

/-! ### Results (R422 to R424) -/

/-- FP32 results written, or added where the command accumulates (R422). -/
def Eng.colWrite (x : ColPlan) (vs : List Word) : Eng Unit := do
  let e ← get
  let d := x.dst.d
  let n := max 1 (d.ext 0)
  let sr := Slot.gradOut x.b
  let round := fun (v : Word) => if d.dtype == dtBf16 && sr then do
      let k ← Eng.withGen (fun g => Fp.bf16.encode .sr g (dec32 v))
      return ofBf16 k
    else pure v
  let vs ← vs.mapM round
  let rows := chunks n (vs.length + 1) vs
  if Slot.colAccum x.b then
    ((List.range rows.length).zip rows).forM (fun p => do
      let a := d.base + d.rowOffset (d.coords p.1)
      let b := if d.dtype == dtBf16 then p.2.flatMap (fun v => leBytes 2 (toBf16 v)) else wordBytes p.2
      (pieces 64 (b.length + 1) a b.length).forM (fun q =>
        Eng.add false q.1 d.dtype (Slot.srAdd x.b) false d.hint (cmdId x.b) (cmdStep x.b) ((b.drop (q.1 - a)).take q.2)))
  else
    let home := (homeOf (e.s.ctx e.job)).val
    let parts := ((List.range rows.length).zip rows).map (fun p => ({ idx := d.coords p.1, i0 := 0, xs := p.2, amax := amaxOf p.2, poison := false } : RowPart))
    let _ ← Eng.writeParts (Writer.of x.dst (if sr && isBlock d.dtype then .sr else .rne) x.b home) parts
  return

/-- The rows that ALL_TO_ALL has received, and their counts, written (R424). -/
def Eng.allToAllDone (x : ColPlan) (r : ColRun) : Eng Unit := do
  let parts := (List.range x.g.size).map (fun q => ColPlan.gotOf r q (0, 0, 0))
  let counts := parts.map (fun b => leNat (b.take 4))
  if x.dst.d.rows < counts.foldl (· + ·) 0 then Eng.fail 0x25
  else
    Eng.putRaw x.dst 0 (parts.flatMap (fun b => b.drop 4))
    match x.fourth with
    | some f => Eng.wr f.d.base (counts.flatMap (fun n => leBytes 4 n)) f.d.hint false
    | none => pure ()

/-- The destination written: the collective has nothing more to do. -/
def Eng.colFinish (x : ColPlan) (r : ColRun) : Eng ColRun := do
  let one := x.g.size == 1
  match x.op with
  | 0x40 | 0x41 =>
    let vs ← if x.op == 0x40 || one then do
        let (vs, p) ← if one then Eng.span x.src 0 x.n else Eng.staged x (x.g.share x.g.me * x.per) x.per
        Eng.consume p
        pure vs
      else pure ((chunks (wireUnit x.wire).1 (x.n + 1) (bytesAt (x.placed r) 0 (x.wireBytes x.n))).flatMap
        (fun b => (fromWire x.wire b).map rne32))
    if !(← Eng.stopped) then Eng.colWrite x vs
  | 0x42 => Eng.putRaw x.dst 0 (bytesAt (x.placed r) 0 x.n)
  | 0x43 => Eng.allToAllDone x r
  | _ =>
    Eng.putRaw x.dst 0 (match x.parent with
      | none => bytesAt r.data 0 x.n
      | some q => ColPlan.gotOf r q (0, 0, 0))
  let step := (cmdStep x.b).toNat
  let head := x.fb.map (fun d => (remAt x d step,
    leBytes 4 step ++ leBytes 4 x.n ++ (x.g.exts.map (fun k => BitVec.ofNat 8 k)) ++ [BitVec.ofNat 8 x.wire, 1] ++
    List.replicate 51 0, d.hint))
  return { r with header := head, finished := true }

/-! ### Going on -/

/-- The generator of a reduction unit for the command (R58, R420). -/
def ColRun.genOf (r : ColRun) (seed : Nat) : Gen :=
  match r.gens.find? (fun g => g.unit == reductionUnit r.die) with
  | some g => ⟨g.state, g.left⟩
  | none => genSeed seed (reductionUnit r.die) (cmdStep r.bytes) (cmdId r.bytes)

/-- A piece of work of the run's reduction unit, with its generator. -/
def Eng.atUnit {α : Type} (r : ColRun) (f : Eng α) : Eng (α × ColRun) := do
  let c ← Eng.context
  modify (fun e => { e with gen := r.genOf c.seed, die := r.die })
  let a ← f
  Eng.settle
  let e ← get
  let u := reductionUnit r.die
  return (a, { r with gens := ⟨u, e.gen.state, e.gen.left⟩ :: r.gens.filter (fun g => g.unit != u) })

/-- Everything that the parts received so far let a collective do: fuel, the plan, poisoned runs of the own share. -/
def Eng.colAdvance (x : ColPlan) : Nat → List (Nat × Nat) → ColRun → Eng ColRun
  | 0, _, r => pure r
  | k + 1, bad, r => do
    if r.finished || (← Eng.stopped) then return r
    match x.phases[r.phase]? with
    | none =>
      let ready := match x.op with
        | 0x43 => (List.range x.g.size).all (fun q => x.whole r q (0, 0, 0))
        | 0x44 => x.parent.all (fun q => x.whole r q (0, 0, 0))
        | _ => true
      if ready then
        let (r, r') ← Eng.atUnit r (Eng.colFinish x r)
        return { r with gens := r'.gens }
      else return r
    | some (gather, d) =>
      let r := { r with die := d }
      if gather && r.data == [] then
        let ((b, bad), r) ← Eng.atUnit r (Eng.ownShare x r)
        Eng.colAdvance x k bad { r with data := [(x.wireBytes (x.g.share x.g.me * x.per), b)] }
      else
        let n := x.g.ext d
        let can := fun dir h => decide (h + 1 < n) && (h == 0 || x.come r d dir (h - 1))
        let send := fun dir h => if gather then
            let (e0, len) := x.leaving true d dir h
            let o := x.wireBytes e0
            Eng.colBytes x r (x.g.next x.g.me d dir) o (bytesAt (x.placed r) o (x.wireBytes (e0 + len) - o)) bad
          else Eng.reduceHop x r d dir h
        if can 0 r.hops.1 then
          let (_, r) ← Eng.atUnit r (send 0 r.hops.1)
          Eng.colAdvance x k bad { r with hops := (r.hops.1 + 1, r.hops.2) }
        else if can 1 r.hops.2 then
          let (_, r) ← Eng.atUnit r (send 1 r.hops.2)
          Eng.colAdvance x k bad { r with hops := (r.hops.1, r.hops.2 + 1) }
        else if r.hops == (n - 1, n - 1) && x.come r d 0 (n - 2) && x.come r d 1 (n - 2) then
          if !gather then Eng.ownSums x r d
          Eng.colAdvance x k bad { r with phase := r.phase + 1, hops := (0, 0) }
        else return r

/-- Steps that no collective exceeds: two hops of at most 15 for each of six phases, and the changes between. -/
def colFuel : Nat := 256

/-! ### Starting a collective -/

/-- The half of the step before used, or discarded and counted (R421). -/
def Eng.remStart (x : ColPlan) (r : ColRun) : Eng ColRun := do
  match x.fb with
  | none => return r
  | some d =>
    if x.g.size == 1 then return r
    let before := ((cmdStep x.b).toNat + 2 ^ 32 - 1) % 2 ^ 32
    let (h, p) ← Eng.rd (remAt x d before) 64 d.hint
    Eng.consume p
    let good := slotField h 0 4 == before && slotField h 4 4 == x.n &&
      (h.drop 8).take 4 == (x.g.exts.map (fun k => BitVec.ofNat 8 k)) ++ [BitVec.ofNat 8 x.wire] && slotField h 12 1 % 2 == 1
    if !good then
      Eng.onState (fun s => s.modLDie (Fin.ofNat 3 (x.g.dims.headD 0)) (fun d => { d with colCnt := d.colCnt.bump 23 16 1 }))
    return { r with useOld := good }

/-- ALL_TO_ALL's parts sent, its own kept; BROADCAST's root sends its source. -/
def Eng.straight (x : ColPlan) (r : ColRun) : Eng ColRun := do
  match x.op with
  | 0x43 =>
    let cs ← (List.range x.g.size).mapM (fun q => Eng.rd (x.third.d.base + 4 * q) 4 x.third.d.hint)
    Eng.consume (cs.any (fun c => c.2))
    let counts := cs.map (fun c => leNat c.1)
    if x.src.d.rows < counts.foldl (· + ·) 0 then
      Eng.fail 0x25
      return r
    let parts ← (List.range x.g.size).mapM (fun q => do
      let lo := (counts.take q).foldl (· + ·) 0
      let (b, bad) ← Eng.rawRows x.src lo (counts.getD q 0)
      return (leBytes 4 (counts.getD q 0) ++ b, bad.map (fun p => (p.1 + 4, p.2 + 4))))
    let mine := parts.getD x.g.me ([], [])
    ((List.range x.g.size).zip parts).forM (fun p =>
      if p.1 == x.g.me then pure () else Eng.colBytes x r p.1 0 p.2.1 p.2.2)
    Eng.consume (mine.2 != [])
    return { r with recv := [⟨x.g.me, 0, 0, 0, mine.1⟩] }
  | 0x44 =>
    if x.parent.isSome then return r
    let (b, bad) ← Eng.rawRows x.src 0 x.src.d.rows
    x.children.forM (fun q => Eng.colBytes x r q 0 b bad)
    Eng.consume (bad != [])
    return { r with data := [(0, b)] }
  | 0x42 =>
    if x.g.size != 1 then return r
    let (b, bad) ← Eng.rawRows x.src 0 x.src.d.rows
    Eng.consume (bad != [])
    return { r with data := [(0, b)] }
  | _ => return r

def colUnitFault (cause : Nat) (r : ColRun) : FaultAt := faultOf 3 cause 3 r.die (reductionUnit r.die) r.bytes

/-- A fault of a collective in execution: a failed rank check is a channel error (Table 13-4). -/
def State.colFault (s : State) (j : JobIx) (r : ColRun) (cause : Nat) : State :=
  if cause == 0x2D then s.colFail j r.ch 5 else s.jobFault j (colUnitFault cause r)

/-- Whether a context's front collective waits for its channel (R417). -/
def State.channelBusy (s : State) (j : JobIx) (b : List Byte) : Bool :=
  (s.queue j 3).inflight.any (fun f => Slot.colChannel f.bytes == Slot.colChannel b)

/-- Whether an operand lies on a FENCED stack (R323, Table 13-4). -/
def fencedOperand (s : State) (ds : List (Option Desc)) : Bool :=
  (List.finRange 12).any (fun st => s.sdies[st].state == .fenced && ds.any (fun d => d.any (fun d => spanOn s st d.base d.span)))

/-- A collective over its operands as their descriptors give them. -/
def colOf (c : Ctx) (b : List Byte) (ds : List (Option Desc)) : ColPlan :=
  ColPlan.make c b (ds.map (fun d => d.map (fun d => (⟨d, false, d.tscale⟩ : Scaled))))

/-- A collective that has nothing to write (R191). -/
def ColPlan.idle (x : ColPlan) (b : List Byte) : Bool :=
  if opcodeOf b == 0x43 then x.dst.d.empty && x.fourth.isNone else x.n == 0

/-- The collective of a command before it has done anything. -/
def ColPlan.fresh (x : ColPlan) (j : JobIx) (b : List Byte) (fid now : Nat) : ColRun :=
  ⟨j.val, Slot.colChannel b, fid, opcodeOf b, b, now, 0, (0, 0), [], [], false, none, [], x.g.dims.headD 0, false⟩

/-- The stage lease of a reducing collective of more than one module (R436). -/
def State.colLease (s : State) (j : JobIx) (fid : Nat) (x : ColPlan) (r : ColRun) : State :=
  if x.reduces && x.g.size != 1 then
    s.grant 3 j.val (reductionUnit r.die) fid x.third.d.base (4 * (x.n / x.g.ext (x.g.dims.headD 0)))
  else s

/-- What a collective does when it starts: its remainders, what it sends of its own, and as far as it gets. -/
def Eng.colPrep (c : Ctx) (b : List Byte) (ds : List (Option Desc)) (row : Bool) (r0 : ColRun) :
    Eng (List (Option Scaled) × ColRun) := do
  let ops ← ds.mapM (fun d => Eng.scaledOpt d row (cmdStep b))
  let x := ColPlan.make c b ops
  let r ← Eng.remStart x r0
  let (r', r) ← Eng.atUnit r (Eng.straight x r)
  let r ← Eng.colAdvance x colFuel [] { r' with gens := r.gens }
  return (ops, r)

/-- A collective command decoded and started. -/
def State.collective (j : JobIx) (s : State) (b : List Byte) (fid : Nat) : Begin :=
  let c := s.ctx j
  if s.channelBusy j b || s.overtaken j 3 [] || s.ldies.any (fun d => d.held) then .stays
  else
    let ((ds, fs), v) := (Eng.operands c (colUses c b)).run (envOf s j b fid)
    let x0 := colOf c b ds
    settleDecode 3 b (homeOf c).val v (fs ++ colChecks c x0 (ds.map Option.isSome) ++ stepFault c b) (fun s =>
      let (row, s) := s.fixRow j (cmdStep b)
      if x0.idle b then .done s
      else
        let r0 := x0.fresh j b fid s.tick
        let ((ops, r), v) := (Eng.colPrep c b ds row r0).run (envOf (s.colLease j fid x0 r0) j b fid)
        if v.waits then
          if fencedOperand v.s ds then .faults ({ v.s with cols := v.s.cols ++ [r] }.colFail j r.ch 3) (colUnitFault 0x2D r)
          else .stays
        else
          let s : State := { v.s with cols := v.s.cols ++ [r] }
          match v.stop with
          | some cause => .faults (s.colFault j r cause) (colUnitFault cause r)
          | none =>
            let s := s.modCtx j (fun c => { c with colBusy := c.colBusy.setField r.ch r.ch 1 })
            .starts s { shares := if r.finished then 0 else 1, amax := v.amax, ops := ops })

/-- REDUCE_SCATTER (R419, R422). -/
def execReduceScatter (j : JobIx) (s : State) : Host.Outcome State Fault Refusal :=
  .next (s.runSlot j 3 0x40 (State.collective j))
/-- ALL_REDUCE (R419, R423). -/
def execAllReduce (j : JobIx) (s : State) : Host.Outcome State Fault Refusal :=
  .next (s.runSlot j 3 0x41 (State.collective j))
/-- ALL_GATHER (R424). -/
def execAllGather (j : JobIx) (s : State) : Host.Outcome State Fault Refusal :=
  .next (s.runSlot j 3 0x42 (State.collective j))
/-- ALL_TO_ALL (R424). -/
def execAllToAll (j : JobIx) (s : State) : Host.Outcome State Fault Refusal :=
  .next (s.runSlot j 3 0x43 (State.collective j))
/-- BROADCAST (R424). -/
def execBroadcast (j : JobIx) (s : State) : Host.Outcome State Fault Refusal :=
  .next (s.runSlot j 3 0x44 (State.collective j))

/-! ### Packets of collectives (R426 to R428) -/

/-- The bytes of a packet put behind those of its part. -/
def ColRun.take (r : ColRun) (src : Nat) (k : Nat × Nat × Nat) (b : List Byte) : ColRun :=
  let is := fun q : ColPart => q.src == src && q.phase == k.1 && q.dir == k.2.1 && q.hop == k.2.2
  { r with
    recv := if r.recv.any is then modFirst is (fun q => { q with got := q.got ++ b }) r.recv
      else r.recv ++ [⟨src, k.1, k.2.1, k.2.2, b⟩] }

/-- A COLL packet given to the collective on its channel. It waits while none runs there, or while the one that runs has
had everything from its sender (R427). -/
def deliverColl (s : State) (_q : Reorder) (p : Packet) : Option (State × Bool) :=
  let j : JobIx := Fin.ofNat 64 p.job
  match s.cols.find? (fun r => r.job == p.job && r.ch == p.channel) with
  | none => none
  | some r =>
    match s.flight j 3 r.fid with
    | none => none
    | some f =>
      let x := ColPlan.make (s.ctx j) f.bytes f.ops
      if p.srcRank < x.g.base || x.g.base + x.g.size ≤ p.srcRank then none
      else
        let src := p.srcRank - x.g.base
        match (x.expected src).find? (fun k => !x.whole r src k) with
        | none => none
        | some k =>
          if p.tag != Slot.colTag r.bytes || p.step != cmdStep r.bytes then some (s.colFail j r.ch 4, false)
          else if p.poison != 0 then some (s.colFault j r 0x29, false)
          else
            let b := p.payload.take p.length
            let go : Eng ColRun := do
              if x.op == 0x44 then x.children.forM (fun q => Eng.colPacket x r q b false)
              Eng.colAdvance x colFuel [] (r.take src k (if x.reduces then fromPayload x.wire b else b))
            let (r', v) := go.run { envOf s j f.bytes r.fid with amax := f.amax }
            if v.waits then none
            else
              let s : State := { v.s with cols := v.s.cols.map (fun (y : ColRun) => if y.job == r.job && y.fid == r.fid then r' else y) }
              match v.stop with
              | some cause => some (s.colFault j r' cause, false)
              | none =>
                some (s.modFlight j 3 r.fid (fun f => { f with
                  shares := if r'.finished then 0 else 1
                  amax := v.amax }), false)

/-- COLL (R394, R426, R427): the next packet of the `k`-th lease of an L-die. -/
def execColl (l : LIx) (k : Nat) (s : State) : Host.Outcome State Fault Refusal := .next (s.deliver l k .coll deliverColl)

/-- COLLECTIVE_TIMEOUT (R426). -/
def execCollectiveTimeout (j : JobIx) (ch : Fin 16) (s : State) : Host.Outcome State Fault Refusal :=
  .next (match s.cols.find? (fun r => r.job == j.val && r.ch == ch.val) with
    | some r => if r.startTick + Slot.colTimeout r.bytes ≤ s.tick then s.colFail j ch.val 1 else s
    | none => s)

end Sys2Proof.Machine
end

