-- ==== Sys2Proof/Machine/Reckoner.lean ====
section
/-! DEFINITION. The Reckoner (chapter 9): how a list is read at admission (R298, R299), its commands' bounds (R300,
R376), its charge and the test (R301 to R304), and misses (R307 to R311). -/

namespace Sys2Proof.Machine

/-! ### Reading a list (R298, R299) -/

/-- A command of a list as admission reads it: whether a BRANCH may pass over it, and for a CHAIN how many planned
commands its run holds. -/
structure Planned where
  cmd : HeldCmd
  conditional : Bool
  run : Nat
deriving DecidableEq, Repr

/-- How the reading of a list ends. -/
inductive Walk where
  /-- Its END is not yet behind TAIL, or a stack keeps a read waiting. -/
  | later
  /-- A poisoned slot has faulted the job (R274). -/
  | faulted (s : State)
  | length (s : State) (l : List Planned)
  | whole (s : State) (l : List Planned)
deriving Repr

/-- The commands of a run up to the one that ends the list: whether a BRANCH may pass over the whole run, and what a
BRANCH of the run itself may pass over. Answers also the count that reaches past the run, and whether it ends the list. -/
def planRun (all : Bool) : List HeldCmd → Nat → List Planned × Nat × Bool
  | [], skip => ([], skip, false)
  | h :: hs, skip =>
    let cond := all || decide (0 < skip)
    let skip := if opcodeOf h.bytes == 3 then max (skip - 1) (bitsOf (Slot.imm h.bytes) 23 0) else skip - 1
    let p : Planned := ⟨h, cond, 0⟩
    if h.isEnd then ([p], skip, true)
    else
      let (ps, skip, e) := planRun all hs skip
      (p :: ps, skip, e)

/-- The run of a CHAIN as admission reads it; none of it where the CHAIN will be rejected at its decode (R270). -/
def State.peekRun (s : State) (j : JobIx) (h : HeldCmd) : Option (Except (Nat × Nat × State) (List HeldCmd × State)) :=
  let n := bitsOf (Slot.imm h.bytes) 23 0
  let a := Slot.d h.bytes 0
  if h.runIdx.isSome || n == 0 || a % 64 != 0 || ((s.ctx j).regionOf a (64 * n)).isNone then some (.ok ([], s))
  else match State.readRun j a n 0 s [] with
    | none => none
    | some (.error x) => some (.error x)
    | some (.ok (bs, s)) => some (.ok (runCommands h.ringIdx (n + 1) 0 bs, s))

/-- The list at the front of a queue read to its END, slots of the ring being fetched as it needs them: fuel, how many
held commands are read, the commands a BRANCH may still pass over, and what has been read. -/
def State.walk (j : JobIx) (e : EngIx) : Nat → Nat → Nat → List Planned → State → Walk
  | 0, _, _, acc, s => .length s acc
  | k + 1, i, skip, acc, s =>
    if 4096 < acc.length then .length s acc
    else
      match ((s.queue j e).held[i]?).filter HeldCmd.whole with
      | none =>
        match s.fetchOne j e with
        | none => .later
        | some s => if (s.ctx j).state != .opened then .faulted s else State.walk j e k i skip acc s
      | some h =>
        let cond := decide (0 < skip)
        let after := if opcodeOf h.bytes == 3 then max (skip - 1) (bitsOf (Slot.imm h.bytes) 23 0) else skip - 1
        if opcodeOf h.bytes == 2 then
          match s.peekRun j h with
          | none => .later
          | some (.error (cause, n, s)) => .faulted (s.slotFault j e cause h.ringIdx (some n))
          | some (.ok (hs, s)) =>
            if h.isEnd then .whole s (acc ++ [⟨h, cond, 0⟩])
            else
              let (ps, past, ends) := planRun cond hs 0
              let acc := acc ++ [⟨h, cond, ps.length⟩] ++ ps
              if ends then .whole s acc else State.walk j e k (i + 1) (max after past) acc s
        else if h.isEnd then .whole s (acc ++ [⟨h, cond, 0⟩])
        else State.walk j e k (i + 1) after (acc ++ [⟨h, cond, 0⟩]) s

/-! ### The feed term (R300) -/

/-- Percent of bandwidth that a stack's state leaves (Table 10-1). -/
def StackState.percent : StackState → Nat
  | .step75 => 75 | .step50 => 50 | .step25 | .fenced => 25 | _ => 100

/-- The 256 B slots that `n` bytes from `a` cost (R198). -/
def slotsOf (a n : Nat) : Nat := (a % 256 + n + 255) / 256

/-- The bytes of a run that rows make, merged dimension by dimension outward while they lie back to back, and the
dimensions left: each an extent and a stride (R198). -/
def mergeRows (run : Nat) : List (Nat × Nat) → Nat × List (Nat × Nat)
  | [] => (run, [])
  | x :: xs => if x.2 == run then mergeRows (run * x.1) xs else (run, x :: xs)

/-- The bytes of a tensor's rows at their slot cost, run by run; a broadcast dimension is moved once. -/
def Desc.slotBytes (d : Desc) : Nat :=
  let row := if d.woven then d.panelBytes else d.rowBytes
  let dims := (List.range 5).map (fun k =>
    (if d.woven && k == 0 then ceilDiv (d.ext 1) 128 else d.ext (k + 1), d.stride (k + 1)))
  let (run, rest) := mergeRows row (dims.filter (fun x => 1 < x.1 && x.2 != 0))
  let offs := rest.foldl (fun (l : List Nat) x => l.flatMap (fun o => (List.range x.1).map (fun i => o + i * x.2))) [0]
  256 * (offs.map (fun o => slotsOf (d.base + o) run)).foldl (· + ·) 0

/-- What a share moves one way between stack memory and its die: bytes of a 12-stack interleave, and of each C-die's near
stacks. -/
structure Way where
  all : Nat
  near : List Nat
deriving Repr

def Way.put (s : State) (w : Way) (base n : Nat) : Way :=
  match placeOf s base with
  | .stack st _ => if base < 12 * s.sdies[0].split * gib then { w with all := w.all + n }
      else { w with near := modAt w.near (st / 3) (· + n) }
  | _ => w

/-- What a share reads and writes: a ring link carries 3 TB/s in each direction (R22), a stack port both together. -/
structure Draw where
  ins : Way
  outs : Way
deriving Repr

def Draw.none : Draw := ⟨⟨0, [0, 0, 0, 0]⟩, ⟨0, [0, 0, 0, 0]⟩⟩
def Draw.take (s : State) (w : Draw) (base n : Nat) : Draw := { w with ins := w.ins.put s base n }
def Draw.give (s : State) (w : Draw) (base n : Nat) : Draw := { w with outs := w.outs.put s base n }

/-- The clocks that a C-die's feeder takes: at the slowest stack, scaled by its bandwidth step, and at its two ring links,
each way, opposite dies' bytes being split over both (R21 to R23). -/
def feedClocks (s : State) (die : CIx) (w : Draw) : Nat :=
  let step := fun k => (List.range 3).foldl (fun m i => min m (s.sdies[Fin.ofNat 12 (3 * k + i)].state.percent)) 100
  let stack := (List.range 4).map (fun k =>
    let b := w.ins.all + w.outs.all + 4 * (w.ins.near.getD k 0 + w.outs.near.getD k 0)
    if b = 0 then 0 else ceilDiv (b * 1100) (12 * 32800 * step k))
  let link := fun (x : Way) k =>
    let near := fun i => x.near.getD ((die.val + i) % 4) 0
    ceilDiv ((3 * x.all + 8 * near k + 4 * near 2) * 11) (8 * 30000)
  (stack ++ [link w.ins 1, link w.ins 3, link w.outs 1, link w.outs 3]).foldl max 0

/-! ### Bounds (Table 9-2) -/

/-- The mask of a command, and the C-dies of it that can take a share. -/
def maskDies (c : Ctx) (b : List Byte) : List CIx :=
  let m := Slot.dieMask b
  if m == 0 then [homeOf c] else (List.finRange 4).filter (fun n => m.testBit n.val)

def State.boundDies (s : State) (j : JobIx) (e : EngIx) (b : List Byte) : List CIx :=
  let ds := s.diesOf j e b
  if ds == [] then maskDies (s.ctx j) b else ds

/-- The size of share `i` of `m` of `n` items, and the first die with the largest share. -/
def shareSize (n i m : Nat) : Nat := (i + 1) * n / m - i * n / m

def largestShare (n : Nat) (dies : List CIx) : Nat × CIx :=
  ((List.range dies.length).zip dies).foldl (fun (r : Nat × CIx) p =>
    let k := shareSize n p.1 dies.length
    if r.1 < k then (k, p.2) else r) (shareSize n 0 (max 1 dies.length), dies.headD 0)

/-- A part of a tensor's slot bytes: `k` of `n` items. -/
def partOf (d : Desc) (k n : Nat) : Nat := if n = 0 then 0 else ceilDiv (d.slotBytes * k) n

/-- Tensors that a share reads in part and whole, and those that it writes its part of. -/
def drawOf (s : State) (k n : Nat) (parts whole outs : List Desc) : Draw :=
  let w := parts.foldl (fun w d => w.take s d.base (partOf d k n)) Draw.none
  let w := whole.foldl (fun w d => w.take s d.base d.slotBytes) w
  outs.foldl (fun w d => w.give s d.base (partOf d k n)) w

def loomBound (s : State) (dies : List CIx) (b : List Byte) (ds : List (Option Desc)) : Nat :=
  let plain := fun (d : Option Desc) => d.map (fun d => (⟨d, false, d.tscale⟩ : Scaled))
  if opcodeOf b == 0x12 || opcodeOf b == 0x13 then
    let a := (ds.getD 0 none).getD default
    let ls := (ds.drop 2).filterMap id
    let rank := ls.foldl (fun r l => max r (l.ext 0)) 0
    let bands := ceilDiv a.rows 256 + (if opcodeOf b == 0x13 then Slot.extField b 46 2 else 0)
    let (k, die) := largestShare bands dies
    let t := max 1 (s.cdies[die].serviceTiles).length
    let rows := min a.rows (256 * k)
    max (160 + ceilDiv (rows * a.ext 0 * rank) (2048 * t))
      (feedClocks s die (drawOf s k bands [a] ls [(ds.getD 1 none).getD default]))
  else
    let m := Mat.of b (ds.map plain)
    let bands := if opcodeOf b == 0x11 then ceilDiv m.rows 256 + Slot.extField b 46 2
      else (m.batches.map (fun g => ceilDiv g.rows 256)).foldl (· + ·) 0
    let n := bands * ceilDiv m.n 128
    let (k, die) := largestShare n dies
    let t := max 1 (s.cdies[die].serviceTiles).length
    -- the segment counts are run-time values: the B that costs most (R301)
    let compute := ((List.range m.bs.length).map (fun i =>
      let cuts := m.cuts i
      let p := cuts.length
      let a := max (arrayClocks (m.level i) (m.sparse i) ((cuts.map (·.2)).foldl max 0) 0)
        (16 * (m.rlr + if m.ledger != 0 then 64 else 0))
      if t ≤ k then 160 + ceilDiv k t * p * (a + 8) else 296 + ceilDiv (k * p) t * (a + 8))).foldl max 0
    let side := (m.down.map (·.d)).toList ++ (m.downG.map (·.d)).toList ++ (m.tags.map (·.d)).toList
    let w := drawOf s k n ([m.a.d] ++ (m.p.map (·.d)).toList ++ side) (m.bs.map (·.d) ++ (m.up.map (·.d)).toList)
      [m.o.d, m.f.d]
    max compute (feedClocks s die (if m.ledger == 0 then w else w.take s m.ledger (256 * slotsOf m.ledger (16 * m.ledgerLen))))

def vectorBound (s : State) (dies : List CIx) (b : List Byte) (ds : List (Option Desc)) : Nat :=
  let p := vecPlan b ds
  let items := if opcodeOf b == 0x24 then p.x.rows else p.o.rows
  let (k, die) := largestShare items dies
  let lanes := 512 * max 1 (vuUnits s.cdies[die]).length
  let per := if opcodeOf b == 0x24 then p.x.ext 0 else p.o.ext 0
  let f := match opcodeOf b with
    | 0x20 | 0x23 => 2
    | 0x24 => 4
    | _ => 3
  max (f * ceilDiv (k * per) lanes)
    (feedClocks s die (drawOf s k items ([p.x] ++ p.y.toList ++ p.z.toList) [] [p.o]))

/-- The operands of a copy command with what each is for, and its entries: rows where no index applies. -/
def copyOperands (b : List Byte) : List (Nat × Use) :=
  match opcodeOf b with
  | 0x30 => [(Slot.d b 0, copyUse), (Slot.d b 1, copyOut), (Slot.d b 2, areaUse)]
  | 0x31 => [(Slot.d b 0, copyUse), (Slot.d b 1, copyOut)]
  | 0x37 => [(Slot.d b 0, indexUse), (Slot.d b 1, Use.input (· == dtFp32)), (Slot.d b 2, Use.output dtypeKnown),
      (Slot.d b 3, Use.output (· == dtInt32)), (Slot.d b 4, Use.output (· == dtFp32))]
  | 0x38 =>
    let n := bitsOf (Slot.imm b) 2 0 + 1
    [(Slot.d b 0, Use.output indexCode), (Slot.d b 2, areaUse)] ++
    (List.range n).map (fun i => (Slot.d b 1 + 64 * i, Use.output (· == dtInt32))) ++
    (List.range n).map (fun i => (Slot.extField b (6 * i) 6, indexUse))
  | _ => indexedUses b

def copyBound (s : State) (j : JobIx) (dies : List CIx) (b : List Byte) (ds : List (Option Desc)) : Nat :=
  let g := fun k => (ds.getD k none).getD default
  let op := opcodeOf b
  if op == 0x37 || op == 0x38 then
    let lists := bitsOf (Slot.imm b) 2 0 + 1
    let ins := if op == 0x37 then [g 0] else (ds.drop (2 + lists)).filterMap id
    let reads := if op == 0x37 then (ds.take 2).filterMap id else ins
    let writes := if op == 0x37 then (ds.drop 2).filterMap id else (ds.take (2 + lists)).filterMap id
    let n := (ins.map (fun d => d.ext 0)).foldl (· + ·) 0
    let bytes := (ins.map Desc.slotBytes).foldl (· + ·) 0
    let ch := max 1 (cpyUnits s.cdies[dies.headD 0]).length
    max (max (ceilDiv n ch) (ceilDiv bytes (256 * ch))) (feedClocks s (dies.headD 0) (drawOf s 1 1 reads [] writes))
  else
    let src := g 0
    let dst := g 1
    let c := copyCmd op ⟨src, false, src.tscale⟩ ⟨dst, false, dst.tscale⟩
    let rows := if op == 0x30 || op == 0x31 then dst.rows else if op == 0x36 then (g 3).ext 0
      else if op == 0x35 && (Slot.imm b).testBit 0 then c.size src else (g 2).ext 0
    let (k, die) := largestShare rows dies
    let ch := max 1 (cpyUnits s.cdies[die]).length
    let row := if c.elem then elemBits src.dtype / 8 else dst.rowBytes
    let staged := op == 0x30 && overlapOf (s.ctx j) src dst (ds.getD 2 none) die == .staged
    let bytes := k * row + if staged then src.span else 0
    let adds := if op == 0x34 || op == 0x35 then ceilDiv (rows * ceilDiv row 256 * 11) 5 else 0
    -- an indexed row may lie anywhere in its side: each entry costs the slots of a row
    let draw := if op == 0x30 || op == 0x31 then drawOf s k rows [src] [] [dst]
      else
        let w := if op == 0x36 then drawOf s k rows [g 3] [g 2] [] else drawOf s k rows [g 2] [] []
        (w.take s src.base (k * 256 * slotsOf src.base row)).give s dst.base (k * 256 * slotsOf dst.base row)
    let draw := if staged then draw.take s src.base src.slotBytes else draw
    max (max (max (ceilDiv k ch) (ceilDiv bytes (256 * ch))) adds) (feedClocks s die draw)

/-- Clocks of bytes at 400 GB/s. -/
def portClocks (bytes : Nat) : Nat := ceilDiv (bytes * 11) 4000

def colBound (x : ColPlan) : Nat :=
  let frames := fun bytes => 300 * ceilDiv bytes x.packetBytes
  portClocks (match x.op with
    | 0x43 => if x.g.size == 1 then 0 else frames (x.src.d.rows * x.src.d.rawRow)
    | 0x44 => x.g.dims.length * frames x.n
    | _ => ((x.phases.map (fun p =>
        (x.g.ext p.2 - 1) * max (frames (x.wireBytes (x.leaving p.1 p.2 0 0).2)) (frames (x.wireBytes (x.leaving p.1 p.2 1 0).2))))).foldl
          (· + ·) 0)

/-- Bytes of one element with its scales, in 64ths (R374). -/
def elem64 (c : Nat) : Nat := 8 * elemBits c + if isMx c then 2 else if isFine c then 4 else 0

/-- The bytes per element of an update command, in 64ths (R374). -/
def Upd.bytes64 (u : Upd) : Nat :=
  let state := fun (x : Option Scaled) => (x.map (fun d => 2 * elem64 d.d.dtype)).getD 0
  let copy := fun (x : Option Scaled) => (x.map (fun d => elem64 d.d.dtype + if d.d.rot == 1 then 4 else 0)).getD 0
  (if u.regen then 128 else 256) + (if u.rem.isSome then (if u.regen then 64 else 128) else 0) +
  (if u.regen then 0 else elem64 u.grad.d.dtype * (if u.op == 0x52 then 2 else 1)) +
  state u.m + (if u.op == 0x51 then state u.second else 0) + copy u.fwd + copy u.trn +
  (if u.op == 0x53 then (if u.root then 32 else 24) * 64 else 0)

/-- The bound of an update command: the slowest stack (R376). A sparse one may find every entry on one stack. -/
def updBound (s : State) (u : Upd) : Nat :=
  let homes := if u.sparse then [] else (List.range u.tiles).map (fun t => u.home s t)
  ((List.range 12).map (fun st =>
    let pct := (s.sdies[Fin.ofNat 12 st]).state.percent
    if u.sparse then
      let row := (u.elementTensors.map (fun d => 512 * slotsOf d.base d.rowBytes)).foldl (· + ·) 0 +
        256 * slotsOf u.grad.d.base u.grad.d.rowBytes
      ceilDiv ((u.touch.getD default).ext 0 * row * 1100) (30000 * pct)
    else
      let tiles := (homes.filter (· == some st)).length
      let e := tiles * 65536
      max (ceilDiv (e * u.bytes64 * 1100) (64 * 30000 * pct)) (ceilDiv e (if u.op == 0x53 then 8 else 1024)) +
      (if u.op == 0x53 && u.root then 4 * tiles * 196608 else 0))).foldl max 0 + (if u.op == 0x52 then 264 else 0)

/-- The bound of a command, none where it cannot be sized (R301); reading it consumes no poison (R569). The first
component tells whether a stack keeps the reading waiting. -/
def State.bound (s : State) (j : JobIx) (e : EngIx) (b : List Byte) : Bool × Option Nat × State :=
  if opcodeOf b < 4 || opcodeRefused e.val b then (false, some 0, s)
  else
    let c := s.ctx j
    let uses := match e.val with
      | 0 => if opcodeOf b == 0x12 || opcodeOf b == 0x13 then sideUses b else matUses b
      | 1 => vecUses b
      | 2 => copyOperands b
      | 3 => colUses c b
      | _ => updUses b
    let ((ds, fs), v) := (Eng.operands c uses).run (envOf s j b 0)
    let s' : State := { v.s with sdies := s.sdies }
    if v.waits then (true, none, s)
    else if v.stop.isSome || fs != [] then (false, none, s')
    else
      let dies := s.boundDies j e b
      let plain := ds.map (fun d => d.map (fun d => (⟨d, false, d.tscale⟩ : Scaled)))
      (false, some (match e.val with
        | 0 => loomBound s dies b ds
        | 1 => vectorBound s dies b ds
        | 2 => copyBound s j dies b ds
        | 3 => colBound (ColPlan.make c b plain)
        | _ => updBound s (Upd.of b plain)), s')

/-! ### The charge and the test (R301 to R304) -/

/-- What the reading of a list's commands gives. -/
structure Charges where
  waits : Bool
  plan : List PlanItem
  clocks : Nat
  colls : Nat
  engines : List Nat
  /-- The position and the reason of the first command that is too long or cannot be sized. -/
  bad : Option (Nat × Nat)
  field : Bool
  first : Option Word
deriving Repr

/-- The engines of R302 by number: Loom 0 to 3, vector 4 to 7, copy 8 to 11, the collective and the update engine. -/
def enginesOf (c : Ctx) (e : EngIx) (b : List Byte) : List Nat :=
  if e.val < 3 then (if opcodeOf b < 4 then [] else (maskDies c b).map (fun n => 4 * e.val + n.val)) else [9 + e.val]

/-- One more command of a list charged. -/
def Charges.add (j : JobIx) (e : EngIx) (r : Charges × State) (i : Nat) (p : Planned) : Charges × State :=
  let (a, s) := r
  let b := p.cmd.bytes
  let (w, bd, s) := s.bound j e b
  let clocks := Slot.cost b % 2 ^ 28
  let charge := match bd with
    | some n => max n clocks
    | none => clocks
  let bad := if p.conditional || a.bad.isSome then a.bad
    else if 55000000 < charge then some (i, 3)
    else if bd.isNone && clocks == 0 then some (i, 6) else none
  let counts := !p.conditional
  ({ a with
    waits := a.waits || w
    plan := a.plan ++ [⟨p.conditional, charge, p.run⟩]
    clocks := a.clocks + if counts then charge else 0
    colls := a.colls + if counts && 0x40 ≤ opcodeOf b && opcodeOf b ≤ 0x44 then 1 else 0
    engines := (enginesOf (s.ctx j) e b).foldl (fun l x => insertNat x l) a.engines
    bad := bad
    field := a.field || Slot.cost b / 2 ^ 28 != 0
    first := if counts && a.first.isNone && opcodeOf b != 1 then some (cmdStep b) else a.first }, s)

/-- Fields of LIST_HEAD (Table 9-1). -/
def headDeadline (b : List Byte) : Nat := slotField b 28 8
def headReserve (b : List Byte) : Nat := slotField b 36 2
def headRefused (b : List Byte) : Bool :=
  headDeadline b == 0 || 2 ^ 40 ≤ headDeadline b || (100 < headReserve b && headReserve b != 0xFFFF) ||
  slotField b 38 26 != 0

/-- The lists that count on an engine, numbered as `enginesOf` does: deadline tick and remaining demand, the admitted time
less the ticks that the engine has spent on the list (R302). -/
def State.listsOn (s : State) (k : Nat) : List (Nat × Nat) :=
  let e : EngIx := Fin.ofNat 5 (if k < 12 then k / 4 else k - 9)
  let n := if k < 12 then k % 4 else 0
  (List.finRange 64).flatMap (fun j =>
    let q := s.queue j e
    (q.lists.filter (fun l => l.engines.contains k && !l.missed)).map (fun l =>
      (l.deadlineTick, l.adm - q.spentBy (homeOf (s.ctx j)) e l n s.tick)))

/-- "Now" in R302: the end of the wake under way of a C-die that the list will use (R508). -/
def State.admitTick (s : State) (engines : List Nat) : Nat :=
  (engines.filter (fun k => k < 12)).foldl (fun t k => max t (s.cdies[Fin.ofNat 4 k]).wakeEnd) s.tick

/-- R302 on one engine at `now`, for a new list with a deadline tick and an admitted time. -/
def State.feasibleOn (s : State) (now k dl adm : Nat) : Bool :=
  let ls := (dl, adm) :: s.listsOn k
  ls.all (fun d => decide (now + ((ls.filter (fun x => x.1 ≤ d.1)).map (·.2)).foldl (· + ·) 0 ≤ d.1))

/-- The C-die whose Reckoner admits for a context (R296): the home, or the next one whose Reckoner is not fenced. -/
def State.reckoner (s : State) (j : JobIx) : Option CIx :=
  ((List.range 4).map (fun k => (Fin.ofNat 4 ((homeOf (s.ctx j)).val + k) : CIx))).find?
    (fun n => !s.flt.fenced.contains (unitId 1 n.val 6 0))

/-- A list rejected (R304). What a SKIP then leaves held is what follows the list (R283): after LENGTH, everything from
the next LIST_HEAD on. -/
def State.rejectList (s : State) (j : JobIx) (e : EngIx) (reason pos : Nat) (step : Option Word) (kept : Option Nat) : State :=
  let q := s.queue j e
  let head := q.held.headD ⟨[], 0, none⟩
  let unit := unitId 1 ((s.reckoner j).getD 0).val 6 0
  let s := s.modCtx j (fun c => { c with
    admitStat := ((c.admitStat.bump 31 16 1).setField 6 4 e.val).setField 3 0 reason })
  let s := s.modQ j e (fun q => { q with
    state := if q.admitPend then q.state else .halted
    cause := 0x11
    faultCmd := cmdId head.bytes
    admitPend := false
    skipHead := kept.isNone
    afterSkip := match kept with
      | some n => q.held.drop n
      | none => q.held.drop 1 })
  let s := s.record { blankRec unit 0x11 2 with
    job := some j.val
    opcode := 1
    cmd := cmdId head.bytes
    step := step.getD 0
    syndrome := [BitVec.ofNat 8 reason, BitVec.ofNat 8 e.val, 0, 0] ++ leBytes 4 pos }
  s.raise (64 + j.val)

/-- Ring commands of a walked list: those that a CHAIN's run holds do not stand in the queue yet. -/
def heldOf (l : List Planned) : Nat :=
  (l.foldl (fun (r : Nat × Nat) p => if r.2 = 0 then (r.1 + 1, p.run) else (r.1, r.2 - 1)) (0, 0)).1

/-- The STEP of a list's first charged command (R304, R309). -/
def firstCharged (l : List Planned) : Option Word :=
  (l.find? (fun p => !p.conditional && opcodeOf p.cmd.bytes != 1)).map (fun p => cmdStep p.cmd.bytes)

/-- A walked list accepted or rejected (R301 to R304). -/
def State.admitted (s : State) (j : JobIx) (e : EngIx) (l : List Planned) : Option State :=
  let (a, s') := ((List.range l.length).zip l).foldl (fun r p => Charges.add j e r p.1 p.2)
    ((⟨false, [], 0, 0, [], none, false, none⟩ : Charges), s)
  if a.waits then none
  else
    let s := s'
    let c := s.ctx j
    let b := (l.head?.map (fun p => p.cmd.bytes)).getD []
    let rsv := if headReserve b == 0xFFFF then min 100 (c.rknCfg.field 7 0) else headReserve b
    let engines := if a.engines == [] then [4 * e.val + (homeOf c).val] else a.engines
    let ct := ceilDiv a.clocks 44
    let adm := ceilDiv (ct * (100 + rsv)) 100 + a.colls * c.rknCfg.field 31 12
    let dl := s.tick + headDeadline b
    let no := fun reason pos => some (s.rejectList j e reason pos a.first (some (heldOf l)))
    if headRefused b || a.field then no 4 0
    else match a.bad with
      | some (pos, reason) => no reason pos
      | none =>
        if (s.queue j e).lists.any (fun x => decide (dl < x.deadlineTick)) then no 5 0
        else if !engines.all (fun k => s.feasibleOn (s.admitTick engines) k dl adm) then no 1 0
        else
          let x : AdmList := ⟨c.nextLid, s.tick, dl, adm, 44 * ((adm - ct - a.colls * c.rknCfg.field 31 12 : Nat) : Int), [],
            [0, 0, 0, 0, 0, 0], engines, a.plan, a.first.getD 0, false, false, false, 0⟩
          some (s.modCtx j (fun c => { c.modQ e (fun q => { q with
            state := if q.admitPend then q.state else .active
            admitPend := false
            skipHead := false
            lists := q.lists ++ [x]
            curList := some x.lid }) with nextLid := c.nextLid + 1 }))

/-- Steps that reading a list of 4,096 commands never exceeds: each fetches at most two slots. -/
def walkFuel : Nat := 3 * 4100

/-- LIST_ADMISSION (R298): the list at the front of a queue in ADMITTING, or of one disabled meanwhile (R284). A command
other than LIST_HEAD where a list must begin is rejected with OPCODE (R268). -/
def execListAdmission (j : JobIx) (e : EngIx) (s : State) : Host.Outcome State Fault Refusal :=
  .next (
    let q := s.queue j e
    if !s.runs j || !(q.state == .admitting || q.admitPend) || (s.reckoner j).isNone then s
    else match (q.held.head?).filter HeldCmd.whole with
      | none => (s.fetchOne j e).getD s
      | some h =>
        if !h.isHead && q.admitPend then s.modQ j e (fun q => { q with admitPend := false })
        else if !h.isHead then s.reject j e 1 h.bytes
        else match State.walk j e walkFuel 0 0 [] s with
          | .later => s
          | .faulted s => s
          | .length s l => s.rejectList j e 2 0 (firstCharged l) none
          | .whole s l =>
            if 4096 < l.length then s.rejectList j e 2 0 (firstCharged l) (some (heldOf l)) else (s.admitted j e l).getD s)

/-! ### Misses (R307 to R311) -/

/-- Ticks of an account kept in clocks. -/
def accountTicks (n : Nat) : Nat := ceilDiv n 44

/-- The cause of a miss and the ticks of its account (R308). -/
def AdmList.missCause (l : AdmList) (accounts : List Nat) : Nat × Nat :=
  let ts := accounts.map accountTicks
  let ovr := (l.deadlineTick - l.acceptTick) - l.adm - ts.foldl (· + ·) 0
  let all := (List.range 7).zip (ts ++ [ovr])
  all.foldl (fun (r : Nat × Nat) p => if r.2 < p.2 then (p.1 + 1, p.2) else r) (1, ts.headD 0)

/-- The command that a DEADLINE record names: one of the list that runs, else its next (R309). -/
def Queue.commandOf (q : Queue) (l : AdmList) : List Byte :=
  match q.inflight.find? (fun f => f.list == some l.lid) with
  | some f => f.bytes
  | none => (q.held.headD ⟨[], 0, none⟩).bytes

/-- DEADLINE_MISS (R307): the first list of a queue that has passed its deadline tick and is not complete. -/
def execDeadlineMiss (j : JobIx) (e : EngIx) (s : State) : Host.Outcome State Fault Refusal :=
  .next (
    let c := s.ctx j
    let q := s.queue j e
    match q.lists.find? (fun l => !l.missed && decide (l.deadlineTick ≤ s.tick)) with
    | none => s
    | some l =>
      if c.state != .opened then s
      else
        let mine := q.inflight.filter (fun f => f.list == some l.lid)
        let upNow := (mine.flatMap (fun f => s.lostBy j e f)).foldl (fun q p => q.accrue (some l.lid) p.1 p.2) (q.accrueWait s.tick)
        let l' := (upNow.lists.find? (fun x => x.lid == l.lid)).getD l
        let seen := q.lists.foldl (fun l x => l.behind x s.tick) l'
        let (cause, ticks) := l.missCause seen.accounts
        let s := s.drawn
        let abandon := c.rknCfg.bit 8
        let b := q.commandOf l
        let unit := unitId 1 ((s.reckoner j).getD 0).val 6 0
        let torn := abandon && c.updStarted.contains l.firstStep
        let s := s.modQ j e (fun q => { q with
          lists := modFirst (fun x => x.lid == l.lid) (fun x => { x with
            missed := true
            late := !abandon
            cause := cause }) q.lists })
        let s := s.modCtx j (fun c => { c with
          miss := (if c.miss.bit 7 then c.miss ||| Word.flag torn 9 ||| Word.flag abandon 8
            else (c.miss.field 31 16 |> fun n => Word.at' n 16 ||| Word.flag torn 9 ||| Word.flag abandon 8 ||| Word.flag true 7 |||
              Word.at' e.val 4 ||| Word.at' cause 0)).bump 31 16 1
          missStep := if c.miss.bit 7 then c.missStep else l.firstStep })
        let rec' : ErrRec := { blankRec unit 0x2C (if abandon then 2 else 1) with
          job := some j.val
          opcode := opcodeOf b
          cmd := cmdId b
          step := l.firstStep
          syndrome := [BitVec.ofNat 8 cause, BitVec.ofNat 8 e.val, 0, 0, 0, 0, 0, 0] ++ leBytes 8 ticks }
        if abandon then
          let s := s.faultCtx j { faultOf e 0x2C 1 (homeOf c).val unit b with step := l.firstStep }
          ((s.record rec').raise (128 + j.val)).raise (64 + j.val)
        else ((s.record rec').setStatus j jsLate).raise (128 + j.val))

end Sys2Proof.Machine
end

