-- ==== Sys2Proof/Machine/Assayer.lean ====
section
/-! DEFINITION. The Assayer: tests that fall due, migrations and verdicts (R440 to R446); tallies and their publication
(R447, R448); and the record ring's configuration (R451). -/

namespace Sys2Proof.Machine

/-! ### Units that the Assayer takes out of service (Table 14-4) -/

/-- Whether a unit is a tile, bank, vector unit or copy channel. -/
def testable (w : Word) : Bool := unitExists w && (unitName w).dieType == 1 && 1 ≤ (unitName w).cls && (unitName w).cls ≤ 4

/-- D in ticks. -/
def testTicks (cls : Nat) : Nat := if cls ≤ 2 then 540000000 else 54000000

/-- FRACTION as it acts: a value outside ASY_LIMIT acts as the nearer limit (Table 14-10). -/
def Asy.effective (a : Asy) : Nat := Nat.max a.min (Nat.min a.max a.fraction)

/-- Ticks from the start of a passing test to the next due time (R441). -/
def State.dueAfter (s : State) (cls : Nat) : Nat := testTicks cls * 200 / max 1 s.asy.effective

/-- How many units of a kind a C-die tests at once (R441). -/
def State.testLimit (s : State) (cls : Nat) : Nat := ceilDiv (classSize 1 0 cls * s.asy.effective) 200

def State.testOf (s : State) (w : Word) : TestState :=
  let u := unitName w
  let c := s.cdies[cdieOf u]
  match u.cls with
  | 1 => (c.tiles[Fin.ofNat 136 u.ix]).test
  | 2 => (c.banks[Fin.ofNat 51 u.ix]).test
  | 3 => (c.vus[Fin.ofNat 16 u.ix]).test
  | _ => (c.cps[Fin.ofNat 16 u.ix]).test

def State.modTest (s : State) (w : Word) (f : TestState → TestState) : State :=
  let u := unitName w
  s.modCDie (cdieOf u) (fun c =>
    match u.cls with
    | 1 => c.modTile (Fin.ofNat 136 u.ix) (fun t => { t with test := f t.test })
    | 2 => c.modBank (Fin.ofNat 51 u.ix) (fun b => { b with test := f b.test })
    | 3 => { c with vus := upd c.vus (Fin.ofNat 16 u.ix) (fun x => { x with test := f x.test }) }
    | _ => { c with cps := upd c.cps (Fin.ofNat 16 u.ix) (fun x => { x with test := f x.test }) })

/-- The tests in progress that count against R441's limit: those that no fence called for (R443). -/
def CDie.testsNow (c : CDie) (cls : Nat) : Nat :=
  match cls with
  | 1 => (c.tiles.toList.filter (fun t => (t.state == .underTest || t.state == .migrating) && !t.test.unfencing)).length
  | 2 => (c.banks.toList.filter (fun b => b.state == .underTest && !b.test.unfencing)).length
  | 3 => (c.vus.toList.filter (fun u => u.state == .underTest && !u.test.unfencing)).length
  | _ => (c.cps.toList.filter (fun u => u.state == .underTest && !u.test.unfencing)).length

def State.mayTest (s : State) (d : CIx) (cls : Nat) : Bool := decide ((s.cdies[d]).testsNow cls < s.testLimit cls)

def TestState.begin (t : TestState) (now : Nat) : TestState :=
  { t with
    testStart := now
    due := false
    deferredSince := none
    unfencing := false }

def SimpleUnit.begin (u : SimpleUnit) (now : Nat) : SimpleUnit := { u with state := .underTest, test := u.test.begin now }

/-! ### Tests that begin (R441 to R445) -/

/-- A due tile: a spare is tested without migration; a gated tile is woken, and with a service tile the spare that will
take over (R444). -/
def State.tileDue (s : State) (d : CIx) (t : TileIx) : State :=
  let c := s.cdies[d]
  let wake := fun (s : State) (t : TileIx) =>
    s.modTile d t (fun x => if x.state == .off then { x with state := .waking } else x)
  let x := c.tiles[t]
  if x.role == .spare then
    if x.state == .idle && s.mayTest d 1 then
      s.modTile d t (fun x => { x with state := .underTest, test := x.test.begin s.tick })
    else wake s t
  else
    match c.spareTile with
    | some h => wake (wake s t) h
    | none => wake s t

/-- A due bank: a spare is tested as it stands; another's contents and position go to a spare bank, or leave service
with it where none is free (R442). -/
def State.bankDue (s : State) (d : CIx) (b : Fin 51) : State :=
  let c := s.cdies[d]
  let start := fun s : State => s.modCDie d (fun c => c.modBank b (fun x => { x with
    state := .underTest
    pos := none
    test := x.test.begin s.tick }))
  if !s.mayTest d 2 then s
  else match c.banks[b].pos, (if c.banks[b].state == .spare then none else c.spareBank) with
    | some p, some h => (start s).modCDie d (fun c => c.modBank h (fun x => { x with state := .inService, pos := some p }))
    | some p, none => (start s).losePosition d.val p
    | none, _ => start s

/-- A unit's test falls due (R441). Vector units and copy channels are withdrawn at once: no work item is under way
between commands. -/
def State.testDue (s : State) (w : Word) : State :=
  let u := unitName w
  let d := cdieOf u
  let t := s.testOf w
  let st := s.unitStat w
  if !testable w || !(st == 0 || st == 5) || s.tick < t.passStart + s.dueAfter u.cls then s
  else
    let s := s.modTest w (fun t => { t with due := true })
    match u.cls with
    | 1 => s.tileDue d (Fin.ofNat 136 u.ix)
    | 2 => s.bankDue d (Fin.ofNat 51 u.ix)
    | 3 => if s.mayTest d 3 then
        s.modCDie d (fun c => { c with vus := upd c.vus (Fin.ofNat 16 u.ix) (fun x => x.begin s.tick) }) else s
    | _ => if s.mayTest d 4 then
        s.modCDie d (fun c => { c with cps := upd c.cps (Fin.ofNat 16 u.ix) (fun x => x.begin s.tick) }) else s

/-- The slack of every admitted list with work on a C-die's Loom is at least 25 ticks (R445). -/
def State.slackOn (s : State) (k : Nat) : Bool :=
  let ls := s.listsOn k
  ls.all (fun d => decide (s.tick + ((ls.filter (fun x => x.1 ≤ d.1)).map (·.2)).foldl (· + ·) 0 + 25 ≤ d.1))

/-- A command boundary (R444): the tile holds no pass, and no block of it waits to be written. -/
def State.atBoundary (s : State) (d : CIx) (t : TileIx) : Bool :=
  let x := s.cdies[d].tiles[t]
  (x.state == .idle || x.state == .running) && s.passes.all (fun p => !(p.die == d.val && p.tile == some t.val)) &&
  s.blocks.all (fun b => !(b.die == d.val && b.tile == some t.val && !b.finished))

/-- The jobs whose work a migration takes off a tile: that of its newest command (R179). -/
def Tile.worker (t : Tile) : List Nat := (t.job.toList ++ (t.tally.head?.map (·.job)).toList).eraseDups

/-- A tile migrates (R442, R444): it drains, and a spare holds its role; without one the die loses it for the test. -/
def State.migrate (s : State) (d : CIx) (t : TileIx) : State :=
  let heir := (s.cdies[d]).spareTile
  let s := s.unbind d.val t.val
  let s := s.modTile d t (fun x => { x with
    state := .migrating
    role := if heir.isSome then .spare else x.role
    migrated := x.worker
    job := none
    test := x.test.begin s.tick })
  match heir with
  | some h => s.modTile d h (fun x => { x with role := .service, state := if x.state == .off then .waking else x.state })
  | none => s

/-- A boundary of a due tile (R445): it migrates with slack or after 120 s of deferral, and is deferred else. -/
def State.boundary (s : State) (d : CIx) (t : TileIx) : State :=
  let x := s.cdies[d].tiles[t]
  let late := decide (x.test.passStart + s.dueAfter 1 + 3000000000 ≤ s.tick)
  if !x.test.due || x.role != .service || !s.atBoundary d t || !s.mayTest d 1 then s
  else if s.slackOn d.val || late then s.migrate d t
  else if x.test.deferredSince.isSome then s
  else
    (s.modTile d t (fun x => { x with test := { x.test with deferredSince := some s.tick } })).modAsy
      (fun a => { a with deferred := satAdd 0xFFFF a.deferred 1 })

/-- ASSAYER_TEST_DUE (R441). -/
def execAssayerTestDue (unit : Word) (s : State) : Host.Outcome State Fault Refusal := .next (s.testDue unit)

/-- TILE_MIGRATION (R444, R445). -/
def execTileMigration (d : CIx) (t : TileIx) (s : State) : Host.Outcome State Fault Refusal := .next (s.boundary d t)

/-- ASSAYER_DEFER_LIMIT (R445): 120 s after its due time a tile migrates whatever the slack. -/
def execAssayerDeferLimit (unit : Word) (s : State) : Host.Outcome State Fault Refusal :=
  .next (
    let u := unitName unit
    let t := s.testOf unit
    if testable unit && u.cls == 1 && decide (t.passStart + s.dueAfter 1 + 3000000000 ≤ s.tick) then
      s.boundary (cdieOf u) (Fin.ofNat 136 u.ix)
    else s)

/-! ### Tallies (R447, R448) -/

def TallyEntry.bytes (e : TallyEntry) : List Byte :=
  leBytes 4 e.cmd.toNat ++ leBytes 4 e.step.toNat ++ [BitVec.ofNat 8 (e.job % 64 + e.level % 4 * 64), 0, 0, 0] ++
  leBytes 4 e.passes

/-- The 66,560 bytes of a publication (Table 14-6). -/
def Tile.publication (t : Tile) (w : Word) (fail : Nat) (seq : Word) : List Byte :=
  let first := (List.range 64).flatMap (fun j =>
    match t.first.find? (fun f => f.job == j) with
    | some f => leBytes 8 (f.step.toNat + 2 ^ 32)
    | none => List.replicate 8 0)
  let head := leBytes 4 w.toNat ++ leBytes 2 t.tally.length ++ [if t.wrapped then 1 else 0, 0] ++
    leBytes 8 t.test.passEnd ++ leBytes 8 fail ++ leBytes 4 seq.toNat ++ List.replicate 36 0 ++ first ++ List.replicate 448 0
  let body := t.tally.reverse.flatMap TallyEntry.bytes
  head ++ body ++ List.replicate (65536 - body.length) 0

/-- The slot of the next publication: the first one from NEXT on that is not unread. -/
def Flt.slotFree (f : Flt) : Option Nat :=
  ((List.range 8).map (fun k => (f.nextSlot + k) % 8)).find? (fun k => !f.unread.testBit k)

/-- Tiles that hold a publication for lack of a slot. -/
def State.heldTallies (s : State) : List (CIx × TileIx) :=
  (List.finRange 4).flatMap (fun d =>
    ((List.finRange 136).filter (fun t => (s.cdies[d].tiles[t]).holding.isSome)).map (fun t => (d, t)))

/-- A tile's tally published into the next slot, or kept in the tile (R448). -/
def State.publish (s : State) (d : CIx) (t : TileIx) (fail : Nat) (seq : Word) : State :=
  let w := unitId 1 d.val 1 t.val
  match s.flt.slotFree with
  | none => (s.modTile d t (fun x => { x with holding := some (fail, seq) })).setCond 325 true
  | some k =>
    let s := writeMem s none (s.flt.tallyBase + 66560 * k) ((s.cdies[d].tiles[t]).publication w fail seq) .stream false
    let s := s.modTile d t (fun x => { x with holding := none })
    s.setFlt (fun f => { f with
      unread := f.unread ||| 2 ^ k
      nextSlot := (k + 1) % 8
      slots := f.slots.filter (fun x => x.1 != k) ++ [(k, w)] })

/-- UNREAD bits written with 1 cleared, and the publications that waited for a slot made. -/
def State.releaseSlots (s : State) (mask : Nat) : State :=
  let s := s.setFlt (fun f => { f with
    unread := f.unread &&& (255 - mask % 256)
    slots := f.slots.filter (fun x => !mask.testBit x.1) })
  let s := s.heldTallies.foldl (fun s p =>
    match s.flt.slotFree, (s.cdies[p.1].tiles[p.2]).holding with
    | some _, some (fail, seq) => s.publish p.1 p.2 fail seq
    | _, _ => s) s
  s.setCond 325 (s.heldTallies != [])

/-- TALLY_SLOT_RELEASE (R448, R452). -/
def execTallySlotRelease (_rq : Requester) (mask : Word) (s : State) : Host.Outcome State Fault Refusal :=
  .next (s.releaseSlots mask.toNat)

/-! ### Verdicts (R435, R447, R448) -/

/-- Tiles of a C-die that hold the service role. -/
def CDie.serving (c : CDie) : Nat := (c.tiles.toList.filter (fun t => t.role == .service)).length

/-- The lowest scratchpad position that no bank serves. -/
def CDie.openPos (c : CDie) : Option Nat := (List.range 48).find? (fun p => !c.banks.any (fun b => b.pos == some p))

def TestState.passed (t : TestState) (now : Nat) : TestState :=
  { t with
    passStart := t.testStart
    passEnd := now
    due := false
    deferredSince := none
    unfencing := false }

def Tile.passed (t : Tile) (now : Nat) (role : UnitRole) : Tile :=
  { t with
    state := .idle
    role := role
    job := none
    idleSince := now
    tally := []
    wrapped := false
    first := []
    migrated := []
    test := t.test.passed now }

/-- A unit back in the role the Assayer gives it: service where the die lacks a unit, spare else (R31, R442). -/
def CDie.passed (c : CDie) (cls ix now : Nat) : CDie :=
  match cls with
  | 1 =>
    let t : TileIx := Fin.ofNat 136 ix
    let role := if c.tiles[t].role == .service || c.serving < 128 then UnitRole.service else .spare
    c.modTile t (fun x => x.passed now role)
  | 2 =>
    let p := c.openPos
    c.modBank (Fin.ofNat 51 ix) (fun b => { b with
      state := if p.isSome then .inService else .spare
      pos := p
      test := b.test.passed now })
  | 3 => { c with vus := upd c.vus (Fin.ofNat 16 ix) (fun x => { x with state := .inService, test := x.test.passed now }) }
  | _ => { c with cps := upd c.cps (Fin.ofNat 16 ix) (fun x => { x with state := .inService, test := x.test.passed now }) }

/-- ASSAYER_TEST_PASS (R435, R447). -/
def execAssayerTestPass (unit : Word) (s : State) : Host.Outcome State Fault Refusal :=
  .next (
    let u := unitName unit
    if !testable unit || s.unitStat unit != 4 then s
    else
      let back := (s.testOf unit).unfencing
      let s := s.modCDie (cdieOf u) (fun c => c.passed u.cls u.ix s.tick)
      let s := s.modAsy (fun a => { a with cnt := a.cnt.bump 31 16 1 })
      if back then s.unfenceRec unit true else s)

/-- ASSAYER_TEST_FAIL (R448): the unit fenced, its tally published, the record written, the event raised. -/
def execAssayerTestFail (unit : Word) (f : TestFailure) (s : State) : Host.Outcome State Fault Refusal :=
  .next (
    let u := unitName unit
    if !testable unit || s.unitStat unit != 4 then s
    else
      let s := s.modAsy (fun a => { a with cnt := if f.stress then a.cnt.bump 15 8 1 else a.cnt.bump 7 0 1 })
      let s := s.fenceUnit unit 1
      let s := if u.cls == 1 then
          s.publish (cdieOf u) (Fin.ofNat 136 u.ix) s.tick (BitVec.ofNat 32 (nextSeqNo s.flt.seq))
        else s
      let s := s.record { blankRec unit 0x47 1 with
        syndrome := [if f.stress then 2 else 1, if f.stress then 1 else 0] ++ leBytes 2 f.pattern ++ f.digest.take 8 }
      s.raise 324)

/-! ### The record ring (R450, R451) -/

/-- Whether a ring of `n` bytes lies wholly in stack memory, one scratchpad window or one host window (R451). -/
def ringPlace (a n : Nat) : Bool :=
  decide (a + n ≤ 0x012000000000) ||
  (List.range 4).any (fun k => decide (0x080000000000 + k * 0x10000000 ≤ a) &&
    decide (a + n ≤ 0x080000000000 + k * 0x10000000 + 0x0C000000)) ||
  (List.range 2).any (fun k => decide (0x0C0000000000 + k * 2 ^ 40 ≤ a) && decide (a + n ≤ 0x0C0000000000 + (k + 1) * 2 ^ 40))

def ringSizeAddr : Nat := regBase + 0x20008
def ringTailAddr : Nat := regBase + 0x20010

/-- Event 320 follows HEAD and TAIL (Table 15-1). -/
def State.ringLevel (s : State) : State := s.setCond 320 (s.flt.head != s.flt.tail)

/-- A write of FLT_RING_SIZE (R451). -/
def State.ringSize (s : State) (rq : Requester) (v : Word) : State :=
  let f := s.flt
  let lg := v.field 4 0
  if f.ringEn then s.setFlt (fun f => { f with ringEn := v.bit 31 })
  else
    let s := s.setFlt (fun f => { f with ringLog2 := lg })
    if !v.bit 31 then s
    else if 6 ≤ lg && lg ≤ 20 && ringPlace f.ringBase (64 * 2 ^ lg) then
      (s.setFlt (fun f => { f with
        ringEn := true
        head := 0
        tail := 0 })).ringLevel
    else s.regAccess rq ringSizeAddr 4

/-- A write of FLT_RING_TAIL (R451). -/
def State.ringTail (s : State) (rq : Requester) (v : Word) : State :=
  if v.field 19 0 < 2 ^ s.flt.ringLog2 then (s.setFlt (fun f => { f with tail := v.field 19 0 })).ringLevel
  else s.regAccess rq ringTailAddr 4

/-- RING_ENABLE (R451): a write of FLT_RING_SIZE that sets ENABLE. -/
def execRingEnable (rq : Requester) (v : Word) (s : State) : Host.Outcome State Fault Refusal :=
  .next (s.ringSize rq (v.setField 31 31 1))

/-- RING_DISABLE (R451): a write of FLT_RING_SIZE that clears ENABLE and leaves LOG2 as it reads. -/
def execRingDisable (rq : Requester) (s : State) : Host.Outcome State Fault Refusal :=
  .next (s.ringSize rq (Word.at' s.flt.ringLog2 0))

/-- RING_TAIL_WRITE (R451). -/
def execRingTailWrite (rq : Requester) (v : Word) (s : State) : Host.Outcome State Fault Refusal := .next (s.ringTail rq v)

end Sys2Proof.Machine
end

