-- ==== Sys2Proof/Machine/Events.lean ====
section
/-! DEFINITION. The event controller's registers and the sources of events (R455 to R463). -/

namespace Sys2Proof.Machine

def evcAddr (off : Nat) : Nat := regBase + 0x10000 + off

/-- The events that the bits of word `k` name. -/
def wordEvents (k : Fin 32) (v : Word) : List Nat := ((List.range 32).filter (fun i => v.bit i)).map (fun i => 32 * k.val + i)

/-- A register word whose bit `i` tells something of event 32k + i (R467). -/
def eventWord (k : Fin 32) (p : Nat → Bool) : Word :=
  BitVec.ofNat 32 (((List.range 32).map (fun i => if p (32 * k.val + i) then 2 ^ i else 0)).foldl (· + ·) 0)

/-- Pending bits of edge events set by software (R457). -/
def Evc.setPend (v : Evc) (l : List Nat) : Evc :=
  { v with pend := (l.filter (fun e => !levelEvent e && !neverPends e)).foldl (fun p e => insertNat e p) v.pend }

/-- Pending bits of edge events cleared by software (R457). -/
def Evc.clearPend (v : Evc) (l : List Nat) : Evc := { v with pend := v.pend.filter (fun e => !l.contains e) }

/-- Mask bits of word `k` set or cleared; those of reserved numbers stay (R455). -/
def Evc.setMask (v : Evc) (k : Fin 32) (w : Word) : Evc :=
  { v with mask := upd v.mask k (fun m => m ||| (w &&& eventWord k (fun e => !reservedEvent e))) }

def Evc.clearMask (v : Evc) (k : Fin 32) (w : Word) : Evc :=
  { v with mask := upd v.mask k (fun m => m &&& ~~~ (w &&& eventWord k (fun e => !reservedEvent e))) }

/-- EVC_CLAIM (R461, R462). -/
def State.claim (s : State) (t : Fin 3) (c : Fin 2) : State :=
  match s.evc.lowest t c with
  | none => ({ s with evc := { s.evc with spurious := satAdd 0xFFFF s.evc.spurious 1 } }).answer (.word 1023)
  | some e =>
    (s.evUpdate (fun v => { v with
      pend := eraseNat e v.pend
      insvc := upd v.insvc (bankIx t c) (fun _ => some e) })).answer (.word (BitVec.ofNat 32 e))

/-- EVC_COMPLETE (R463). -/
def State.complete (s : State) (t : Fin 3) (c : Fin 2) (v : Word) : State :=
  if s.evc.insvc[bankIx t c] == some (v.field 9 0) then
    s.evUpdate (fun x => { x with insvc := upd x.insvc (bankIx t c) (fun _ => none) })
  else { s with evc := { s.evc with badComplete := satAdd 0xFFFF s.evc.badComplete 1 } }

/-- A write of an event controller register that needs a right (R467, R519). -/
def State.evcWrite (s : State) (rq : Requester) (need : Right) (addr : Nat) (old v : Word) (now : State → State) : State :=
  s.privileged rq need addr (s.auditRec rq .regWrite 0 addr old.toNat v.toNat) (.regWrite addr v) now

/-- EVENT_SOURCE_ASSERT (R456). Software events have no source (Table 15-1). -/
def execEventSourceAssert (e : EventNo) (s : State) : Host.Outcome State Fault Refusal :=
  .next (if levelEvent e.val then s.setCond e.val true else if 960 ≤ e.val then s else s.raise e.val)

/-- EVENT_SOURCE_WITHDRAW (R456): it acts on a level event. -/
def execEventSourceWithdraw (e : EventNo) (s : State) : Host.Outcome State Fault Refusal := .next (s.setCond e.val false)

/-- EVC_PEND_SET (R457). -/
def execEvcPendSet (rq : Requester) (k : Fin 32) (v : Word) (s : State) : Host.Outcome State Fault Refusal :=
  .next (s.evcWrite rq .evcPending (evcAddr (4 * k.val)) 0 v (fun s => s.evUpdate (fun x => x.setPend (wordEvents k v))))

/-- EVC_PEND_CLR (R457). -/
def execEvcPendClr (rq : Requester) (k : Fin 32) (v : Word) (s : State) : Host.Outcome State Fault Refusal :=
  .next (s.evcWrite rq .evcPending (evcAddr (0x80 + 4 * k.val)) 0 v
    (fun s => s.evUpdate (fun x => x.clearPend (wordEvents k v))))

/-- EVC_MASK_SET (R459). -/
def execEvcMaskSet (rq : Requester) (k : Fin 32) (v : Word) (s : State) : Host.Outcome State Fault Refusal :=
  .next (s.evcWrite rq .evcMasks (evcAddr (0x100 + 4 * k.val)) s.evc.mask[k] v
    (fun s => s.evUpdate (fun x => x.setMask k v)))

/-- EVC_MASK_CLR (R459). -/
def execEvcMaskClr (rq : Requester) (k : Fin 32) (v : Word) (s : State) : Host.Outcome State Fault Refusal :=
  .next (s.evcWrite rq .evcMasks (evcAddr (0x180 + 4 * k.val)) s.evc.mask[k] v
    (fun s => s.evUpdate (fun x => x.clearMask k v)))

/-- EVC_CLAIM (R461): a read of the claim register, which every requester may read (R467). -/
def execEvcClaim (_rq : Requester) (t : Fin 3) (c : Fin 2) (s : State) : Host.Outcome State Fault Refusal :=
  .next (s.claim t c)

/-- EVC_COMPLETE (R463). -/
def execEvcComplete (rq : Requester) (t : Fin 3) (c : Fin 2) (v : Word) (s : State) : Host.Outcome State Fault Refusal :=
  .next (s.evcWrite rq (.evcBank t.val) (evcAddr (0x1004 + 0x200 * t.val + 0x100 * c.val)) 0 v (fun s => s.complete t c v))

end Sys2Proof.Machine
end

