-- ==== Sys2Proof/Machine/Images.lean ====
section
/-! DEFINITION. Configuration images (R520 to R524), what an image loads (R466, R511, R527), firmware slots (R539) and
the end of a session (R519). -/

namespace Sys2Proof

/-! ### Checks of an image -/

def sectionIds : List Nat := [1, 2, 3, 4, 5, 6, 0x10, 0x11, 0x12, 0x13, 0x20, 0x21]

/-- Sections in the file without overlap, each after the header table and before the signature. -/
def sectionsApart : List SectionHdr → Bool
  | [] => true
  | x :: l => l.all (fun y => decide (x.offset + x.size ≤ y.offset) || decide (y.offset + y.size ≤ x.offset)) && sectionsApart l

/-- Each section of Table 18-5 once (R522); the key sections have the sizes that Table 18-5 gives them. -/
def Image.sectionsOk (i : Image) : Bool :=
  sectionIds.all (fun n => (i.sections.filter (fun x => x.id == n)).length == 1) && i.sections.length == 12 &&
  i.sections.all (fun x => 320 ≤ x.offset && x.offset + x.size + 1280 ≤ i.length) && sectionsApart i.sections &&
  i.sections.all (fun x => (x.id != 0x20 || x.size == 3073) && (x.id != 0x21 || x.size == 7172))

/-- Values within the maker limits (Table 18-3). -/
def ImageBody.withinLimits (b : ImageBody) : Bool :=
  b.peak ≤ 4000 && b.sustLimit ≤ 3600 && 80 ≤ b.t1 && b.t1 < b.t2 && b.t2 < b.t3 && b.t3 < b.tcrit && b.tcrit ≤ 105 &&
  b.fenceLimit ≤ 25000000 && b.throttle < b.alert && b.alert ≤ 105 && 1 ≤ b.asyMin && b.asyMax ≤ 25 &&
  b.rknCfg.field 7 0 ≤ 100

/-- Fields within the ranges of their registers' chapters. -/
def ImageBody.inRange (b : ImageBody) : Bool :=
  1 ≤ b.extent.x && b.extent.x ≤ 16 && 1 ≤ b.extent.y && b.extent.y ≤ 16 && 1 ≤ b.extent.z && b.extent.z ≤ 16 &&
  b.coord.x < b.extent.x && b.coord.y < b.extent.y && b.coord.z < b.extent.z && b.member < 64 &&
  b.portEnable.length == 6 && b.serLimit < 65536 && b.split ≤ 96 && b.routes.all (fun r => r.1 < 1024 && r.2 < 16) &&
  b.unmasked.all (fun e => e < 1024) && 115200 ≤ b.consoleRate && b.consoleRate ≤ 3000000 && b.mgmtRole ≤ 2 &&
  b.sustStart < 65536 && b.ceLimit < 16 && b.period < 256 && 1 ≤ b.fraction && b.fraction ≤ 25 && b.asyMin ≤ b.asyMax &&
  b.leaseGrace < 2 ^ 32 && b.operatorKeys.length == 4

end Sys2Proof

namespace Sys2Proof.Machine

/-- The header (Table 18-4, R524). -/
def imageHeaderOk (i : Image) (c : Cfg) : Bool :=
  i.magic == 0x4A514346 && i.format == 1 && i.nsect == 12 && i.length ≤ 1048576 && 1280 ≤ i.length && i.serial < 2 ^ 32 &&
  i.part == 0x412 && i.stepMask.testBit 2 && i.headerReservedZero &&
  (i.moduleDigest.all (fun b => b == 0) || i.moduleDigest == c.moduleDigest)

/-- The signatures, in the order of R523. -/
def imageVerifies (i : Image) (c : Cfg) : Bool := c.makerKeyOk && i.body.installerKeyOk && i.sigOk

/-- What R524 finds: 0 valid, 3 invalid, 4 beyond a maker limit (the LAST_RESULT codes of Table 18-9). -/
def imageCheck (i : Image) (c : Cfg) : Nat :=
  if !(imageVerifies i c && imageHeaderOk i c && i.sectionsOk && i.body.inRange) then 3
  else if !i.body.withinLimits then 4 else 0

/-! ### What an image loads -/

/-- The event controller's routes, groups and masks (R466); reserved numbers keep their mask bits. -/
def Evc.load (v : Evc) (b : ImageBody) : Evc :=
  { v with
    routes := Vector.ofFn (fun (n : Fin 128) => BitVec.ofNat 32 (((List.range 8).map (fun i =>
      ((b.routes.find? (fun r => r.1 == 8 * n.val + i)).map (·.2)).getD 0 * 16 ^ i)).foldl (· + ·) 0))
    groupEn := b.groupEn
    mask := Vector.ofFn (fun (k : Fin 32) => eventWord k (fun e => reservedEvent e || !b.unmasked.contains e)) }

/-- THERM: stack and C-die thresholds. -/
def State.loadTherm (s : State) (b : ImageBody) : State :=
  { s with
    sdies := s.sdies.map (fun (d : SDie) => { d with
      t1 := b.t1
      t2 := b.t2
      t3 := b.t3
      tcrit := b.tcrit
      fenceLimit := b.fenceLimit })
    pwr := { s.pwr with
      throttle := b.throttle
      alert := b.alert } }

/-- MEMCARE: CE_LIMIT and PERIOD. -/
def State.loadMemcare (s : State) (b : ImageBody) : State :=
  { s with sdies := s.sdies.map (fun (d : SDie) => { d with ceLimit := b.ceLimit, period := b.period }) }

/-- What every cold start and warm reset loads into the dies from the image in force (R511). -/
def State.loadDies (s : State) : State :=
  let b := s.cfg.inForce
  let s := (s.loadTherm b).loadMemcare b
  { s with
    ctxs := s.ctxs.map (fun (c : Ctx) => { c with
      cfg := b.ctxCfg
      rowCfg := b.rowCfg
      fbCfg := b.fbCfg
      stormCfg := b.stormCfg
      rknCfg := b.rknCfg })
    sdies := s.sdies.map (fun (d : SDie) => { d with split := b.split }) }

/-- The image in force loaded at the end of phase 1 (R466, R511). -/
def State.loadImage (s : State) (i : Image) : State :=
  let b := i.body
  let s := { s with cfg := { s.cfg with inForce := b, serial := i.serial } }
  let s := s.loadDies
  let s := { s with
    ldies := Vector.ofFn (fun (l : Fin 3) => { s.ldies[l] with
      coord := b.coord
      member := b.member
      proxy := b.proxy
      serLimit := b.serLimit
      ports := Vector.ofFn (fun (p : Fin 2) => { s.ldies[l].ports[p] with
        enabledByImage := b.portEnable.getD (2 * l.val + p.val) false }) })
    pwr := { s.pwr with
      peak := b.peak
      sustLimit := b.sustLimit
      sustained := b.sustStart }
    asy := { s.asy with
      fraction := b.fraction
      min := b.asyMin
      max := b.asyMax }
    flt := { s.flt with grace := b.leaseGrace }
    con := { s.con with rate := b.consoleRate } }
  let s := s.modReq .mgmt (fun r => { r with
    sess := if b.mgmtRole = 0 then .none else .opened
    role := Role.ofCode b.mgmtRole })
  let s := s.evUpdate (fun v => v.load b)
  s.setCond 302 (b.group != 0 && !b.proxy)

/-! ### Stores in force (R529, R530, R539) -/

/-- The valid copy of the active partition with the higher generation. -/
def Cfg.active (c : Cfg) : Option (Nat × Image) :=
  match c.copies[0], c.copies[1] with
  | some (a, m), some (b, n) => if m < n then some (1, b) else some (0, a)
  | some (a, _), none => some (0, a)
  | none, some (b, _) => some (1, b)
  | none, none => none

/-- Whether a slot's firmware may run: IMAGE mark, the maker's signature and an SVN of at least MIN_SVN. -/
def FwSlot.valid (w : FwSlot) (minSvn : Nat) : Bool :=
  w.imageMark && w.fw.any (fun f => f.sigOk && decide (minSvn ≤ f.svn))

/-- The slot that phase 1 boots: the higher generation among those with a BOOT mark that have not failed to boot. -/
def Cfg.bootSlot (c : Cfg) (failed : List Nat) : Option Nat :=
  let ok := fun k : Fin 2 => (c.fw[k]).valid c.minSvn && (c.fw[k]).bootMark && !failed.contains k.val
  match ok 0, ok 1 with
  | true, true => if (c.fw[0]).generation < (c.fw[1]).generation then some 1 else some 0
  | true, false => some 0
  | false, true => some 1
  | false, false => none

/-! ### The end of a session (R519) -/

/-- A session ends; its writes stand, and what is pending is applied. -/
def State.endSession (s : State) (rq : Requester) : State :=
  let r := s.reqOf rq
  if r.sess == .opened then
    let s := s.note rq .sessionEnd 0 rq.code.val r.role.code 0
    s.modReq rq (fun r => { r with
      sess := .none
      role := .none
      keySlot := 0 })
  else if r.sess == .verifying then
    s.modReq rq (fun r => { r with
      sess := .none
      role := .none
      keySlot := 0 })
  else s

def allRequesters : List Requester := [.hostA, .hostB, .coreA, .coreB, .mgmt, .console, .jtag]

end Sys2Proof.Machine
end

