-- ==== Sys2Proof/Machine/Power.lean ====
section
/-! DEFINITION. Power, clocks and resets (chapter 17): the alert (R501), rails and phases (R494 to R496), operating points
(R498 to R500), emergency off (R502), idle states (R506, R507), resets (R509) and start-up (R511, R512). -/

namespace Sys2Proof.Machine

/-! ### The alert (R501) -/

/-- The alert bands of Table 17-1, in 10 mV. -/
def inBand (volt : Nat) : Bool := (5400 ≤ volt && volt < 5600) || (7200 < volt && volt ≤ 7600)

/-- A converter or P-die phase is lost beyond its spares (R494). -/
def Power.phasesShort (p : Power) : Bool :=
  3 ≤ p.phase && (p.conv < 10 || p.pPhases[0] < 22 || p.pPhases[1] < 22 || p.pPhases[2] < 14)

/-- THROTTLE and THERM of PWR_STATE (R499, Table 17-11). -/
def State.throttled (s : State) : Bool := s.cdies.any (fun (d : CDie) => d.powerOp != 0)
def State.therm (s : State) : Bool := s.cdies.any (fun (d : CDie) => d.thermOp != 0)

/-- Whether a condition of R501 holds. -/
def State.alertNow (s : State) : Bool :=
  inBand s.pwr.volt || s.throttled || s.pwr.hotDies != [] || s.pwr.phasesShort || s.pwr.orderFlt != 0

/-- PWR_ALERT follows its conditions (event 327). -/
def State.settleAlert (s : State) : State := s.setCond 327 s.alertNow

/-- The pin ALERT_N (R501, Table 17-5). -/
def State.alertN (s : State) : Bool := !(s.evc.cond.contains 327 || s.pwr.state == .emergency)

/-! ### Dies without power, and the resets of Table 17-8 -/

/-- Every context FREE, with nothing of any job left in the module. -/
def State.dropJobs (s : State) : State :=
  { s with
    ctxs := Vector.replicate 64 Reset.ctx
    blocks := []
    passes := []
    cpr := none
    cols := []
    far := []
    flt := { s.flt with leases := [] }
    mem := { s.mem with
      waiting := [] } }

/-- The conditions of the stacks' events withdrawn. -/
def Evc.coolStacks (v : Evc) : Evc := { v with cond := v.cond.filter (fun e => e < 280 || 292 ≤ e) }

/-- The I/O, core and analogue families off: every die but the M-die loses its registers, every memory its contents. What
the flash holds stays (R495, R509). -/
def State.railsDown (s : State) : State :=
  let s := s.dropJobs
  let s := { s with
    cdies := s.cdies.map (fun (d : CDie) => { Reset.cdie with vnom := d.vnom })
    sdies := s.sdies.map (fun (d : SDie) => { Reset.sdie with
      tables := d.committed
      committed := d.committed
      commitGen := d.commitGen })
    ldies := s.ldies.map (fun (d : LDie) => { Reset.ldie with
      coord := d.coord
      member := d.member
      proxy := d.proxy
      serLimit := s.cfg.inForce.serLimit
      ports := d.ports.map (fun (p : Port) => { Reset.port with enabledByImage := p.enabledByImage }) })
    hdies := Vector.replicate 2 Reset.hdie
    mem := { Reset.mem with
      host := s.mem.host
      hostBad := s.mem.hostBad }
    pwr := { s.pwr with
      good := s.pwr.good % 4
      conv := 0
      pPhases := Vector.replicate 3 0
      pwrGood := false
      opHold := Vector.replicate 2 0
      hotDies := [] }
    evc := s.evc.coolStacks }
  (([Requester.hostA, .hostB]).foldl State.endSession s.loadDies).settleAlert

/-- A cold start (R509): every register to its Reset value; the tick counter and the management port only when the input
is applied. The flash stays; the image is read in phase 1. -/
def State.coldReset (s : State) (input : Bool) : State :=
  let s := s.railsDown
  { s with
    tick := if input then 0 else s.tick
    pwr := { Reset.power with
      phase := if input then 0 else 1
      good := s.pwr.good
      startTick := if input then Vector.replicate 6 0 else upd (Vector.replicate 6 0) 0 (fun _ => s.tick)
      pwrEn := s.pwr.pwrEn
      vref := s.pwr.vref || input
      thermtripN := s.pwr.thermtripN
      volt := s.pwr.volt
      curr := s.pwr.curr }
    evc := Reset.evc
    flt := Reset.flt
    asy := ⟨4, true, 1, 25, 0, 0⟩
    cfg := { s.cfg with
      inForce := Reset.imageBody
      serial := 0
      stagedValid := false
      transferOpen := false
      pendingCold := false
      lastResult := 0
      fwSlot := 0
      activating := none
      adopting := false }
    sec := { s.sec with
      auditRefused := 0
      auditFail := false
      unlocked := false
      pending := [] }
    req := Vector.replicate 7 Reset.reqState
    cores := #v[⟨.active, none, false, false⟩, ⟨.standby, none, false, false⟩]
    mgmt := if input then ⟨none, 0, false, false, false, []⟩ else s.mgmt
    con := ⟨false, [], 0, 0, 0, 115200⟩
    jtag := ⟨.idcode⟩
    rsp := .none }

/-- What a warm reset leaves of a tile or another tested unit: its role and its fence stand (R431); a test ends without
verdict. -/
def Tile.warm (t : Tile) : Tile :=
  { Reset.tile with
    state := if t.state == .fenced || (t.state == .underTest && t.test.unfencing) then .fenced else .off
    role := t.role
    test := { noTest t.test with unfencing := false }
    holding := t.holding
    tally := if t.holding.isSome then t.tally else []
    wrapped := t.holding.isSome && t.wrapped
    first := if t.holding.isSome then t.first else [] }

def SimpleUnit.warm (u : SimpleUnit) : SimpleUnit :=
  { u with state := if u.state == .underTest then (if u.test.unfencing then .fenced else .inService) else u.state
           test := noTest u.test }

def Bank.warm (b : Bank) : Bank :=
  let back := if b.pos.isSome then UnitState.inService else .spare
  { b with state := if b.state == .underTest then (if b.test.unfencing then .fenced else back)
             else if b.state == .draining || b.state == .armed then .fenced else b.state
           test := noTest b.test }

def CDie.warm (c : CDie) : CDie :=
  { Reset.cdie with
    powered := c.powered
    held := c.held
    tiles := c.tiles.map Tile.warm
    banks := c.banks.map Bank.warm
    vus := c.vus.map SimpleUnit.warm
    cps := c.cps.map SimpleUnit.warm
    vnom := c.vnom
    op := c.op
    powerOp := c.powerOp
    thermOp := c.thermOp
    temp := c.temp
    thermSince := c.thermSince
    coolSince := c.coolSince
    wakeEnd := c.wakeEnd }

/-- An S-die's logic reset with its stack left trained and its repair tables kept. -/
def SDie.warm (d : SDie) : SDie := { d.dieReset with state := d.state, tables := d.tables, coolSince := d.coolSince }

/-- What an L-die keeps of jobs that are no more: system streams and the traffic of other modules (R406). -/
def LDie.warm (d : LDie) : LDie :=
  { d with
    streams := d.streams.filter (·.sys)
    leases := d.leases.filter (·.sys) }

/-- A requester's latches and its selections return to their reset values (R5, R11). -/
def ReqState.warm (r : ReqState) : ReqState :=
  { r with
    readLatch := []
    writeLatch := []
    tileSel := 0
    rknSel := 0
    routeLock := false }

/-- A module warm reset (Table 17-8). -/
def State.warmReset (s : State) : State :=
  let cond := s.evc.cond
  let s := s.dropJobs
  let s := ([Requester.hostA, .hostB, .console]).foldl State.endSession s
  let s := { s with
    cdies := s.cdies.map CDie.warm
    sdies := s.sdies.map SDie.warm
    ldies := s.ldies.map LDie.warm
    hdies := s.hdies.map (fun (d : HDie) => { Reset.hdie with
      held := d.held
      port := d.port.warm })
    mem := { Reset.mem with
      host := s.mem.host
      hostBad := s.mem.hostBad }
    cores := Vector.ofFn (fun (k : Fin 2) => if s.cores[k].fenced then s.cores[k]
      else ⟨if k = 0 || s.cores[0].fenced then .active else .standby, none, false, false⟩)
    cfg := { s.cfg with activating := none }
    evc := { Reset.evc with cond := cond }
    req := s.req.map ReqState.warm }
  (s.loadDies).evUpdate (fun v => v.load s.cfg.inForce)

/-- The work of a C-die's engines goes to other C-dies (R285, R496). -/
def State.recut (s : State) (n : CIx) : State :=
  let s := s.recutLoom n
  { s with far := s.far.map (fun (r : FarRun) =>
      let j : JobIx := Fin.ofNat 64 r.job
      match s.flight j 2 r.fid with
      | some f => if r.die == n.val then { r with die := (((s.diesOf j 2 f.bytes).filter (fun d => d != n)).head?.getD n).val } else r
      | none => r) }

/-- A C-die's compute islands reset (Table 17-8): work in flight is discarded and issued again, the scratchpad window
reads poisoned until written. -/
def State.resetCDie (s : State) (n : CIx) : State :=
  let s := ((s.engineReset (.loom n)).engineReset (.vec n)).engineReset (.cpy n)
  let s := s.modCDie n (fun c => { c.warm with
    ctxs := c.ctxs
    scaleCnt := c.scaleCnt })
  { s with mem := { s.mem with
    padPoison := Ranges.put s.mem.padPoison (padKey n.val 0 / 64) (padKey n.val 0x0C000000 / 64) } }

/-- An L-die reset: what stands in its router is lost (R408), and its ports train again. -/
def State.resetLDie (s : State) (l : LIx) : State :=
  let s := s.setFlt (fun f => { f with
    leases := f.leases.filter (fun x => !(x.kind == 2 && (unitName x.unit).die == l.val)) })
  let s := s.modLDie l (fun d => { Reset.ldie with
    held := d.held
    coord := d.coord
    member := d.member
    proxy := d.proxy
    serLimit := s.cfg.inForce.serLimit
    ports := d.ports
    streams := d.streams
    router := if d.held then .forwarding else .training })
  let s := s.modLDie l (fun d => { d with ports := d.ports.map (fun (p : Port) => { p with retry := [] }) })
  let s := (List.finRange 2).foldl (fun s p =>
    let st := (s.port l p).state
    if s.ldies[l].held then s.portTo l p .off
    else if st == .off || st == .fenced then s else s.portTrain l p) s
  s.routerSettle l

/-- A host port in reset (R479). -/
def State.resetHDie (s : State) (h : HIx) : State :=
  let s := s.modHDie h (fun d => { d.portReset with
    linkUp := false
    inReset := true
    speed := 0
    width := 0
    flit := false })
  s.endSession (Requester.ofPort h)

/-- The M-die's logic reset, its always-on registers kept: the event controller, the service cores, the sessions. -/
def State.resetMDie (s : State) : State :=
  let s := allRequesters.foldl (fun s rq => if rq == .mgmt then s else s.endSession rq) s
  let s := { s with
    cores := #v[⟨.active, none, false, false⟩, ⟨.standby, none, false, false⟩]
    cfg := { s.cfg with activating := none }
    evc := { Reset.evc with cond := s.evc.cond } }
  s.evUpdate (fun v => v.load s.cfg.inForce)

/-- DIE_RESET (R509). -/
def execDieReset (d : DieName) (s : State) : Host.Outcome State Fault Refusal :=
  .next (match d with
    | .c n => s.resetCDie n
    | .s st => s.resetSDie st
    | .l l => s.resetLDie l
    | .h h => s.resetHDie h
    | .m => s.resetMDie)

/-! ### Rails and phases (R494 to R496) -/

/-- The module goes to SAFE with a cause (Table 17-7). -/
def State.toSafe (s : State) (cause : Nat) : State :=
  s.railsDown.setPwr (fun p => { p with
    state := .safe
    safeCause := cause })

def State.degrade (s : State) : State := s.setPwr (fun p => { p with degraded := true })

/-- The unit that a rail's record names (R496). -/
def railUnit (rail : Nat) : Word :=
  match rail with
  | 3 => unitId 6 0 0x51 0 | 4 => unitId 6 0 0x51 1 | 5 => unitId 6 1 0x51 0 | 6 => unitId 6 1 0x51 1
  | 7 => unitId 6 2 0x51 0 | 8 => unitId 6 2 0x51 1 | 9 => unitId 6 2 0x51 2
  | _ => unitId 5 0 0x45 0

/-- A record of a rail or a phase: the spec gives it no CODE, so that one is free. -/
def State.powerRec (s : State) (unit : Word) : State :=
  s.drawn.record (blankRec unit (s.free % 256) 1)

/-- What a rail out of order does to the dies it feeds (Table 17-3). -/
def State.railEffect (s : State) (rail : Nat) : State :=
  match rail with
  | 0 | 1 => s
  | 2 | 7 | 10 => s.toSafe 3
  | 8 =>
    let s := s.degrade
    (List.finRange 3).foldl (fun s l => (s.modLDie l (fun d => { d with held := true })).resetLDie l) s
  | 9 =>
    let s := s.degrade
    (List.finRange 2).foldl (fun s h => (s.modHDie h (fun d => { d with held := true })).resetHDie h) s
  | 11 =>
    let s := s.degrade
    let s := (List.finRange 3).foldl (fun s l => (List.finRange 2).foldl (fun s p =>
      if (s.port l p).state == .off && !(s.port l p).enabledByImage then s else s.portDead l p) s) s
    (List.finRange 2).foldl State.resetHDie s
  | n =>
    let d : CIx := Fin.ofNat 4 (n - 3)
    let s := s.degrade
    ((s.modCDie d (fun c => { c with held := true })).resetCDie d).recut d

/-- A rail is out of order (R496). -/
def State.railOut (s : State) (rail : Nat) : State :=
  let s := s.setPwr (fun p => { p with
    orderFlt := p.orderFlt ||| 2 ^ rail
    good := p.good &&& (4095 - 2 ^ rail)
    pwrGood := false })
  ((s.powerRec (railUnit rail)).railEffect rail).settleAlert

/-- Rails are up: start-up has come to phase 2, and no emergency or SAFE has taken them down. -/
def State.railsUp (s : State) : Bool :=
  s.pwr.state == .starting || s.pwr.state == .active || s.pwr.state == .idle || s.pwr.state == .deepIdle

/-- RAIL_FAULT (R496). A fault of an always-on rail only keeps PWR_GOOD low. -/
def execRailFault (rail : Fin 12) (s : State) : Host.Outcome State Fault Refusal :=
  .next (if s.railsUp && !s.pwr.orderFlt.testBit rail.val then s.railOut rail.val else s)

/-- The holds that lost P-die phases cause (R494): the OP of the C-dies that P-dies 0 and 1 feed, which the spec leaves to
the currents, and the stacks' bandwidth. -/
def State.phaseHolds (s : State) : State :=
  let two := (List.finRange 2).foldl (fun (s : State) (k : Fin 2) =>
    if (if k = 0 then s.pwr.pPhases[0] else s.pwr.pPhases[1]) < 22 then
      let hold := s.free % 5
      let s := s.drawn
      let s := s.setPwr (fun p => { p with opHold := upd p.opHold k (fun _ => hold) })
      (List.finRange 4).foldl (fun s d =>
        if d.val / 2 = k.val then s.modCDie d (fun c => { c with powerOp := max c.powerOp hold }) else s) s
    else s) s
  let hold := if s.pwr.pPhases[2] < 12 then 2 else if s.pwr.pPhases[2] < 14 then 1 else 0
  { two with sdies := two.sdies.map (fun (d : SDie) => { d with powerHold := hold }) }

/-- CONVERTER_PHASE_FAIL (R494): switched out, recorded, the limits scaled below ten. -/
def execConverterPhaseFail (k : Fin 12) (s : State) : Host.Outcome State Fault Refusal :=
  .next (
    if s.pwr.conv = 0 then s
    else ((s.setPwr (fun p => { p with conv := p.conv - 1 })).powerRec (unitId 5 0 0x46 k.val)).settleAlert)

/-- REGULATOR_PHASE_FAIL (R494). -/
def execRegulatorPhaseFail (pdie : Fin 3) (k : Nat) (s : State) : Host.Outcome State Fault Refusal :=
  .next (
    if s.pwr.pPhases[pdie] = 0 || classSize 6 pdie.val 0x50 ≤ k then s
    else
      ((s.setPwr (fun p => { p with pPhases := upd p.pPhases pdie (fun n => n - 1) })).phaseHolds).settleAlert)

/-! ### Limiter and temperature (R498 to R500) -/

/-- PEAK and SUSTAINED as they act: the installer's limit, scaled by the converter's good phases (R494, R514). -/
def Power.scaled (p : Power) (w : Nat) : Nat := if 3 ≤ p.phase && p.conv < 10 then w * p.conv / 10 else w
def Power.peakNow (p : Power) : Nat := p.scaled p.peak
def Power.sustainedNow (p : Power) : Nat := p.scaled (min p.sustained p.sustLimit)

/-- Every C-die's demand one OP down. -/
def State.stepAllDown (s : State) : State :=
  { s with cdies := s.cdies.map (fun (d : CDie) => { d with powerOp := min 4 (d.powerOp + 1) }) }

/-- A reading of the long average; one that does not lie below 95 % of SUSTAINED ends the wait for a step up (R499). -/
def State.longAverage (s : State) (avg : Nat) : State :=
  s.setPwr (fun p => { p with
    avg10 := avg
    stepUpSince := if avg * 100 < p.sustainedNow * 95 then p.stepUpSince else s.tick })

/-- LIMITER_PEAK_STEP (R499): `avg` is the average over 25 ticks, in W. -/
def execLimiterPeakStep (avg : Nat) (s : State) : Host.Outcome State Fault Refusal :=
  .next (
    let s := s.setPwr (fun p => { p with avg1u := avg })
    if s.railsUp && decide (s.pwr.peakNow < avg) then
      ((s.setPwr (fun p => { p with throttleCnt := p.throttleCnt.bump 15 0 1 })).stepAllDown).settleAlert
    else s)

/-- LIMITER_SUSTAINED_STEP (R499): `avg` is the average over 10 ms. -/
def execLimiterSustainedStep (avg : Nat) (s : State) : Host.Outcome State Fault Refusal :=
  .next (
    let s := s.longAverage avg
    if s.railsUp && decide (s.pwr.sustainedNow < avg) then
      ((s.setPwr (fun p => { p with throttleCnt := p.throttleCnt.bump 31 16 1 })).stepAllDown).settleAlert
    else s)

/-- LIMITER_STEP_UP (R499): 250,000 ticks below 95 % of SUSTAINED; a P-die's hold stays. -/
def execLimiterStepUp (avg : Nat) (s : State) : Host.Outcome State Fault Refusal :=
  .next (
    let s := s.longAverage avg
    if decide (avg * 100 < s.pwr.sustainedNow * 95) && decide (s.pwr.stepUpSince + 250000 ≤ s.tick) then
      let hold := fun (n : Nat) => if n < 2 then s.pwr.opHold[0] else s.pwr.opHold[1]
      let s := s.setPwr (fun p => { p with stepUpSince := s.tick })
      ({ s with cdies := Vector.ofFn (fun (n : Fin 4) =>
        { s.cdies[n] with powerOp := max (hold n.val) (s.cdies[n].powerOp - 1) }) }).settleAlert
    else s)

/-- The hot dies of R501 after a reading of one of them. -/
def State.heat (s : State) (unit : Word) (temp : Int) : State :=
  (s.setPwr (fun p => { p with
    hotDies := if (p.alert * 16 : Nat) ≤ temp then (if p.hotDies.contains unit then p.hotDies else unit :: p.hotDies)
      else p.hotDies.filter (fun u => u != unit) })).settleAlert

/-- A reading of a C-die's hottest sensor, in 1/16 °C (R500). -/
def State.readHottest (s : State) (d : CIx) (temp : Int) : State :=
  let cool := decide (temp < ((s.pwr.throttle * 16 : Nat) : Int) - 80)
  (s.modCDie d (fun c => { c with
    temp := temp
    coolSince := if cool then some (c.coolSince.getD s.tick) else none })).heat (unitId 1 d.val 0 0) temp

/-- CDIE_THERMAL_STEP_DOWN (R500): one OP every 25,000 ticks at or above THROTTLE. -/
def execCdieThermalStepDown (d : CIx) (temp : Int) (s : State) : Host.Outcome State Fault Refusal :=
  .next (
    let s := s.readHottest d temp
    let c := s.cdies[d]
    if (s.pwr.throttle * 16 : Nat) ≤ temp then
      if c.thermOp == 0 || decide (c.thermSince + 25000 ≤ s.tick) then
        s.modCDie d (fun c => { c with
          thermOp := min 4 (c.thermOp + 1)
          thermSince := s.tick })
      else s
    else s)

/-- CDIE_THERMAL_STEP_UP (R500): 25,000 ticks below THROTTLE less 5 °C. -/
def execCdieThermalStepUp (d : CIx) (temp : Int) (s : State) : Host.Outcome State Fault Refusal :=
  .next (
    let s := s.readHottest d temp
    if (s.cdies[d]).coolSince.any (fun t => decide (t + 25000 ≤ s.tick)) then
      s.modCDie d (fun c => { c with
        thermOp := c.thermOp - 1
        coolSince := some s.tick })
    else s)

/-- OP_CHANGE_DONE (R498): one OP towards the lower of the two demands. -/
def execOpChangeDone (d : CIx) (s : State) : Host.Outcome State Fault Refusal :=
  .next (s.noteSlow.modCDie d (fun c =>
    let want := max c.powerOp c.thermOp
    { c with op := if c.op < want then c.op + 1 else if want < c.op then c.op - 1 else c.op }))

/-! ### Emergency off (R502) -/

/-- An emergency off starts (Table 17-5): the event, the pins, the routers' drains. The dies but the L-dies lose power. -/
def State.emergency (s : State) (trip : Bool) : State :=
  if s.pwr.state == .off || s.pwr.state == .emergency then s
  else
    let s := s.raise 328
    let s := s.setPwr (fun p => { p with
      state := .emergency
      emergencyAt := s.tick
      pwrGood := false
      thermtripN := p.thermtripN && !trip })
    let s := (List.finRange 3).foldl State.routerDrain s
    { s.railsDown with ldies := s.ldies.map LDie.warm }

/-- BROWN_OUT (R502): `volt` in 10 mV. -/
def execBrownOut (volt : Nat) (s : State) : Host.Outcome State Fault Refusal :=
  .next (
    let s := (s.setPwr (fun p => { p with volt := volt })).settleAlert
    if volt < 5400 then s.emergency false else s)

/-- OVER_VOLTAGE (R502). -/
def execOverVoltage (volt : Nat) (s : State) : Host.Outcome State Fault Refusal :=
  .next (
    let s := (s.setPwr (fun p => { p with volt := volt })).settleAlert
    if 7600 < volt then s.emergency false else s)

/-- THERMAL_TRIP (R500, R502): a logic die or a stack reads `temp`, in 1/16 °C. -/
def execThermalTrip (unit : Word) (temp : Int) (s : State) : Host.Outcome State Fault Refusal :=
  .next (
    let u := unitName unit
    let s := match u.dieType with
      | 1 => s.readHottest (cdieOf u) temp
      | 2 => s.modSDie (sdieOf u) (fun d => { d with temp := temp })
      | _ => s.heat unit temp
    if (s.pwr.trip * 16 : Nat) ≤ temp then s.emergency true else s)

/-- EMERGENCY_OFF_END (Table 17-5): 625,000 ticks on, the always-on rails fall. -/
def execEmergencyOffEnd (s : State) : Host.Outcome State Fault Refusal :=
  .next (
    if s.pwr.state == .emergency && decide (s.pwr.emergencyAt + 625000 ≤ s.tick) then
      (s.coldReset false).setPwr (fun p => { p with
        state := .off
        phase := 0
        good := 0 })
    else s)

/-- The input applied: the always-on rails good at tick 0 (R503, R506). -/
def State.inputApplied (s : State) : State := (s.coldReset true).setPwr (fun p => { p with good := 3 })

/-- ALWAYS_ON_RAILS_GOOD (R506): the input was removed, which releases THERMTRIP_N (R502), and is applied again. -/
def execAlwaysOnRailsGood (s : State) : Host.Outcome State Fault Refusal :=
  .next (if s.pwr.state == .off then s.inputApplied.setPwr (fun p => { p with thermtripN := true }) else s)

/-- INPUT_RESTART (Table 17-1, R502): `volt` in 10 mV for 100 ms, PWR_EN high, no thermal trip latched. -/
def execInputRestart (volt : Nat) (s : State) : Host.Outcome State Fault Refusal :=
  .next (
    if s.pwr.state == .off && 5700 ≤ volt && s.pwr.pwrEn && s.pwr.thermtripN then
      s.inputApplied.setPwr (fun p => { p with volt := volt })
    else s)

/-! ### Start-up (R511, R512) -/

/-- A host-group member or proxy opens its system streams (R409). The spec does not give where the others of the group
stand, so that is free. -/
def State.openSystem (s : State) : State :=
  let b := s.cfg.inForce
  if b.group = 0 then s
  else
    let others := if b.proxy then (List.range 64).filter (fun m => m != b.member && s.free.testBit m)
      else [s.free % 64]
    let s := s.drawn
    let s := others.foldl (fun (s : State) m =>
      let f := s.free
      let l : LIx := Fin.ofNat 3 m
      let x : SrcStream := ⟨0, m, ⟨f % 16, f / 16 % 16, f / 256 % 16⟩, 0, 0, true, 0, 0, s.tick, [], [], false⟩
      s.drawn.modLDie l (fun d => { d with streams := d.streams ++ [x] })) s
    s.setCond 302 false

/-- Phase 2 begins where PWR_EN allows it. -/
def State.beginRails (s : State) : State :=
  if s.pwr.phase == 2 && s.pwr.pwrEn && s.pwr.state == .standby then
    s.setPwr (fun p => { p with state := .starting })
  else s

/-- A phase ends at this tick. -/
def State.endPhase (s : State) : State :=
  s.setPwr (fun p => { p with
    startTick := upd p.startTick (Fin.ofNat 6 p.phase) (fun _ => s.tick)
    phase := p.phase + 1 })

/-- Phase 1 (R490, R523, R539): firmware, then the image. -/
def State.phaseImage (s : State) (failed : List Nat) : State :=
  let s := { s with cfg := { s.cfg with bootCount := (s.cfg.bootCount + 1) % 2 ^ 32 } }
  match s.cfg.bootSlot failed with
  | none => s.toSafe 2
  | some k =>
    let s := { s with cfg := { s.cfg with fwSlot := k } }
    match s.cfg.active with
    | none => s.toSafe 1
    | some (n, i) =>
      if imageCheck i s.cfg != 0 then s.toSafe 1
      else
        (({ s with cfg := { s.cfg with activeCopy := n } }).loadImage i).endPhase.beginRails

/-- Phase 2 (R495, R512): the rails in their windows, the good phases, the host links; the stacks begin to train. -/
def State.phaseRails (s : State) (r : PhaseReport) : State :=
  let s := { s with
    cdies := s.cdies.map (fun (d : CDie) => { d with powered := true })
    sdies := s.sdies.map (fun (d : SDie) => { d with held := false, state := .training })
    ldies := s.ldies.map (fun (d : LDie) => { d with held := false })
    hdies := Vector.ofFn (fun (h : Fin 2) =>
      let sp := r.hostSpeed.getD h.val 0
      { s.hdies[h] with
        held := false
        inReset := false
        linkUp := sp != 0
        speed := sp % 7
        width := r.hostWidth.getD h.val 0
        flit := sp == 6 }) }
  let s := s.endPhase.setPwr (fun p => { p with
    good := r.rails &&& 4095
    conv := min 12 (r.phases.getD 0 0)
    pPhases := #v[min 24 (r.phases.getD 1 0), min 24 (r.phases.getD 2 0), min 16 (r.phases.getD 3 0)]
    pwrGood := true })
  let s := s.phaseHolds
  let bad := (rangeFrom 2 10).filter (fun k => !r.rails.testBit k)
  (bad.foldl (fun s k => if s.pwr.state == .safe then s else s.railOut k) s).settleAlert

/-- A remap entry freed with its spare by post-package repair (R338). -/
def RepairTables.freeEntry (t : RepairTables) (m : Remap) : RepairTables :=
  { t with
    remaps := t.remaps.filter (fun x => x != m)
    masks := t.masks.map (fun x =>
      if x.pc == m.row.pc && x.sid == m.row.sid && x.bank == m.row.bank then { x with used := eraseNat m.spare x.used } else x) }

/-- The remap entries of the given places freed. -/
def RepairTables.freed (t : RepairTables) (l : List Nat) : RepairTables :=
  (l.filterMap (fun k => t.remaps[k]?)).foldl RepairTables.freeEntry t

/-- Phase 3 ends: a stack that has not trained is OFFLINE; the ports that the image enables begin to train. -/
def State.phaseStacks (s : State) (freed : List (Nat × Nat)) : State :=
  let s := (List.finRange 12).foldl (fun s st =>
    if s.sdies[st].state == .training then (s.stackOffline st true).degrade else s) s
  let s := { s with sdies := Vector.ofFn (fun (st : Fin 12) =>
    let l := (freed.filter (fun (f : Nat × Nat) => f.1 == st.val)).map (fun (f : Nat × Nat) => f.2)
    { s.sdies[st] with
      tables := s.sdies[st].tables.freed l
      committed := s.sdies[st].committed.freed l }) }
  (List.finRange 3).foldl (fun s l => (List.finRange 2).foldl (fun s p =>
    if s.ldies[l].held || !(s.port l p).enabledByImage || (s.port l p).state == .dead then s else s.portTrain l p) s) s.endPhase

/-- Every testable unit of a C-die goes to its test in phase 5; a tile passes through the states on the way there (Table
3-7, log 139). -/
def CDie.testAll (c : CDie) (now : Nat) : CDie :=
  { c with
    tiles := c.tiles.map (fun (t : Tile) => { t with state := .underTest, test := t.test.begin now })
    banks := c.banks.map (fun (b : Bank) => { b with state := .underTest, test := b.test.begin now })
    vus := c.vus.map (fun u => u.begin now)
    cps := c.cps.map (fun u => u.begin now) }

/-- Phase 4 ends: a port that has not trained is DEAD; the self-test begins. -/
def State.phaseLinks (s : State) : State :=
  let s := (List.finRange 3).foldl (fun s l => (List.finRange 2).foldl (fun s p =>
    if (s.port l p).state == .training then (s.portDead l p).degrade else s) s) s
  let s := s.openSystem
  { s.endPhase with cdies := s.cdies.map (fun c => CDie.testAll c s.tick) }

/-- The roles that the end of the self-test assigns (R31): the lowest 128 good tiles serve; bank p serves position p, and
spares in order the positions of failed banks. -/
def CDie.assign (c : CDie) (now : Nat) : CDie :=
  let good := (List.range 136).filter (fun i => c.tiles[Fin.ofNat 136 i].state != .fenced)
  let first := good.filter (fun i => i < 128)
  let serve := first ++ (good.filter (fun i => 128 ≤ i)).take (128 - first.length)
  let open' := (List.range 48).filter (fun p => c.banks[Fin.ofNat 51 p].state == .fenced)
  let spare := (rangeFrom 48 3).filter (fun b => c.banks[Fin.ofNat 51 b].state != .fenced)
  { c with
    tiles := Vector.ofFn (fun (i : Fin 136) =>
      let t := c.tiles[i]
      if t.state == .fenced then t
      else t.passed now (if serve.contains i.val then .service else .spare))
    banks := Vector.ofFn (fun (i : Fin 51) =>
      let b := c.banks[i]
      if b.state == .fenced then b
      else
        let pos := if i.val < 48 then some i.val else (open'.zip spare).findSome? (fun p => if p.2 = i.val then some p.1 else none)
        { b with
          state := if pos.isSome then .inService else .spare
          pos := pos
          test := b.test.passed now })
    vus := c.vus.map (fun (u : SimpleUnit) => if u.state == .fenced then u else { u with state := .inService, test := u.test.passed now })
    cps := c.cps.map (fun (u : SimpleUnit) => if u.state == .fenced then u else { u with state := .inService, test := u.test.passed now }) }

/-- The module becomes ACTIVE (Table 17-7). -/
def State.toActive (s : State) : State :=
  s.setPwr (fun p => { p with
    state := .active
    busyAt := s.tick })

/-- Phase 5 ends: the units that failed are fenced, spares take their roles, and the module is ready (R512). -/
def State.phaseTest (s : State) (failed : List Word) : State :=
  let bad := failed.filter unitExists
  let s := bad.foldl (fun s w => s.fenceUnit w 1) s
  let s := { s with cdies := s.cdies.map (fun c => CDie.assign c s.tick) }
  let s := if bad == [] then s else s.degrade
  s.endPhase.toActive

/-- The units still under test in phase 5. -/
def State.untested (s : State) : List Word :=
  (List.range 4).flatMap (fun d =>
    ((List.range 136).map (unitId 1 d 1) ++ (List.range 51).map (unitId 1 d 2) ++ (List.range 16).map (unitId 1 d 3) ++
      (List.range 16).map (unitId 1 d 4)).filter (fun w => s.unitStat w == 4))

/-- START_PHASE_DONE (R512). A phase of parallel trainings ends when none of them is under way. -/
def execStartPhaseDone (r : PhaseReport) (s : State) : Host.Outcome State Fault Refusal :=
  .next (match s.pwr.state, s.pwr.phase with
    | .standby, 0 => s.endPhase
    | .standby, 1 => s.phaseImage r.slotsFailed
    | .starting, 2 => s.phaseRails r
    | .starting, 3 => if s.sdies.any (fun (d : SDie) => d.state == .training) then s else s.phaseStacks r.freed
    | .starting, 4 =>
      if s.ldies.any (fun (d : LDie) => d.ports.any (fun (p : Port) => p.state == .training)) then s else s.phaseLinks
    | .starting, 5 => s.phaseTest r.unitsFailed
    | _, _ => s)

/-- The limits of Table 17-10, in ticks. -/
def phaseLimit (k : Nat) : Nat := [500000, 50000000, 5000000, 100000000, 250000000, 625000000].getD k 0

/-- The tick at which the phase in progress began, but for time that PWR_EN was low. -/
def Power.phaseStart (p : Power) : Nat := if p.phase = 0 then 0 else p.startTick[Fin.ofNat 6 (p.phase - 1)]

/-- START_PHASE_TIMEOUT (R512): what has not finished fails as the phase gives. -/
def execStartPhaseTimeout (s : State) : Host.Outcome State Fault Refusal :=
  .next (
    if s.tick < s.pwr.phaseStart + phaseLimit s.pwr.phase then s
    else match s.pwr.state, s.pwr.phase with
    | .standby, 1 => s.toSafe 2
    | .starting, 2 => s.railOut 2
    | .starting, 3 => s.phaseStacks []
    | .starting, 4 => s.phaseLinks
    | .starting, 5 => s.phaseTest s.untested
    | _, _ => s)

/-- PWR_EN_RISE (R509, R510, R512): a cold start, unless phase 1 has passed and waits for PWR_EN. -/
def execPwrEnRise (s : State) : Host.Outcome State Fault Refusal :=
  .next (
    if s.pwr.pwrEn then s
    else
      let s := s.setPwr (fun p => { p with pwrEn := true })
      match s.pwr.state with
      | .standby => if s.pwr.phase == 1 then s.coldReset false else s.beginRails
      | .safe => s.coldReset false
      | _ => s)

/-- PWR_EN_FALL (R510): the rails fall, and the module is STANDBY; an emergency off completes (R502). -/
def execPwrEnFall (s : State) : Host.Outcome State Fault Refusal :=
  .next (
    let s := s.setPwr (fun p => { p with
      pwrEn := false
      pwrGood := false
      thermtripN := true })
    match s.pwr.state with
    | .off | .emergency | .standby => s
    | _ => s.railsDown.setPwr (fun p => { p with
      state := .standby
      phase := 1
      degraded := false
      safeCause := 0 }))

/-- RESET_N (R509, R510): the rising edge. During start-up it only releases the hold before phase 3. -/
def execResetN (s : State) : Host.Outcome State Fault Refusal :=
  .next (match s.pwr.state with
    | .active | .idle | .deepIdle => s.warmReset.toActive
    | _ => s)

/-! ### Idle states (R506, R507) -/

/-- Whether a queue keeps the module awake (R507). -/
def QState.busy : QState → Bool
  | .admitting | .active | .waiting | .draining | .armed => true
  | _ => false

/-- The conditions of R507. -/
def State.restful (s : State) : Bool :=
  s.ctxs.all (fun (c : Ctx) => c.queues.all (fun (q : Queue) => !q.state.busy)) && s.cols == [] && s.cpr.isNone &&
  s.ldies.all (fun (d : LDie) => d.leases.all (fun r => r.held == []))

/-- A stack in NORMAL goes to SELF_REFRESH (Table 10-1). -/
def State.sleepStack (s : State) (st : SIx) : State :=
  if s.sdies[st].state == .normal then s.stackTo st .selfRefresh else s

/-- One tick of the reference clock passes (R313); R507's delay runs while its conditions hold. -/
def State.passTick (s : State) : State :=
  { s with
    tick := s.tick + 1
    pwr := { s.pwr with busyAt := if s.restful then s.pwr.busyAt else s.tick + 1 } }

/-- IDLE_ENTRY (R507): IDLE_DELAY ticks have passed with no work. -/
def execIdleEntry (s : State) : Host.Outcome State Fault Refusal :=
  .next (
    if s.pwr.state == .active && s.pwr.idleCfg.bit 16 && s.restful &&
        decide (s.pwr.busyAt + s.pwr.idleCfg.field 15 0 ≤ s.tick) then
      let s := { s with cdies := s.cdies.map (fun (c : CDie) => { c with
        tiles := c.tiles.map (fun (t : Tile) => if t.state == .idle then { t with state := .off } else t)
        vecAwake := false
        cpyAwake := false }) }
      ((List.finRange 12).foldl State.sleepStack s).setPwr (fun p => { p with
        state := .idle
        idleSince := s.tick })
    else s)

/-- DEEP_IDLE_ENTRY (R507): DEEP_DELAY ms in IDLE, and no OPEN context with a scratchpad region. The islands lose what
the scratchpads hold. -/
def execDeepIdleEntry (s : State) : Host.Outcome State Fault Refusal :=
  .next (
    if s.pwr.state == .idle && s.pwr.idleCfg.bit 16 && s.pwr.idleCfg.bit 17 &&
        decide (s.pwr.idleSince + s.pwr.idleCfg.field 31 24 * 25000 ≤ s.tick) &&
        s.ctxs.all (fun (c : Ctx) => c.state != .opened || c.regions.all (fun r => r.kind != 2)) then
      let s := (List.range 4).foldl (fun (s : State) n => { s with mem := { s.mem with
        padPoison := Ranges.put s.mem.padPoison (padKey n 0 / 64) (padKey n 0x0C000000 / 64) } }) s
      s.setPwr (fun p => { p with state := .deepIdle })
    else s)

/-- A wake trigger (R507): from DEEP_IDLE the compute islands take 1,250 ticks (Table 17-6). -/
def State.wake (s : State) : State :=
  match s.pwr.state with
  | .idle => s.toActive
  | .deepIdle => { s.toActive with cdies := s.cdies.map (fun (c : CDie) => { c with wakeEnd := s.tick + 1250 }) }
  | _ => s

/-- WAKE (R507). -/
def execWake (s : State) : Host.Outcome State Fault Refusal := .next s.wake

end Sys2Proof.Machine
end

