-- ==== Sys2Proof/Machine/Trust.lean ====
section
/-! DEFINITION. Roles and trust (chapter 18): challenges and sessions (R518, R519), the console and the TAP (R491, R492),
adoption (R526, R527), firmware activation (R538), and the hourly doorbell records (R531). -/

namespace Sys2Proof.Machine

def secAddr (off : Nat) : Nat := regBase + 0x40000 + off

/-! ### Challenge and response (R518) -/

/-- A fresh challenge for a requester: 32 bytes that the spec leaves open. -/
def State.newChallenge (s : State) (rq : Requester) : State :=
  let c := freeBytes s.freeCtr 32
  s.drawn.modReq rq (fun r => { r with
    chal := c
    chalLive := true })

/-- SEC_CHALLENGE (R518): a read of SEC_CHAL_0. -/
def State.readChallenge (s : State) (rq : Requester) : State :=
  let s := s.newChallenge rq
  s.answer (.word (BitVec.ofNat 32 (leNat ((s.reqOf rq).chal.take 4))))

def execSecChallenge (rq : Requester) (s : State) : Host.Outcome State Fault Refusal := .next (s.readChallenge rq)

/-- A failed attempt: counted, audited, and the third one locks the requester for 60 s. -/
def State.authFail (s : State) (rq : Requester) : State :=
  let s := s.note rq .authFail 2 rq.code.val 0 0
  let n := (s.reqOf rq).tries + 1
  let s := if 3 ≤ n then s.endSession rq else s
  s.modReq rq (fun r =>
    let r := { r with fails := satAdd 0xFF r.fails 1 }
    if 3 ≤ n then { r with
      sess := .locked
      role := .none
      tries := 0
      lockUntil := s.tick + 1500000000 }
    else { r with
      sess := if r.sess == .verifying then .none else r.sess
      role := if r.sess == .verifying then .none else r.role
      tries := n })

/-- Whether a GO can be verified at all (R518). -/
def State.goodGo (s : State) (rq : Requester) : Bool :=
  let r := s.reqOf rq
  let key := r.authCtrl.field 11 8
  let role := r.authCtrl.field 5 4
  r.chalLive && role != 0 &&
  (role != 1 || (key < 4 && !((s.cfg.inForce.operatorKeys.getD key []).all (fun b => b == 0))))

/-- A GO (R518): only a host port gains a role so (Table 18-1). -/
def State.authGo (s : State) (rq : Requester) : State :=
  if !Requester.isHost rq then s
  else if (s.reqOf rq).sess == .locked then s.note rq .auth 1 rq.code.val 0 0
  else
    let good := s.goodGo rq
    let s := s.modReq rq (fun r => { r with chalLive := false })
    if !good then s.authFail rq
    else
      let s := s.endSession rq
      s.modReq rq (fun r => { r with
        sess := .verifying
        role := Role.ofCode (r.authCtrl.field 5 4)
        keySlot := r.authCtrl.field 11 8 })

/-- A write of SEC_AUTH_CTRL (Table 18-9): KEY and ROLE are kept, END and GO act. -/
def State.authCtrl (s : State) (rq : Requester) (v : Word) : State :=
  let s := s.modReq rq (fun r => { r with authCtrl := v &&& 0xF30#32 })
  let s := if v.bit 1 then s.endSession rq else s
  if v.bit 0 then s.authGo rq else s

/-- AUTH_GO (R518): a write with GO. -/
def execAuthGo (rq : Requester) (v : Word) (s : State) : Host.Outcome State Fault Refusal :=
  .next (s.authCtrl rq (v.setField 0 0 1))

/-- AUTH_VERIFY_DONE (R518). -/
def execAuthVerifyDone (rq : Requester) (ok : Verdict) (s : State) : Host.Outcome State Fault Refusal :=
  .next (
    if (s.reqOf rq).sess != .verifying then s
    else match ok with
      | .pass =>
        let s := s.modReq rq (fun r => { r with
          sess := .opened
          tries := 0 })
        s.note rq .auth 0 rq.code.val 0 (s.reqOf rq).role.code
      | .fail => s.authFail rq)

/-- AUTH_LOCK_EXPIRE (R518). -/
def execAuthLockExpire (rq : Requester) (s : State) : Host.Outcome State Fault Refusal :=
  .next (
    if (s.reqOf rq).sess == .locked && decide ((s.reqOf rq).lockUntil ≤ s.tick) then
      s.modReq rq (fun r => { r with sess := .none })
    else s)

/-- SESSION_END (R519): a write of END. -/
def execSessionEnd (rq : Requester) (s : State) : Host.Outcome State Fault Refusal := .next (s.endSession rq)

/-! ### The console (R491) -/

/-- AUTH (R491): without a signature it prints a challenge, with one it opens a session of the installer or the maker. -/
def execAuth (role : Role) (sig : Option Verdict) (s : State) : Host.Outcome State Fault Refusal :=
  .next (
    if !s.pwr.vref then s
    else
      let s := { s with con := { s.con with lastInput := s.tick } }
      if (s.reqOf .console).sess == .locked then s.note .console .auth 1 5 0 0
      else match sig with
        | none =>
          let c := freeBytes s.freeCtr 32
          ({ s.drawn with con := { s.con with
            chal := c
            chalPending := true } }).answer (.bytes c false)
        | some v =>
          let good := s.con.chalPending && v == .pass && (role == .installer || role == .maker)
          let s := { s with con := { s.con with chalPending := false } }
          if good then
            let s := s.endSession .console
            let s := { s with con := { s.con with tries := 0 } }
            let s := s.modReq .console (fun r => { r with
              sess := .opened
              role := role })
            s.note .console .auth 0 5 0 role.code
          else
            let s := s.note .console .authFail 2 5 0 0
            let n := s.con.tries + 1
            let s := s.modReq .console (fun r => { r with fails := satAdd 0xFF r.fails 1 })
            if n < 3 then { s with con := { s.con with tries := n } }
            else
              let s := (s.endSession .console).modReq .console (fun r => { r with sess := .locked })
              { s with con := { s.con with
                tries := 0
                lockUntil := s.tick + 1500000000 } })

/-- CONSOLE_IDLE_TIMEOUT (R491): 15 minutes without input. -/
def execConsoleIdleTimeout (s : State) : Host.Outcome State Fault Refusal :=
  .next (if s.con.lastInput + 22500000000 ≤ s.tick then s.endSession .console else s)

/-- CONSOLE_BREAK (R491). -/
def execConsoleBreak (s : State) : Host.Outcome State Fault Refusal :=
  .next (if !s.pwr.vref then s
    else ({ s with con := { s.con with chalPending := false, lastInput := s.tick } }).endSession .console)

/-- CONSOLE_LOCK_EXPIRE (R491). -/
def execConsoleLockExpire (s : State) : Host.Outcome State Fault Refusal :=
  .next (
    if (s.reqOf .console).sess == .locked && decide (s.con.lockUntil ≤ s.tick) then
      s.modReq .console (fun r => { r with sess := .none })
    else s)

/-- VREF_3V3_LOSS (R554): the UART is dead and a session ends as by a break. -/
def execVref3v3Loss (s : State) : Host.Outcome State Fault Refusal :=
  .next (
    let s := s.setPwr (fun p => { p with vref := false })
    ({ s with con := { s.con with chalPending := false } }).endSession .console)

/-! ### The TAP (R492) -/

/-- The maker unlock in effect, until the next cold start. -/
def State.unlock (s : State) : State :=
  let s := { s with sec := { s.sec with unlocked := true } }
  s.modReq .jtag (fun r => { r with
    sess := .opened
    role := .maker })

/-- JTAG_UNLOCK (R492): recorded before it takes effect. -/
def execJtagUnlock (token : Verdict) (s : State) : Host.Outcome State Fault Refusal :=
  .next (match token with
    | .pass => s.recorded .jtag .anyone (secAddr 8) (s.auditRec .jtag .jtagUnlock 0 0 0 1) .jtagUnlock State.unlock
    | .fail => s.note .jtag .jtagUnlock 2 0 0 0)

/-- JTAG_INSTRUCTION (R492): before an unlock every instruction but IDCODE acts as BYPASS; after one, what the others do
is not given. -/
def execJtagInstruction (op : JtagOp) (s : State) : Host.Outcome State Fault Refusal :=
  match op with
  | .idcode => .next (({ s with jtag := ⟨.idcode⟩ }).answer (.word 0x204129A5))
  | .bypass => .next ({ s with jtag := ⟨.bypass⟩ })
  | .other _ => if s.sec.unlocked then .refused .debugInstruction else .next ({ s with jtag := ⟨.bypass⟩ })

/-! ### Adoption (R526, R527) -/

/-- The image in force with the LIVE sections of another (Table 18-5). -/
def ImageBody.live (old new : ImageBody) : ImageBody :=
  { old with
    peak := new.peak
    sustLimit := new.sustLimit
    sustStart := new.sustStart
    t1 := new.t1
    t2 := new.t2
    t3 := new.t3
    tcrit := new.tcrit
    fenceLimit := new.fenceLimit
    throttle := new.throttle
    alert := new.alert
    ceLimit := new.ceLimit
    period := new.period
    fbCfg := new.fbCfg
    stormCfg := new.stormCfg
    rowCfg := new.rowCfg
    ctxCfg := new.ctxCfg
    rknCfg := new.rknCfg
    fraction := new.fraction
    asyMin := new.asyMin
    asyMax := new.asyMax
    leaseGrace := new.leaseGrace
    operatorKeys := new.operatorKeys }

/-- The sessions opened with an operator key that changes or empties end (R527). -/
def State.endKeyless (s : State) (old new : List (List Byte)) : State :=
  ([Requester.hostA, .hostB]).foldl (fun s rq =>
    let r := s.reqOf rq
    if r.role == .operator && old.getD r.keySlot [] != new.getD r.keySlot [] then s.endSession rq else s) s

/-- LIVE sections applied (R527). -/
def State.applyLive (s : State) (new : ImageBody) : State :=
  let old := s.cfg.inForce
  let live := ImageBody.live old new
  let s := { s with cfg := { s.cfg with
    inForce := live
    pendingCold := live != new } }
  let s := (s.loadTherm live).loadMemcare live
  let s := { s with
    pwr := { s.pwr with
      peak := new.peak
      sustLimit := new.sustLimit }
    asy := { s.asy with
      min := new.asyMin
      max := new.asyMax }
    flt := { s.flt with grace := new.leaseGrace } }
  s.endKeyless old.operatorKeys new.operatorKeys

/-- Steps 3 to 6 of an adoption (R526): verified again, written to the copy not in force, applied. -/
def State.adoptNow (s : State) (rq : Requester) : State :=
  let s := { s with cfg := { s.cfg with adopting := false } }
  match s.cfg.staged with
  | none => { s with cfg := { s.cfg with lastResult := 3 } }
  | some i =>
    let res := imageCheck i s.cfg
    if res != 0 then ({ s with cfg := { s.cfg with lastResult := res } }).note rq .adopt 2 i.serial s.cfg.serial i.serial
    else
      let gen := match s.cfg.copies[Fin.ofNat 2 s.cfg.activeCopy] with
        | some c => c.2 + 1
        | none => 1
      let o : Fin 2 := Fin.ofNat 2 (s.cfg.activeCopy + 1)
      let s := { s with cfg := { s.cfg with
        copies := upd s.cfg.copies o (fun _ => some (i, gen))
        activeCopy := o.val
        serial := i.serial
        lastResult := 1
        stagedValid := false } }
      (s.applyLive i.body).raise 329

/-- ADOPT (R526): refused with BUSY or NOT_NEWER, else its record is committed first. -/
def State.adopt (s : State) (rq : Requester) : State :=
  let no := fun (code : Nat) =>
    ({ s with cfg := { s.cfg with lastResult := code } }).note rq .adopt 1 0 s.cfg.serial 0
  if s.access rq .adoptRight == .refused then s.regAccess rq (secAddr 0xC) 3
  else if s.cfg.adopting || s.cfg.transferOpen then no 2
  else if !s.cfg.stagedValid then no 5
  else
    let n := (s.cfg.staged.map (fun i => i.serial)).getD 0
    let taken := !s.sec.auditFail && s.sec.pending.length < 64
    let s := { s with cfg := { s.cfg with adopting := taken } }
    s.privileged rq .adoptRight (secAddr 0xC) (s.auditRec rq .adopt 0 n s.cfg.serial n) .adopt (fun s => s.adoptNow rq)

def execAdopt (rq : Requester) (s : State) : Host.Outcome State Fault Refusal := .next (s.adopt rq)

/-! ### Firmware activation (R538) -/

/-- Steps 3 to 6 begin: the standby core is to run the other slot. -/
def State.activateNow (s : State) : State :=
  match (List.finRange 2).find? (fun k => (s.core k).state == .active) with
  | none => s
  | some k =>
    let s := { s with cfg := { s.cfg with activating := some (s.tick, k.val) } }
    s.modCore (otherCore k) (fun c => { c with promoting := true })

/-- ACTIVATE_FW (R538). -/
def State.activateFw (s : State) (rq : Requester) : State :=
  let o := 1 - s.cfg.fwSlot
  if s.access rq .installer == .refused then s.regAccess rq (secAddr 0xC) 3
  else if s.cfg.activating.isSome || !(s.cfg.fw[Fin.ofNat 2 o]).valid s.cfg.minSvn then
    s.note rq .activateFw 1 o s.cfg.fwSlot o
  else
    s.privileged rq .installer (secAddr 0xC) (s.auditRec rq .activateFw 0 o s.cfg.fwSlot o) .activateFw State.activateNow

def execActivateFw (rq : Requester) (s : State) : Host.Outcome State Fault Refusal := .next (s.activateFw rq)

/-- ACTIVATE_FW_TIMEOUT (R538): 250,000 ticks without the new core ACTIVE. -/
def execActivateFwTimeout (s : State) : Host.Outcome State Fault Refusal :=
  .next (match s.cfg.activating with
    | some (t, _) => if t + 250000 ≤ s.tick then s.abortActivation else s
    | none => s)

/-- A write of SEC_CMD (Table 18-9). -/
def State.secCmd (s : State) (rq : Requester) (op : Nat) : State :=
  match op with
  | 1 => s.adopt rq
  | 2 => s.activateFw rq
  | _ => s

/-! ### Doorbells (R531) -/

/-- DOORBELL_AUDIT_TIMER (R531): a record for every context whose count is not zero. -/
def execDoorbellAuditTimer (s : State) : Host.Outcome State Fault Refusal :=
  .next (
    if s.tick < s.sec.lastDoorbell + 90000000000 then s
    else
      let s := { s with sec := { s.sec with lastDoorbell := s.tick } }
      (List.finRange 64).foldl (fun s j =>
        let n := (s.ctx j).doorbells
        if n == 0 then s
        else (s.note .coreA .doorbell 0 j.val 0 n).modCtx j (fun c => { c with doorbells := 0 })) s)

end Sys2Proof.Machine
end

