-- ==== Sys2Proof/Machine/HostPort.lean ====
section
/-! DEFINITION. The host ports (chapter 16): links and resets (R479), the configuration space (R470, R471), MSI-X (R478)
and completions of host reads (R476). -/

namespace Sys2Proof.Machine

/-! ### Links and resets (R479) -/

/-- A port that its H-die can bring up: powered, and not fenced. -/
def HDie.live (d : HDie) : Bool := !d.held && d.port.state != .fenced

/-- HOST_LINK_UP (R479, Table 16-5): `speed` is the code of Table 16-5. -/
def execHostLinkUp (h : HIx) (speed width : Nat) (flit : Bool) (s : State) : Host.Outcome State Fault Refusal :=
  .next (
    if s.railsUp && (s.hdies[h]).live && 1 ≤ speed && speed ≤ 6 && (width == 4 || width == 8 || width == 16) then
      s.modHDie h (fun d => { d with
        linkUp := true
        inReset := false
        speed := speed
        width := width
        flit := flit })
    else s)

/-- FUNCTION_LEVEL_RESET (R479): over when its command ends; the link stays. -/
def execFunctionLevelReset (h : HIx) (s : State) : Host.Outcome State Fault Refusal :=
  .next ((s.modHDie h HDie.portReset).endSession (Requester.ofPort h))

/-- HOT_RESET (R479). -/
def execHotReset (h : HIx) (s : State) : Host.Outcome State Fault Refusal := .next (s.resetHDie h)

/-- HOST_LINK_DOWN (R479): the link is down, and the port in none of the other resets (R476's reason 1). -/
def execHostLinkDown (h : HIx) (s : State) : Host.Outcome State Fault Refusal :=
  .next ((s.resetHDie h).modHDie h (fun d => { d with inReset := s.hdies[h].inReset }))

/-- PERSTH_N (R479). -/
def execPersthN (h : HIx) (s : State) : Host.Outcome State Fault Refusal := .next (s.resetHDie h)

/-! ### MSI-X (R478) -/

/-- The held messages that may leave now leave. -/
def State.flushMsix (s : State) (h : HIx) : State :=
  let d := s.hdies[h]
  if !d.msixEnable then s
  else
    let go := d.pba.filter (fun e => !d.msixMask.contains e)
    let s := s.modHDie h (fun d => { d with pba := d.pba.filter (fun e => d.msixMask.contains e) })
    { s with outs := go.foldl (fun l e => .msix h.val e :: l) s.outs }

/-- An entry of a port's table masked or unmasked. -/
def State.maskMsix (s : State) (h : HIx) (entry : Nat) (b : Bool) : State :=
  if 130 ≤ entry then s
  else
    let s := s.modHDie h (fun d => { d with msixMask := if b then insertNat entry d.msixMask else eraseNat entry d.msixMask })
    s.flushMsix h

/-- MSIX_ENTRY_UNMASK (R478). -/
def execMsixEntryUnmask (h : HIx) (entry : Nat) (s : State) : Host.Outcome State Fault Refusal :=
  .next (s.maskMsix h entry false)

/-! ### Configuration space (R469 to R471)

The places of the registers follow PCIe's own header; the spec gives the values alone (log 60). -/

/-- A register of the configuration space that has been written. -/
def HDie.cfgWord (d : HDie) (reg : Nat) : Word := ((d.cfgSpace.find? (fun p => p.1 == reg)).map (·.2)).getD 0

def HDie.setCfg (d : HDie) (reg : Nat) (v : Word) : HDie :=
  { d with cfgSpace := (reg, v) :: d.cfgSpace.filter (fun p => p.1 != reg) }

/-- The writable bits of the header registers: the command register, and the address bits of the three BARs. -/
def HDie.cfgMask (d : HDie) (reg : Nat) : Word :=
  match reg with
  | 0x04 => 0x00000546
  | 0x10 => 0xFF800000
  | 0x14 | 0x24 => 0xFFFFFFFF
  | 0x18 => BitVec.ofNat 32 (2 ^ 32 - 2 ^ min 32 d.bar2Log2)
  | 0x1C => BitVec.ofNat 32 (2 ^ 32 - 2 ^ (d.bar2Log2 - 32))
  | 0x20 => 0xFF000000
  | _ => 0

/-- The bits of a register that are fixed. -/
def HDie.cfgFixed (d : HDie) (reg : Nat) : Word :=
  match reg with
  | 0x00 => 0x04121F3D
  | 0x04 => 0x00100000
  | 0x08 => 0x12000002
  | 0x10 | 0x20 => 0x4
  | 0x18 => 0xC
  | 0x34 => 0x40
  | 0x40 => 0x00810011 ||| Word.flag d.msixEnable 31
  | 0x44 => 0x00600000
  | 0x48 => 0x00601000
  | 0x100 => 0x00010015
  | 0x104 => 0x03FFC000
  | 0x108 => 0x22 ||| Word.at' (d.bar2Log2 - 20) 8
  | _ => 0

/-- What a configuration read returns. -/
def HDie.cfgRead (d : HDie) (reg : Nat) : Word := d.cfgFixed reg ||| (d.cfgWord reg &&& d.cfgMask reg)

/-- A configuration write: MSI-X Enable, the size of BAR2, or the writable bits of the header. -/
def State.cfgWrite (s : State) (h : HIx) (reg : Nat) (v : Word) : State :=
  match reg with
  | 0x40 => (s.modHDie h (fun d => { d with msixEnable := v.bit 31 })).flushMsix h
  | 0x108 =>
    let n := v.field 13 8
    if 10 ≤ n && n ≤ 21 then s.modHDie h (fun d => { d with bar2Log2 := n + 20 }) else s
  | _ => s.modHDie h (fun d => d.setCfg reg (v &&& d.cfgMask reg))

/-- CONFIGURATION_REQUEST (R470, Table 17-10): Request Retry Status until ready. -/
def execConfigurationRequest (h : HIx) (isWrite : Bool) (reg : Nat) (v : Word) (s : State) :
    Host.Outcome State Fault Refusal :=
  .next (
    if (s.hdies[h]).down then s
    else if !s.ready then s.answer .requestRetry
    else if isWrite then (s.cfgWrite h reg v).answer .none
    else s.answer (.word ((s.hdies[h]).cfgRead reg)))

/-! ### Host memory -/

/-- HOST_WINDOW_READ_COMPLETION (R476): what a read of the host bus at `addr` brings, or that it fails. -/
def execHostWindowReadCompletion (h : HIx) (addr : Nat) (data : List Byte) (ok : Bool) (s : State) :
    Host.Outcome State Fault Refusal :=
  .next (
    let k := hostKey h.val addr
    let lo := k / 64
    let hi := (k + data.length + 63) / 64
    if (s.hdies[h]).down then s
    else if ok then
      { s with mem := { s.mem with
          host := s.mem.host.writeN k data
          hostBad := Ranges.cut s.mem.hostBad lo hi } }
    else { s with mem := { s.mem with hostBad := Ranges.put s.mem.hostBad lo hi } })

end Sys2Proof.Machine
end

