-- ==== Sys2Proof/Machine/Mgmt.lean ====
section
/-! DEFINITION. The management port (R483 to R487): MCTP, PLDM sensors, limits and updates, the vendor-defined reads, and
the SPDM responder with its measurements (R535, R536). -/

namespace Sys2Proof.Machine

/-! ### Codes of states -/

/-- Table 17-7. -/
def PwrState.code : PwrState → Nat
  | .off => 0 | .standby => 1 | .starting => 2 | .active => 3 | .idle => 4 | .deepIdle => 5 | .safe => 6 | .emergency => 7

/-- Table 10-1. -/
def StackState.code : StackState → Nat
  | .off => 0 | .training => 1 | .normal => 2 | .step75 => 3 | .step50 => 4 | .step25 => 5 | .fenced => 6
  | .selfRefresh => 7 | .offline => 8

/-- Table 12-2. -/
def PortState.code : PortState → Nat
  | .off => 0 | .training => 1 | .up => 2 | .retrain => 3 | .draining => 4 | .dead => 5 | .fenced => 6 | .armed => 7

/-- Whether the port answers: in every power state, from 20 ms after the always-on rails came up (R483). -/
def State.mgmtUp (s : State) : Bool := s.pwr.state != .off && decide (500000 ≤ s.tick)

/-! ### MCTP (R483) -/

/-- ENTDAA (R483). -/
def execEntdaa (dynAddr : Nat) (s : State) : Host.Outcome State Fault Refusal :=
  .next (if s.mgmtUp then { s with mgmt := { s.mgmt with dynAddr := some dynAddr } } else s)

/-- The answer to an MCTP control request, after DSP0236 (log 61): its instance, its command, a completion code, and what
the command asks for. -/
def State.mctpAnswer (s : State) (p : List Byte) : State :=
  let cmd := slotField p 1 1
  let out := fun (s : State) (cc : Nat) (d : List Byte) =>
    s.answer (.bytes ([(p.headD 0) &&& 0x1F, BitVec.ofNat 8 cmd, BitVec.ofNat 8 cc] ++ d) false)
  match cmd with
  | 1 =>
    let s := { s with mgmt := { s.mgmt with eid := slotField p 3 1 } }
    out s 0 [0, BitVec.ofNat 8 s.mgmt.eid, 0]
  | 2 => out s 0 [BitVec.ofNat 8 s.mgmt.eid, 0, 0]
  | 4 => out s 0 ([1] ++ [0xF1, 0xF3, 0xF1, 0])
  | 5 => out s 0 [4, 0x00, 0x01, 0x05, 0x7E]
  | _ => out s 5 []

/-- MCTP_CONTROL (R483): a message of another type than the four is dropped. -/
def execMctpControl (m : MctpMessage) (s : State) : Host.Outcome State Fault Refusal :=
  .next (if s.mgmtUp && m.msgType == 0 then s.mctpAnswer m.payload else s)

/-! ### PLDM (R484) -/

def intWord (n : Int) : Word := BitVec.ofInt 32 n

/-- What a sensor reads; sensors that no state of the module shows are free. -/
def State.sensor (s : State) (x : PldmSensor) : Word :=
  match x with
  | .dieTemp 1 d => intWord s.cdies[Fin.ofNat 4 d].temp
  | .dieTemp _ _ => BitVec.ofNat 32 s.free
  | .stackTemp st => intWord s.sdies[st].temp
  | .inputVoltage => BitVec.ofNat 32 s.pwr.volt
  | .inputCurrent => BitVec.ofNat 32 s.pwr.curr
  | .inputPower => BitVec.ofNat 32 s.pwr.avg10
  | .railFamilyPower _ => BitVec.ofNat 32 s.free
  | .moduleState => BitVec.ofNat 32 s.pwr.state.code
  | .stackState st => BitVec.ofNat 32 s.sdies[st].state.code
  | .portState l p => BitVec.ofNat 32 (s.port l p).state.code

/-- PLDM_MONITORING (R484). -/
def execPldmMonitoring (sensor : PldmSensor) (s : State) : Host.Outcome State Fault Refusal :=
  .next (if s.mgmtUp then s.drawn.answer (.word (s.sensor sensor)) else s)

def powerLimitAddr : Nat := regBase + 0x30004

/-- PWR_LIMIT.SUSTAINED written (R514). -/
def State.setSustained (s : State) (w : Nat) : State := s.setPwr (fun p => { p with sustained := w % 65536 })

/-- PLDM_SET_POWER_LIMIT (R484): by the operator or the installer role. -/
def execPldmSetPowerLimit (watts : Nat) (s : State) : Host.Outcome State Fault Refusal :=
  .next (
    if !s.mgmtUp then s
    else if s.access .mgmt .adoptRight == .refused then s.answer (.refused 3)
    else
      s.privileged .mgmt .adoptRight powerLimitAddr (s.auditRec .mgmt .regWrite 0 powerLimitAddr s.pwr.sustained watts)
        (.powerLimit watts) (fun s => s.setSustained watts))

/-- The firmware slot that is not running, written (R539): its BOOT mark cleared first, its IMAGE mark last. -/
def State.writeFirmware (s : State) (fw : Firmware) : State :=
  let o := 1 - s.cfg.fwSlot
  let gen := (s.cfg.fw[Fin.ofNat 2 s.cfg.fwSlot]).generation + 1
  let s := { s with cfg := { s.cfg with
    fw := upd s.cfg.fw (Fin.ofNat 2 o) (fun _ => ⟨some fw, true, false, gen⟩) } }
  s.note .mgmt .fwStage 0 o 0 gen

/-- PLDM_FIRMWARE_UPDATE (R484, R525, R528, R539). -/
def execPldmFirmwareUpdate (u : PldmUpdate) (s : State) : Host.Outcome State Fault Refusal :=
  .next (
    if !s.mgmtUp || !s.flashOk then s
    else match u with
      | .beginImage =>
        if s.access .mgmt .installer == .refused then s.answer (.refused 3)
        else if s.cfg.adopting then s.answer .retryLater
        else ({ s with cfg := { s.cfg with
          transferOpen := true
          staged := none
          stagedValid := false } }).answer .none
      | .imageData img =>
        if s.cfg.transferOpen then ({ s with cfg := { s.cfg with staged := some img } }).answer .none
        else s.answer (.refused 1)
      | .firmware fw =>
        if s.cfg.activating.isSome then s.answer .retryLater
        else if fw.sigOk then (s.writeFirmware fw).answer .none
        else (s.note .mgmt .fwStage 2 (1 - s.cfg.fwSlot) 0 0).answer (.refused 2))

/-- STAGE_CHECK (R525). -/
def execStageCheck (s : State) : Host.Outcome State Fault Refusal :=
  .next (
    if !s.cfg.transferOpen then s
    else
      let s := { s with cfg := { s.cfg with transferOpen := false } }
      match s.cfg.staged with
      | none => ({ s with cfg := { s.cfg with stagedValid := false, lastResult := 3 } }).note .mgmt .stage 2 0 s.cfg.serial 0
      | some i =>
        let res := if imageCheck i s.cfg != 0 then imageCheck i s.cfg else if s.cfg.serial < i.serial then 0 else 5
        let s := { s with cfg := { s.cfg with
          stagedValid := res == 0
          lastResult := if res == 0 then s.cfg.lastResult else res } }
        s.note .mgmt .stage (if res == 0 then 0 else 2) i.serial s.cfg.serial i.serial)

/-! ### Vendor-defined reads (R485) -/

/-- The kept records from a SEQ on, oldest first. -/
def recordsFrom (l : List ErrRec) (seq : Nat) : List ErrRec :=
  match l.findIdx? (fun r => r.seq.toNat == seq) with
  | some i => l.drop i
  | none => l.filter (fun r => decide (seq ≤ r.seq.toNat))

/-- READ_RECORDS (R485). -/
def execReadRecords (seq : Nat) (s : State) : Host.Outcome State Fault Refusal :=
  .next (if s.mgmtUp then
      s.answer (.bytes (((recordsFrom s.flt.recs.reverse seq).take 16).flatMap ErrRec.bytes) false)
    else s)

/-- READ_AUDIT (R485). -/
def execReadAudit (index : Nat) (s : State) : Host.Outcome State Fault Refusal :=
  .next (if s.mgmtUp then
      s.answer (.bytes (((s.sec.log.reverse.filter (fun r => decide (index ≤ r.seq))).take 4).flatMap AuditRec.bytes) false)
    else s)

/-! ### SPDM (R486, R487, after SPDM 1.3: log 62) -/

def State.spdm (s : State) (b : List Byte) : State :=
  ({ s with mgmt := { s.mgmt with transcript := s.mgmt.transcript ++ b } }).answer (.bytes b false)

/-- ERROR: 0x01 InvalidRequest, 0x04 UnexpectedRequest, 0x07 UnsupportedRequest. -/
def State.spdmError (s : State) (code : Nat) : State := s.answer (.bytes [0x13, 0x7F, BitVec.ofNat 8 code, 0] false)

/-- GET_VERSION. -/
def execGetVersion (s : State) : Host.Outcome State Fault Refusal :=
  .next (
    if !s.mgmtUp then s
    else
      let s := { s with mgmt := { s.mgmt with
        versionSeen := true
        capsSeen := false
        algsSeen := false
        transcript := [] } }
      s.spdm ([0x10, 0x04, 0, 0, 0, 1] ++ leBytes 2 0x1300))

/-- GET_CAPABILITIES: CERT_CAP, CHAL_CAP, MEAS_CAP with signature; the sizes and the timeout are free. -/
def execGetCapabilities (s : State) : Host.Outcome State Fault Refusal :=
  .next (
    if !s.mgmtUp then s
    else if !s.mgmt.versionSeen then s.spdmError 4
    else
      let f := freeBytes s.freeCtr 9
      let s := { s.drawn with mgmt := { s.mgmt with capsSeen := true } }
      s.spdm ([0x13, 0x61, 0, 0, 0] ++ f.take 1 ++ [0, 0] ++ leBytes 4 0x16 ++ (f.drop 1)))

/-- The extended algorithms of Table 16-7. -/
def extFalcon : Nat × Nat := (0x03, 0x0F41)
def extShake : Nat × Nat := (0x03, 0x0F56)
def extBytes (a : Nat × Nat) : List Byte := [BitVec.ofNat 8 a.1, 0] ++ leBytes 2 a.2

/-- NEGOTIATE_ALGORITHMS (R487). -/
def execNegotiateAlgorithms (o : SpdmOffer) (s : State) : Host.Outcome State Fault Refusal :=
  .next (
    if !s.mgmtUp then s
    else if !s.mgmt.capsSeen then s.spdmError 4
    else
      let a := if o.extAsym.contains extFalcon then [extFalcon] else []
      let h := if o.extHash.contains extShake then [extShake] else []
      if a == [] && h == [] then s.spdmError 7
      else
        let s := { s with mgmt := { s.mgmt with algsSeen := true } }
        s.spdm ([0x13, 0x63, 0, 0] ++ leBytes 2 (36 + 4 * a.length + 4 * h.length) ++ [1, 0] ++ leBytes 4 0 ++ leBytes 4 0 ++
          leBytes 4 0 ++ List.replicate 12 0 ++ [BitVec.ofNat 8 a.length, BitVec.ofNat 8 h.length, 0, 0] ++
          (a ++ h).flatMap extBytes))

/-- GET_DIGESTS: slot 0. -/
def execGetDigests (s : State) : Host.Outcome State Fault Refusal :=
  .next (
    if !s.mgmtUp then s
    else if !s.mgmt.algsSeen then s.spdmError 4
    else s.spdm ([0x13, 0x01, 1, 1] ++ Config.shake256 Config.certChain))

/-- GET_CERTIFICATE (R535): slot 0 only. -/
def execGetCertificate (slot off len : Nat) (s : State) : Host.Outcome State Fault Refusal :=
  .next (
    if !s.mgmtUp then s
    else if !s.mgmt.algsSeen then s.spdmError 4
    else if slot != 0 then s.spdmError 1
    else
      let part := (Config.certChain.drop off).take len
      s.spdm ([0x13, 0x02, 0, 0] ++ leBytes 2 part.length ++ leBytes 2 (Config.certChain.length - off - part.length) ++ part))

/-- A response with the signature over the transcript that it ends (R487). -/
def State.spdmSigned (s : State) (request response : List Byte) : State :=
  let t := s.mgmt.transcript ++ request ++ response
  ({ s with mgmt := { s.mgmt with transcript := t } }).answer
    (.bytes (response ++ Config.falconSign (Config.shake256 t)) false)

/-- CHALLENGE: slot 0; the module's nonce is free. -/
def execChallenge (slot : Nat) (nonce : List Byte) (s : State) : Host.Outcome State Fault Refusal :=
  .next (
    if !s.mgmtUp then s
    else if !s.mgmt.algsSeen then s.spdmError 4
    else if slot != 0 then s.spdmError 1
    else
      let n := freeBytes s.freeCtr 32
      s.drawn.spdmSigned ([0x13, 0x83, 0, 0] ++ nonce)
        ([0x13, 0x03, 0, 1] ++ Config.shake256 Config.certChain ++ n ++ leBytes 2 0))

/-- The repair state of a stack as committed (Table 18-8). -/
def RepairTables.bytes (t : RepairTables) : List Byte :=
  t.remaps.flatMap (fun m => leBytes 8 m.word) ++
  t.masks.flatMap (fun m => leBytes 2 (m.pc + 64 * m.sid + 256 * m.bank) ++
    leBytes 8 ((m.used.map (2 ^ ·)).foldl (· + ·) 0) ++ leBytes 8 ((m.bad.map (2 ^ ·)).foldl (· + ·) 0)) ++
  t.retired.flatMap (fun p => leBytes 4 p.1 ++ leBytes 4 p.2)

/-- The measurement of an index (Table 18-8), at this moment. -/
def State.measure (s : State) (index : Nat) : List Byte :=
  match index with
  | 1 =>
    let b := match (s.cfg.fw[Fin.ofNat 2 s.cfg.fwSlot]).fw with | some f => f.bytes | none => []
    Config.shake256 (b ++ [if s.sec.unlocked then 1 else 0])
  | 2 => Config.shake256 (match s.cfg.copies[Fin.ofNat 2 s.cfg.activeCopy] with | some c => Config.imageBytes c.1 | none => [])
  | _ => Config.shake256 (s.sdies.toList.flatMap (fun d => d.committed.bytes))

/-- A measurement block: index, DMTF specification, and the raw 64-byte digest. -/
def State.measureBlock (s : State) (index : Nat) : List Byte :=
  [BitVec.ofNat 8 index, 1] ++ leBytes 2 67 ++ [BitVec.ofNat 8 (index - 1)] ++ leBytes 2 64 ++ s.measure index

/-- GET_MEASUREMENTS (R486, R536): index 0 asks how many there are, 0xFF asks for all. -/
def execGetMeasurements (index : Nat) (nonce : List Byte) (s : State) : Host.Outcome State Fault Refusal :=
  .next (
    if !s.mgmtUp then s
    else if !s.mgmt.algsSeen then s.spdmError 4
    else if 3 < index && index != 0xFF then s.spdmError 1
    else
      let l := if index = 0 then [] else if index = 0xFF then [1, 2, 3] else [index]
      let r := l.flatMap s.measureBlock
      let n := freeBytes s.freeCtr 32
      s.drawn.spdmSigned ([0x13, 0xE0, 1, BitVec.ofNat 8 index] ++ nonce)
        ([0x13, 0x60, if index = 0 then 3 else 0, 0, BitVec.ofNat 8 l.length] ++ leBytes 3 r.length ++ r ++ n ++ leBytes 2 0))

end Sys2Proof.Machine
end

