-- ==== Sys2Proof/Machine/Regs.lean ====
section
/-! DEFINITION. The register space: every register of Tables 19-4 to 19-8, what a read returns (R5, R7, R10, R546), and
what a write does (R4, R5, R7, R519, R531). -/

namespace Sys2Proof.Machine

/-! ### The registers (R547, R549)

A mirrored register has no die index. Of the others `n` is a C-die, `t` an S-die, `l` an L-die, `h` an H-die. -/

inductive Reg where
  -- M-die (Table 19-4)
  | deviceId | spare (n : CIx) | imageSerial | imageStat | fwStat | bootCount
  | pendSet (k : Fin 32) | pendClr (k : Fin 32) | maskSet (k : Fin 32) | maskClr (k : Fin 32)
  | groupEn | routeLock | coreStat | hostCfg | evcStatus | route (k : Fin 128)
  | claim (t : Fin 3) (c : Fin 2) | complete (t : Fin 3) (c : Fin 2) | thresh (t : Fin 3) (c : Fin 2)
  | insvc (t : Fin 3) (c : Fin 2) | scratch (k : Fin 96)
  | ringBase | ringSize | ringHead | ringTail | ringStat | fltSeq | recSel | recData (k : Fin 16)
  | fenceUnit | fenceCtrl | fenceStat | leaseGrace | leaseCnt | tallyBase | tallyStat
  | asyCfg | asyLimit | asyInterval | asyStatus | asyCnt
  | pwrState | pwrLimit | pwrInput | pwrInputPower | pwrIdleCfg | railStat | phaseStat | throttleCnt
  | startTick (k : Fin 6) | clkOp (n : CIx) | thermThr
  | authCtrl | session | secStatus | secCmd | auditSeq | chal (k : Fin 8) | sig (k : Fin 320)
  -- C-dies (Table 19-5)
  | ctxCmd | engStatus (n : CIx) | rowCfg (j : JobIx) | rowStat (j : JobIx) | rowBase (j : JobIx) | rowStep (j : JobIx)
  | scaleCnt (n : CIx) | loomCtrl (n : CIx) | loomStatus (n : CIx) | tileSel (n : CIx) | tileStatus (n : CIx)
  | tileCmd (n : CIx) | tileStep (n : CIx) | passCnt (n : CIx) | stallCnt (n : CIx) | skipCnt (n : CIx)
  | flagCnt (n : CIx) | troubleCnt (n : CIx) | fbCfg (j : JobIx) | stormCfg (j : JobIx)
  | stormStat (n : CIx) (j : JobIx) | stormEnd (j : JobIx)
  | rknSel (n : CIx) | rknSelDl (n : CIx) | rknSelAdm (n : CIx) | rknSelRsv (n : CIx) | rknTick
  | rknCfg (j : JobIx) | admitStat (j : JobIx) | miss (j : JobIx) | missStep (j : JobIx)
  | xformCnt (n : CIx) | remoteCnt (n : CIx) | coalesceCnt (n : CIx) | idxCnt (n : CIx) (j : JobIx)
  | dropIdx (n : CIx) (j : JobIx)
  | ctxCfg (j : JobIx) | ctxState (j : JobIx) | ctxSeed (j : JobIx) | ctxRgn (j : JobIx) | jobStatus (j : JobIx)
  | jobFault (j : JobIx) | jobFaultCmd (j : JobIx) | jobFaultStep (j : JobIx)
  | qBase (j : JobIx) (e : EngIx) | qSize (j : JobIx) (e : EngIx) | qHead (j : JobIx) (e : EngIx)
  | qTail (j : JobIx) (e : EngIx) | qCtrl (j : JobIx) (e : EngIx) | qStatus (j : JobIx) (e : EngIx)
  | qFaultCmd (j : JobIx) (e : EngIx) | sb (j : JobIx) (k : Fin 64)
  -- S-dies (Table 19-6)
  | memStatus (t : SIx) | cacheCfg (t : SIx) | memThr (t : SIx) | memLimit (t : SIx) | memMap (t : SIx)
  | eccCnt (t : SIx) | poisonCnt (t : SIx) | thermCnt (t : SIx) | repairStat (t : SIx) | repairCfg (t : SIx)
  | scrubCfg (t : SIx) | scrubStat (t : SIx) | addCnt (t : SIx) | cprStatus (t : SIx) | cprCmd (t : SIx)
  | cprStep (t : SIx) | elemCnt (t : SIx) | cprEvent (t : SIx) | cprCopy (t : SIx) | cprRoot (t : SIx)
  -- L-dies (Table 19-7)
  | portStatus (l : LIx) (p : PortIx) | portCtrl (l : LIx) (p : PortIx) | laneMap (l : LIx) (p : PortIx)
  | laneBad (l : LIx) (p : PortIx) | retryCnt (l : LIx) (p : PortIx) | laneCfg (l : LIx) | routerStatus (l : LIx)
  | routerCtrl (l : LIx) | coord (l : LIx) | deflectCnt (l : LIx) | goldenCnt (l : LIx) | dropCnt (l : LIx)
  | rankBase (j : JobIx) | rankCfg (j : JobIx) | streamCfg (j : JobIx)
  | colStat (j : JobIx) | colTag (j : JobIx) | colFlt (j : JobIx) | colCnt (l : LIx) | wireBytes (l : LIx)
  -- H-dies (Table 19-8)
  | hstStatus (h : HIx) | hwinOffset (h : HIx) | bar2Win (h : HIx) | errCnt (h : HIx)
deriving DecidableEq, Repr

/-- Whether a register is a 64-bit pair (R5). -/
def Reg.wide : Reg → Bool
  | .ringBase | .tallyBase | .auditSeq | .passCnt _ | .stallCnt _ | .rknSelDl _ | .rknTick | .remoteCnt _
  | .coalesceCnt _ | .ctxSeed _ | .ctxRgn _ | .qBase _ _ | .addCnt _ | .elemCnt _ | .deflectCnt _ | .rankBase _
  | .wireBytes _ | .hwinOffset _ | .bar2Win _ => true
  | _ => false

/-- A register at an address: which it is, and whether the address is that of its high word. -/
abbrev RegPlace := Option (Reg × Bool)

/-- The register of a list that holds an offset. -/
def pick (off : Nat) (l : List (Nat × Reg)) : RegPlace :=
  (l.find? (fun p => p.1 == off || (p.2.wide && p.1 + 4 == off))).map (fun p => (p.2, p.1 != off))

/-- An offset in an array of `n` blocks of `step` bytes: the block's index and the offset inside it. -/
def inArray (off base step n : Nat) [NeZero n] : Option (Fin n × Nat) :=
  if base ≤ off ∧ off < base + step * n then some (Fin.ofNat n ((off - base) / step), (off - base) % step) else none

/-- An array of single registers. -/
def pickArray (off base n : Nat) [NeZero n] (r : Fin n → Reg) : RegPlace :=
  (inArray off base 4 n).bind (fun x => pick x.2 [(0, r x.1)])

def cfgPage (off : Nat) : RegPlace :=
  pick off [(0, .deviceId), (0x40, .imageSerial), (0x44, .imageStat), (0x48, .fwStat), (0x4C, .bootCount)]
  <|> pickArray off 0x20 4 .spare

def evcPage (off : Nat) : RegPlace :=
  pick off [(0x200, .groupEn), (0x204, .routeLock), (0x208, .coreStat), (0x20C, .hostCfg), (0x210, .evcStatus)]
  <|> pickArray off 0 32 .pendSet <|> pickArray off 0x80 32 .pendClr <|> pickArray off 0x100 32 .maskSet
  <|> pickArray off 0x180 32 .maskClr <|> pickArray off 0x400 128 .route
  <|> (inArray off 0x1000 0x200 3).bind (fun x => (inArray x.2 0 0x100 2).bind (fun y =>
    let (t, c) := (x.1, y.1)
    pick y.2 [(0, .claim t c), (4, .complete t c), (8, .thresh t c), (0xC, .insvc t c)]
    <|> pickArray y.2 0x40 16 (fun w => .scratch (Fin.ofNat 96 (16 * (bankIx t c).val + w.val)))))

def fltPage (off : Nat) : RegPlace :=
  pick off [(0, .ringBase), (8, .ringSize), (0xC, .ringHead), (0x10, .ringTail), (0x14, .ringStat), (0x18, .fltSeq),
    (0x20, .recSel), (0x100, .fenceUnit), (0x104, .fenceCtrl), (0x108, .fenceStat), (0x200, .leaseGrace),
    (0x204, .leaseCnt), (0x300, .tallyBase), (0x308, .tallyStat), (0x1000, .asyCfg), (0x1004, .asyLimit),
    (0x1008, .asyInterval), (0x100C, .asyStatus), (0x1010, .asyCnt)]
  <|> pickArray off 0x40 16 .recData

def pwrPage (off : Nat) : RegPlace :=
  pick off [(0, .pwrState), (4, .pwrLimit), (8, .pwrInput), (0xC, .pwrInputPower), (0x10, .pwrIdleCfg), (0x14, .railStat),
    (0x18, .phaseStat), (0x1C, .throttleCnt), (0x110, .thermThr)]
  <|> pickArray off 0x20 6 .startTick <|> pickArray off 0x100 4 .clkOp

def secPage (off : Nat) : RegPlace :=
  pick off [(0, .authCtrl), (4, .session), (8, .secStatus), (0xC, .secCmd), (0x10, .auditSeq)]
  <|> pickArray off 0x40 8 .chal <|> pickArray off 0x1000 320 .sig

def cPage (n : CIx) (off : Nat) : RegPlace :=
  pick off [(0x1000, .ctxCmd), (0x1004, .engStatus n), (0x1600, .scaleCnt n), (0x2000, .loomCtrl n),
    (0x2004, .loomStatus n), (0x2008, .tileSel n), (0x200C, .tileStatus n), (0x2010, .tileCmd n), (0x2014, .tileStep n),
    (0x2018, .passCnt n), (0x2020, .stallCnt n), (0x2028, .skipCnt n), (0x202C, .flagCnt n), (0x2030, .troubleCnt n),
    (0x3000, .rknSel n), (0x3008, .rknSelDl n), (0x3010, .rknSelAdm n), (0x3014, .rknSelRsv n), (0x3018, .rknTick),
    (0x4800, .xformCnt n), (0x4808, .remoteCnt n), (0x4810, .coalesceCnt n)]
  <|> (inArray off 0x1200 0x10 64).bind (fun (j, o) =>
    pick o [(0, .rowCfg j), (4, .rowStat j), (8, .rowBase j), (0xC, .rowStep j)])
  <|> (inArray off 0x2100 0x10 64).bind (fun (j, o) =>
    pick o [(0, .fbCfg j), (4, .stormCfg j), (8, .stormStat n j), (0xC, .stormEnd j)])
  <|> (inArray off 0x3400 0x10 64).bind (fun (j, o) =>
    pick o [(0, .rknCfg j), (4, .admitStat j), (8, .miss j), (0xC, .missStep j)])
  <|> (inArray off 0x4900 8 64).bind (fun (j, o) => pick o [(0, .idxCnt n j), (4, .dropIdx n j)])
  <|> (inArray off 0x6000 0x40 64).bind (fun (j, o) =>
    pick o [(0, .ctxCfg j), (4, .ctxState j), (8, .ctxSeed j), (0x10, .ctxRgn j), (0x18, .jobStatus j), (0x1C, .jobFault j),
      (0x20, .jobFaultCmd j), (0x24, .jobFaultStep j)])
  <|> (inArray off 0x8000 0x100 64).bind (fun (j, o) => (inArray o 0 0x20 5).bind (fun (e, o) =>
    pick o [(0, .qBase j e), (8, .qSize j e), (0xC, .qHead j e), (0x10, .qTail j e), (0x14, .qCtrl j e), (0x18, .qStatus j e),
      (0x1C, .qFaultCmd j e)]))
  <|> (inArray off 0xC000 0x100 64).bind (fun (j, o) => pickArray o 0 64 (.sb j))

def sPage (t : SIx) (off : Nat) : RegPlace :=
  pick off [(0, .memStatus t), (4, .cacheCfg t), (8, .memThr t), (0xC, .memLimit t), (0x10, .memMap t), (0x20, .eccCnt t),
    (0x24, .poisonCnt t), (0x28, .thermCnt t), (0x30, .repairStat t), (0x34, .repairCfg t), (0x38, .scrubCfg t),
    (0x3C, .scrubStat t), (0x40, .addCnt t), (0x1000, .cprStatus t), (0x1004, .cprCmd t), (0x1008, .cprStep t),
    (0x1010, .elemCnt t), (0x1018, .cprEvent t), (0x101C, .cprCopy t), (0x1020, .cprRoot t)]

def lPage (l : LIx) (off : Nat) : RegPlace :=
  pick off [(0x80, .laneCfg l), (0x100, .routerStatus l), (0x104, .routerCtrl l), (0x108, .coord l), (0x110, .deflectCnt l),
    (0x118, .goldenCnt l), (0x11C, .dropCnt l), (0x1800, .colCnt l), (0x1808, .wireBytes l)]
  <|> (inArray off 0 0x40 2).bind (fun (p, o) =>
    pick o [(0, .portStatus l p), (4, .portCtrl l p), (8, .laneMap l p), (0xC, .laneBad l p), (0x10, .retryCnt l p)])
  <|> (inArray off 0x800 0x10 64).bind (fun (j, o) => pick o [(0, .rankBase j), (8, .rankCfg j), (0xC, .streamCfg j)])
  <|> (inArray off 0x1000 0x10 64).bind (fun (j, o) => pick o [(0, .colStat j), (4, .colTag j), (8, .colFlt j)])

def hPage (h : HIx) (off : Nat) : RegPlace :=
  pick off [(0, .hstStatus h), (8, .hwinOffset h), (0x10, .bar2Win h), (0x20, .errCnt h)]

/-- The register at an offset of the register space (Table 19-3); none where it is unpopulated. -/
def regAt (x : Nat) : RegPlace :=
  let page := x / 0x10000
  let off := x % 0x10000
  if page = 0 then cfgPage off
  else if page = 1 then evcPage off
  else if page = 2 then fltPage off
  else if page = 3 then pwrPage off
  else if page = 4 then secPage off
  else if 0x10 ≤ page ∧ page < 0x14 then cPage (Fin.ofNat 4 (page - 0x10)) off
  else if 0x20 ≤ page ∧ page < 0x2C then sPage (Fin.ofNat 12 (page - 0x20)) off
  else if 0x30 ≤ page ∧ page < 0x33 then lPage (Fin.ofNat 3 (page - 0x30)) off
  else if 0x40 ≤ page ∧ page < 0x42 then hPage (Fin.ofNat 2 (page - 0x40)) off
  else none

/-- Whether the die of a register's page is held in reset (R546). The dispatcher and the Reckoner of a C-die stand in its
uncore, which VDD_S feeds. -/
def State.pageHeld (s : State) (x : Nat) : Bool :=
  let page := x / 0x10000
  let off := x % 0x10000
  if 0x10 ≤ page ∧ page < 0x14 then
    let c := s.cdies[Fin.ofNat 4 (page - 0x10)]
    !c.powered || (c.held && ((0x2000 ≤ off && off < 0x3000) || (0x4800 ≤ off && off < 0x6000)))
  else if 0x20 ≤ page ∧ page < 0x2C then (s.sdies[Fin.ofNat 12 (page - 0x20)]).held
  else if 0x30 ≤ page ∧ page < 0x33 then (s.ldies[Fin.ofNat 3 (page - 0x30)]).held
  else if 0x40 ≤ page ∧ page < 0x42 then (s.hdies[Fin.ofNat 2 (page - 0x40)]).held
  else false

/-! ### What a register holds -/

/-- `v` in bits `hi..lo`. -/
def fld (v hi lo : Nat) : Nat := (v % 2 ^ (hi + 1 - lo)) * 2 ^ lo
def flag (b : Bool) (lo : Nat) : Nat := if b then 2 ^ lo else 0

/-- The bits of a vector of flags. -/
def bitmap (l : List Bool) : Nat := l.foldr (fun b n => (if b then 1 else 0) + 2 * n) 0

def CtxState.code : CtxState → Nat
  | .free => 0 | .opening => 1 | .opened => 2 | .faulted => 3 | .resetting => 4 | .closing => 5 | .scrubbing => 6

def QState.code : QState → Nat
  | .disabled => 0 | .idle => 1 | .admitting => 2 | .active => 3 | .waiting => 4 | .halted => 5 | .draining => 6 | .armed => 7

def TileState.code : TileState → Nat
  | .off => 0 | .waking => 1 | .idle => 2 | .running => 3 | .finishing => 4 | .migrating => 5 | .underTest => 6 | .fenced => 7

def CoreState.code : CoreState → Nat
  | .active => 0 | .standby => 1 | .failed => 2 | .restarting => 3

def SessState.code : SessState → Nat
  | .none => 0 | .verifying => 1 | .opened => 2 | .locked => 3

def RouterState.code : RouterState → Nat
  | .forwarding => 0 | .draining => 1 | .resetting => 2 | .training => 3

/-- The state code of R285, from what overrides it, whether a share runs, and whether a unit is awake. -/
def engCode (o : EngOverride) (busy awake : Bool) : Nat :=
  match o with
  | .draining => 3 | .armed => 4 | .fenced => 5 | .resetting => 6
  | .none => if busy then 2 else if awake then 1 else 0

def CDie.tileCount (c : CDie) (p : Tile → Bool) : Nat := (c.tiles.toList.filter p).length
def CDie.bankCount (c : CDie) (p : Bank → Bool) : Nat := (c.banks.toList.filter p).length

/-- CFG_SPARE_Cn (Table 1-4): what is not fenced beyond the units that the die's service needs, once roles are given. -/
def CDie.spareWord (c : CDie) : Nat :=
  let fenced := c.bankCount (fun b => b.state == .fenced)
  let banks := if c.banks.any (fun b => b.pos.isSome) then c.bankCount (fun b => b.state == .inService || b.state == .spare ||
    b.state == .underTest && !b.test.unfencing) - 48 else 0
  fld fenced 21 16 + fld (c.tileCount (fun t => t.state == .fenced)) 15 8 + fld banks 7 4 +
  fld (c.tileCount (fun t => t.role != .none) - 128) 3 0

/-- LOOM_STATUS (Table 3-9). -/
def CDie.loomWord (c : CDie) : Nat :=
  fld (c.tileCount (fun t => t.state == .migrating || t.state == .underTest)) 31 24 +
  fld (c.tileCount (fun t => t.state != .off && t.state != .fenced)) 23 16 +
  fld (c.tileCount (fun t => t.state == .running || t.state == .finishing)) 15 8 +
  fld (c.tileCount (fun t => t.role == .service && t.state != .fenced)) 7 0

/-- LOOM_TILE_STATUS (Table 3-11). -/
def Tile.statusWord (t : Tile) : Nat :=
  let busy := t.state == .running || t.state == .finishing
  fld t.tally.length 28 16 + flag (busy && t.job.isSome) 14 + (if busy then fld (t.job.getD 0) 13 8 + fld t.level 7 6 else 0) +
  fld (if t.role == .spare then 1 else 0) 5 4 + fld t.state.code 3 0

/-- Whether a share of an engine's command runs on a C-die (R285): blocks of it that are not written, or the share that
its start ran there, until it completes. -/
def State.engBusy (s : State) (n : CIx) (e : EngIx) : Bool :=
  (e == 0 && s.blocks.any (fun b => b.die == n.val)) ||
  (List.finRange 64).any (fun j => (s.queue j e).inflight.any (fun f => f.dies.contains n.val))

/-- DSP_ENG_STATUS (R285, R287). -/
def State.engWord (s : State) (n : CIx) : Nat :=
  let c := s.cdies[n]
  fld (engCode c.loomEng (s.engBusy n 0) (c.tiles.any (fun t => t.state != .off && t.state != .fenced))) 3 0 +
  fld (engCode c.vecEng (s.engBusy n 1) c.vecAwake) 7 4 + fld (engCode c.cpyEng (s.engBusy n 2) c.cpyAwake) 11 8

/-- The list that RKN_SEL chooses (R317): HEAD has passed every admitted list, so the newest is nearest to it. -/
def State.rknList (s : State) (rq : Requester) : Option AdmList :=
  let w := (s.reqOf rq).rknSel
  if w.field 10 8 < 5 then (s.queue (Fin.ofNat 64 (w.field 5 0)) (Fin.ofNat 5 (w.field 10 8))).lists.getLast? else none

/-- Word `k` of the record that FLT_REC_SEL chooses. -/
def State.recWord (s : State) (rq : Requester) (k : Nat) : Nat :=
  match s.flt.recs[(s.reqOf rq).recSel.field 5 0]? with
  | some r => leNat ((r.bytes.drop (4 * k)).take 4)
  | none => 0

/-- Units under test, module-wide, and units that a test keeps out of service (Table 14-10). -/
def CDie.underTest (c : CDie) : Nat :=
  c.tileCount (fun t => t.state == .underTest) + c.bankCount (fun b => b.state == .underTest) +
  (c.vus.toList.filter (fun u => u.state == .underTest)).length + (c.cps.toList.filter (fun u => u.state == .underTest)).length

def CDie.capLoss (c : CDie) : Nat :=
  c.tileCount (fun t => t.role == .service && (t.state == .underTest || t.state == .migrating)) +
  min (c.bankCount (fun b => b.state == .underTest)) (48 - c.bankCount (fun b => b.pos.isSome)) +
  (c.vus.toList.filter (fun u => u.state == .underTest)).length + (c.cps.toList.filter (fun u => u.state == .underTest)).length

def sumOf (l : List Nat) : Nat := l.foldl (· + ·) 0

def State.asyWord (s : State) : Nat :=
  let lanes := sumOf (s.ldies.toList.map (fun (d : LDie) =>
    sumOf (d.ports.toList.map (fun (p : Port) => (p.lanes.toList.filter (·.underTest)).length))))
  fld (min 255 (sumOf (s.cdies.toList.map CDie.underTest) + lanes)) 7 0 +
  fld (min 255 (sumOf (s.cdies.toList.map CDie.capLoss))) 15 8 + fld s.asy.deferred 31 16

/-- PWR_STATE (Table 17-11). -/
def State.pwrWord (s : State) : Nat :=
  flag s.therm 16 + flag s.throttled 15 + fld s.pwr.safeCause 11 9 + flag s.pwr.degraded 8 + fld s.pwr.phase 7 4 +
  fld s.pwr.state.code 3 0

/-- MEM_STATUS (Table 10-7). -/
def SDie.statusWord (d : SDie) : Nat := fld (d.temp % 4096).toNat 27 16 + flag d.retained 8 + fld d.state.code 3 0

/-- CPR_STATUS (Table 11-6). An engine of a stack that is off or asleep is gated. -/
def State.cprWord (s : State) (t : SIx) : Nat :=
  let d := s.sdies[t]
  let awake := !d.held && d.state != .off && d.state != .selfRefresh
  (match s.cpr with
   | some r => flag true 14 + fld r.job 13 8 + (if r.opcode == 0x52 then fld (r.phase + 1) 6 4 else 0)
   | none => 0) + fld (engCode d.cprEng s.cpr.isSome awake) 3 0

/-- DRV_PORT_STATUS_p (Table 12-5). -/
def Port.statusWord (p : Port) : Nat :=
  fld (min 255 p.rtt) 31 24 + fld p.spares 13 12 + fld p.width 8 4 + fld p.state.code 3 0

/-- HST_STATUS (Table 16-5). -/
def State.hstWord (s : State) (h : HIx) : Nat :=
  let d := s.hdies[h]
  flag (s.hwinLock h) 11 + flag d.flit 10 + fld d.speed 9 6 + fld d.width 5 1 + flag d.inReset 0

/-- DSP_Q_STATUS_j_e (Table 8-15). -/
def Queue.statusWord (q : Queue) : Nat := fld q.inflight.length 31 16 + fld q.cause 15 8 + fld q.state.code 3 0

/-- The value of a register as a requester reads it; a pair as one 64-bit number. Claims are no part of it. -/
def State.regValue (s : State) (rq : Requester) (r : Reg) : Nat :=
  let q := s.reqOf rq
  match r with
  | .deviceId => 0x41224AD2
  | .spare n => (s.cdies[n]).spareWord
  | .imageSerial => s.cfg.serial
  | .imageStat => fld s.cfg.lastResult 11 8 + flag (s.cfg.adopting || s.cfg.transferOpen) 3 + flag s.cfg.pendingCold 2 +
      flag s.cfg.stagedValid 1 + fld s.cfg.activeCopy 0 0
  | .fwStat =>
    let o := s.cfg.fw[Fin.ofNat 2 (s.cfg.fwSlot + 1)]
    fld (((s.cfg.fw[Fin.ofNat 2 s.cfg.fwSlot]).fw.map (fun f => f.svn)).getD 0) 31 16 + flag o.bootMark 2 + flag o.imageMark 1 +
      fld s.cfg.fwSlot 0 0
  | .bootCount => s.cfg.bootCount
  | .pendSet k | .pendClr k => (eventWord k s.evc.pending).toNat
  | .maskSet k | .maskClr k => s.evc.mask[k].toNat
  | .groupEn => s.evc.groupEn.toNat
  | .routeLock => flag q.routeLock 0
  | .coreStat => fld s.evc.failovers 15 8 + fld (s.cores[1]).state.code 3 2 + fld (s.cores[0]).state.code 1 0
  | .hostCfg => fld s.evc.hostPort 0 0
  | .evcStatus => fld s.evc.spurious 31 16 + fld s.evc.badComplete 15 0
  | .route k => s.evc.routes[k].toNat
  | .claim _ _ => 1023
  | .complete _ _ => 0
  | .thresh t c => s.evc.thresh[bankIx t c].toNat
  | .insvc t c => (s.evc.insvc[bankIx t c].map (fun e => 1024 + e)).getD 0
  | .scratch k => s.evc.scratch[k].toNat
  | .ringBase => s.flt.ringBase
  | .ringSize => fld s.flt.ringLog2 4 0 + flag s.flt.ringEn 31
  | .ringHead => s.flt.head
  | .ringTail => s.flt.tail
  | .ringStat => s.flt.lost
  | .fltSeq => s.flt.seq
  | .recSel => q.recSel.toNat
  | .recData k => s.recWord rq k.val
  | .fenceUnit => s.flt.fenceUnit.toNat
  | .fenceCtrl => 0
  | .fenceStat => if unitExists s.flt.fenceUnit then s.unitStat s.flt.fenceUnit else 0
  | .leaseGrace => s.flt.grace
  | .leaseCnt => s.flt.leaseCnt.toNat
  | .tallyBase => s.flt.tallyBase
  | .tallyStat => fld s.flt.unread 7 0 + fld (s.flt.slotFree.getD s.flt.nextSlot) 10 8 + fld s.heldTallies.length 31 16
  | .asyCfg => fld s.asy.fraction 4 0 + flag s.asy.stressEn 8
  | .asyLimit => fld s.asy.max 12 8 + fld s.asy.min 4 0
  | .asyInterval =>
    fld (43200 / max 1 s.asy.effective + 1200) 15 0 + fld (4320 / max 1 s.asy.effective + 1200) 31 16
  | .asyStatus => s.asyWord
  | .asyCnt => s.asy.cnt.toNat
  | .pwrState => s.pwrWord
  | .pwrLimit => fld s.pwr.peak 31 16 + fld s.pwr.sustained 15 0
  | .pwrInput => fld s.pwr.curr 31 16 + fld s.pwr.volt 15 0
  | .pwrInputPower => fld s.pwr.avg10 31 16 + fld s.pwr.avg1u 15 0
  | .pwrIdleCfg => s.pwr.idleCfg.toNat
  | .railStat => fld s.pwr.orderFlt 27 16 + fld s.pwr.good 11 0
  | .phaseStat => fld s.pwr.pPhases[2] 18 14 + fld s.pwr.pPhases[1] 13 9 + fld s.pwr.pPhases[0] 8 4 + fld s.pwr.conv 3 0
  | .throttleCnt => s.pwr.throttleCnt.toNat
  | .startTick k => s.pwr.startTick[k] % 2 ^ 32
  | .clkOp n =>
    let c := s.cdies[n]
    fld c.vnom 23 16 + fld c.powerOp 10 8 + fld c.thermOp 6 4 + fld c.op 2 0
  | .thermThr => fld s.pwr.trip 23 16 + fld s.pwr.alert 15 8 + fld s.pwr.throttle 7 0
  | .authCtrl => q.authCtrl.toNat
  | .session => fld q.fails 23 16 + fld q.sess.code 9 8 + fld (s.roleOf rq).code 1 0
  | .secStatus => fld s.sec.auditRefused 31 16 + fld s.sec.pending.length 15 8 + flag s.sec.auditFail 1 + flag s.sec.unlocked 0
  | .secCmd => 0
  | .auditSeq => s.sec.nextSeq
  | .chal k => leNat ((q.chal.drop (4 * k.val)).take 4)
  | .sig k => ((q.sig.find? (fun p => p.1 == k.val)).map (fun p => p.2.toNat)).getD 0
  | .ctxCmd => 0
  | .engStatus n => s.engWord n
  | .rowCfg j => (s.ctx j).rowCfg.toNat
  | .rowStat j => (s.ctx j).rowStat.toNat
  | .rowBase j => (s.ctx j).rowBase.toNat
  | .rowStep j => (s.ctx j).rowStep.toNat
  | .scaleCnt n => (s.cdies[n]).scaleCnt.toNat
  | .loomCtrl n => (s.cdies[n]).loomCtrl.toNat
  | .loomStatus n => (s.cdies[n]).loomWord
  | .tileSel _ => q.tileSel.toNat
  | .tileStatus n => ((s.cdies[n]).tiles[q.tileSel.toNat]?.map Tile.statusWord).getD 0
  | .tileCmd n => ((s.cdies[n]).tiles[q.tileSel.toNat]?.map (fun t => t.cmd.toNat)).getD 0
  | .tileStep n => ((s.cdies[n]).tiles[q.tileSel.toNat]?.map (fun t => t.step.toNat)).getD 0
  | .passCnt n => (s.cdies[n]).passCnt
  | .stallCnt n => (s.cdies[n]).stallCnt
  | .skipCnt n => (s.cdies[n]).skipCnt.toNat
  | .flagCnt n => (s.cdies[n]).flagCnt.toNat
  | .troubleCnt n => (s.cdies[n]).troubleCnt.toNat
  | .fbCfg j => (s.ctx j).fbCfg.toNat
  | .stormCfg j => (s.ctx j).stormCfg.toNat
  | .stormStat n j => ((s.ctx j).stormStat.setField 15 0 (min 0xFFFF ((s.cdies[n]).ctxs[j]).winCount)).toNat
  | .stormEnd j => (s.ctx j).stormEnd.toNat
  | .rknSel _ => q.rknSel.toNat
  | .rknSelDl _ => ((s.rknList rq).map (fun l => l.deadlineTick)).getD 0
  | .rknSelAdm _ => ((s.rknList rq).map (fun l => l.adm)).getD 0
  | .rknSelRsv _ => ((s.rknList rq).map (fun l => (l.reserve / 44 % 2 ^ 32).toNat)).getD 0
  | .rknTick => s.tick
  | .rknCfg j => (s.ctx j).rknCfg.toNat
  | .admitStat j => (s.ctx j).admitStat.toNat
  | .miss j => (s.ctx j).miss.toNat
  | .missStep j => (s.ctx j).missStep.toNat
  | .xformCnt n => (s.cdies[n]).xformCnt.toNat
  | .remoteCnt n => (s.cdies[n]).remoteCnt
  | .coalesceCnt n => (s.cdies[n]).coalesceCnt
  | .idxCnt n j => ((s.cdies[n]).ctxs[j]).zeroed.toNat
  | .dropIdx n j => ((s.cdies[n]).ctxs[j]).dropped.toNat
  | .ctxCfg j => (s.ctx j).cfg.toNat
  | .ctxState j => fld (s.ctx j).state.code 2 0 + flag (s.ctx j).err 8
  | .ctxSeed j => (s.ctx j).seed
  | .ctxRgn j => (s.ctx j).rgn
  | .jobStatus j => (s.ctx j).jobStatus.toNat
  | .jobFault j => (s.ctx j).fault.toNat
  | .jobFaultCmd j => (s.ctx j).faultCmd.toNat
  | .jobFaultStep j => (s.ctx j).faultStep.toNat
  | .qBase j e => (s.queue j e).base
  | .qSize j e => (s.queue j e).log2
  | .qHead j e => (s.queue j e).head
  | .qTail j e => (s.queue j e).tail
  | .qCtrl _ _ => 0
  | .qStatus j e => (s.queue j e).statusWord
  | .qFaultCmd j e => (s.queue j e).faultCmd.toNat
  | .sb j k => (s.ctx j).sb[k].toNat
  | .memStatus t => (s.sdies[t]).statusWord
  | .cacheCfg t => (s.sdies[t]).keepWays.toNat
  | .memThr t =>
    let d := s.sdies[t]
    fld d.tcrit 31 24 + fld d.t3 23 16 + fld d.t2 15 8 + fld d.t1 7 0
  | .memLimit t => (s.sdies[t]).fenceLimit
  | .memMap t => fld (s.sdies[t]).split 6 0
  | .eccCnt t => (s.sdies[t]).eccCnt.toNat
  | .poisonCnt t => (s.sdies[t]).poisonCnt.toNat
  | .thermCnt t => (s.sdies[t]).thermCnt.toNat
  | .repairStat t => fld (s.sdies[t]).tables.retired.length 31 14 + fld (s.sdies[t]).tables.remaps.length 13 0
  | .repairCfg t => fld (s.sdies[t]).ceLimit 3 0
  | .scrubCfg t => fld (s.sdies[t]).period 7 0
  | .scrubStat t =>
    let d := s.sdies[t]
    fld (min 65535 (d.scrubUnit * 65536 / max 1 d.scrubUnits)) 31 16 + fld (min 65535 d.scrubPasses) 15 0
  | .addCnt t => (s.sdies[t]).addCnt
  | .cprStatus t => s.cprWord t
  | .cprCmd t => (s.sdies[t]).cprCmd.toNat
  | .cprStep t => (s.sdies[t]).cprStep.toNat
  | .elemCnt t => (s.sdies[t]).cprElems
  | .cprEvent t => (s.sdies[t]).cprEvent.toNat
  | .cprCopy t => (s.sdies[t]).cprCopy.toNat
  | .cprRoot t => (s.sdies[t]).cprRoot.toNat
  | .portStatus l p => (s.port l p).statusWord
  | .portCtrl _ _ => 0
  | .laneMap l p => bitmap ((s.port l p).lanes.toList.map (·.inService))
  | .laneBad l p => bitmap ((s.port l p).lanes.toList.map (·.bad))
  | .retryCnt l p => (s.port l p).retryCnt.toNat
  | .laneCfg l => (s.ldies[l]).serLimit.toNat
  | .routerStatus l => fld (448 - (s.ldies[l]).leased false) 24 16 + fld (s.ldies[l]).router.code 1 0
  | .routerCtrl _ => 0
  | .coord l =>
    let d := s.ldies[l]
    fld d.coord.x 3 0 + fld d.coord.y 7 4 + fld d.coord.z 11 8 + fld d.member 21 16 + flag d.proxy 22
  | .deflectCnt l => (s.ldies[l]).deflects
  | .goldenCnt l => (s.ldies[l]).golden.toNat
  | .dropCnt l => (s.ldies[l]).drop.toNat
  | .rankBase j => (s.ctx j).rankBase
  | .rankCfg j => (s.ctx j).rankCfg.toNat
  | .streamCfg j => (s.ctx j).streamCfg.toNat
  | .colStat j => (s.ctx j).colBusy.toNat
  | .colTag j => (s.ctx j).colTag.toNat
  | .colFlt j => (s.ctx j).colFlt.toNat
  | .colCnt l => (s.ldies[l]).colCnt.toNat
  | .wireBytes l => (s.ldies[l]).wireBytes
  | .hstStatus h => s.hstWord h
  | .hwinOffset h => (s.hdies[h]).hwinOffset
  | .bar2Win h => (s.hdies[h]).bar2Win
  | .errCnt h => (s.hdies[h]).errCnt.toNat

/-! ### Reads -/

/-- What a read of a register clears (its RC fields, R7). -/
def State.readClears (s : State) (rq : Requester) (r : Reg) : State :=
  match r with
  | .evcStatus => { s with evc := { s.evc with spurious := 0, badComplete := 0 } }
  | .ringStat => s.setFlt (fun f => { f with lost := 0 })
  | .leaseCnt => s.setFlt (fun f => { f with leaseCnt := 0 })
  | .asyStatus => s.modAsy (fun a => { a with deferred := 0 })
  | .asyCnt => s.modAsy (fun a => { a with cnt := 0 })
  | .throttleCnt => s.setPwr (fun p => { p with throttleCnt := 0 })
  | .session => s.modReq rq (fun q => { q with fails := 0 })
  | .secStatus => { s with sec := { s.sec with auditRefused := 0 } }
  | .scaleCnt n => s.modCDie n (fun c => { c with scaleCnt := 0 })
  | .flagCnt n => s.modCDie n (fun c => { c with flagCnt := 0 })
  | .troubleCnt n => s.modCDie n (fun c => { c with troubleCnt := 0 })
  | .xformCnt n => s.modCDie n (fun c => { c with xformCnt := 0 })
  | .idxCnt n j => s.modCDie n (fun c => { c with ctxs := upd c.ctxs j (fun x => { x with zeroed := 0 }) })
  | .dropIdx n j => s.modCDie n (fun c => { c with ctxs := upd c.ctxs j (fun x => { x with dropped := 0 }) })
  | .admitStat j => s.modCtx j (fun c => { c with admitStat := c.admitStat.setField 31 16 0 })
  | .miss j => s.modCtx j (fun c => { c with miss := c.miss.setField 31 16 0 })
  | .eccCnt t => s.modSDie t (fun d => { d with eccCnt := 0 })
  | .poisonCnt t => s.modSDie t (fun d => { d with poisonCnt := 0 })
  | .thermCnt t => s.modSDie t (fun d => { d with thermCnt := 0 })
  | .cprEvent t => s.modSDie t (fun d => { d with cprEvent := 0 })
  | .cprCopy t => s.modSDie t (fun d => { d with cprCopy := 0 })
  | .cprRoot t => s.modSDie t (fun d => { d with cprRoot := 0 })
  | .retryCnt l p => s.modPort l p (fun x => { x with retryCnt := 0 })
  | .goldenCnt l => s.modLDie l (fun d => { d with golden := 0 })
  | .dropCnt l => s.modLDie l (fun d => { d with drop := 0 })
  | .colCnt l => s.modLDie l (fun d => { d with colCnt := 0 })
  | .errCnt h => s.modHDie h (fun d => { d with errCnt := 0 })
  | _ => s

/-- A mirrored pair has one latch whichever copy is used: its C-die 0 or L-die 0 address (R547). -/
def latchKey (r : Reg) (x : Nat) : Nat :=
  match r with
  | .ctxSeed _ | .ctxRgn _ | .qBase _ _ => 0x100000 + x % 0x10000
  | .rankBase _ => 0x300000 + x % 0x10000
  | _ => x

def latched (l : List (Nat × Word)) (k : Nat) : Option Word := (l.find? (fun p => p.1 == k)).map (·.2)
def unlatch (l : List (Nat × Word)) (k : Nat) : List (Nat × Word) := l.filter (fun p => p.1 != k)
def relatch (l : List (Nat × Word)) (k : Nat) (v : Word) : List (Nat × Word) := (k, v) :: unlatch l k

/-- A read of a word of a register (R5): the low word of a pair latches the high word, and the next read of the high word
returns it. -/
def State.readReg (s : State) (rq : Requester) (r : Reg) (hi : Bool) (x : Nat) : Word × State :=
  let v := s.regValue rq r
  match r with
  | .claim t c =>
    let s := s.claim t c
    (match s.rsp with | .word w => w | _ => 0, s)
  | .chal 0 =>
    let s := s.readChallenge rq
    (match s.rsp with | .word w => w | _ => 0, s)
  | _ =>
    if hi then
      let k := latchKey r (x - 4)
      match latched (s.reqOf rq).readLatch k with
      | some w => (w, s.modReq rq (fun q => { q with readLatch := unlatch q.readLatch k }))
      | none => (highWord v, s)
    else if r.wide then
      (lowWord v, s.modReq rq (fun q => { q with readLatch := relatch q.readLatch (latchKey r x) (highWord v) }))
    else (lowWord v, s.readClears rq r)

/-- A read of a word of the register space (R10, R28, R543, R546). -/
def State.readWordAt (s : State) (rq : Requester) (x : Nat) : Word × State :=
  match regAt x with
  | none => (0, s)
  | some (r, hi) =>
    if s.pageHeld x then
      let v := State.reset.regValue rq r
      (if hi then highWord v else lowWord v, s)
    else s.readReg rq r hi x

/-- A naturally aligned 32-bit read of a register address. -/
def State.readWord (s : State) (rq : Requester) (addr : Nat) : Word × State :=
  if addr < regBase then (0, s) else s.readWordAt rq (addr - regBase)

/-- A read of `size` bytes (R4): narrower or unaligned ones return 0 and are recorded. -/
def State.readAt (s : State) (rq : Requester) (addr size : Nat) : Word × State :=
  if size < 4 then (0, s.regAccess rq addr 1)
  else if addr % 4 != 0 then (0, s.regAccess rq addr 2)
  else s.readWord rq addr

/-! ### Writes -/

/-- What a register's write asks of its requester; none for a register that no write changes. -/
def Reg.right : Reg → Option Right
  | .pendSet _ | .pendClr _ => some .evcPending
  | .maskSet _ | .maskClr _ => some .evcMasks
  | .groupEn | .routeLock | .hostCfg | .route _ => some .evcRoutes
  | .complete t _ | .thresh t _ => some (.evcBank t.val)
  | .scratch k => some (.evcBank (k.val / 32))
  | .ringBase | .ringSize | .ringTail | .recSel | .tallyBase | .tallyStat => some .anyone
  | .fenceUnit | .fenceCtrl | .leaseGrace => some .installerOrCore
  | .asyCfg | .pwrLimit => some .operator
  | .pwrIdleCfg => some .installer
  | .railStat | .authCtrl | .sig _ => some .anyone
  | .secCmd => some .adoptRight
  | .ctxCmd | .rowCfg _ | .loomCtrl _ | .fbCfg _ | .stormCfg _ | .rknCfg _ => some .operator
  | .tileSel _ | .rknSel _ | .jobStatus _ | .sb _ _ => some .anyone
  | .ctxCfg _ | .ctxSeed _ | .ctxRgn _ | .qBase _ _ | .qSize _ _ | .qHead _ _ | .qTail _ _ | .qCtrl _ _ => some .operator
  | .cacheCfg _ => some .operator
  | .portCtrl _ _ | .laneCfg _ | .routerCtrl _ => some .installerOrCore
  | .rankBase _ | .rankCfg _ | .streamCfg _ => some .operator
  | .hwinOffset _ => some .operator
  | .bar2Win _ => some .installer
  | _ => none

/-- A register of a context that takes writes only in FREE (R279, R395). -/
def State.modFree (s : State) (j : JobIx) (f : Ctx → Ctx) : State :=
  if (s.ctx j).state == .free then s.modCtx j f else s

/-- The bits of EVC_ROUTE_n that belong to events which Table 15-1 does not reserve (R455). -/
def routeMask (k : Nat) : Nat := sumOf ((List.range 8).map (fun i => if reservedEvent (8 * k + i) then 0 else 15 * 16 ^ i))

/-- A register takes the value `v`, by the access types of its fields (R7); a pair takes both words. -/
def State.setReg (s : State) (rq : Requester) (r : Reg) (v : Nat) : State :=
  let w : Word := BitVec.ofNat 32 v
  match r with
  | .pendSet k => s.evUpdate (fun x => x.setPend (wordEvents k w))
  | .pendClr k => s.evUpdate (fun x => x.clearPend (wordEvents k w))
  | .maskSet k => s.evUpdate (fun x => x.setMask k w)
  | .maskClr k => s.evUpdate (fun x => x.clearMask k w)
  | .groupEn => s.evUpdate (fun x => { x with groupEn := w })
  | .routeLock => if w.bit 0 then s.modReq rq (fun q => { q with routeLock := true }) else s
  | .hostCfg => { s with evc := { s.evc with hostPort := v % 2 } }
  | .route k =>
    let m : Word := BitVec.ofNat 32 (routeMask k.val)
    s.evUpdate (fun x => { x with routes := upd x.routes k (fun o => (o &&& ~~~ m) ||| (w &&& m)) })
  | .complete t c => s.complete t c w
  | .thresh t c => s.evUpdate (fun x => { x with thresh := upd x.thresh (bankIx t c) (fun _ => w &&& 0x7FF) })
  | .scratch k => { s with evc := { s.evc with scratch := upd s.evc.scratch k (fun _ => w) } }
  | .ringBase => if s.flt.ringEn then s else s.setFlt (fun f => { f with ringBase := bitsOf v 47 6 * 64 })
  | .ringSize => s.ringSize rq w
  | .ringTail => s.ringTail rq w
  | .recSel => s.modReq rq (fun q => { q with recSel := w &&& 0x3F })
  | .fenceUnit => s.setFlt (fun f => { f with fenceUnit := w })
  | .leaseGrace => s.setFlt (fun f => { f with grace := v % 2 ^ 32 })
  | .tallyBase => s.setFlt (fun f => { f with tallyBase := bitsOf v 47 12 * 4096 })
  | .tallyStat => s.releaseSlots v
  | .asyCfg => s.modAsy (fun a => { a with fraction := v % 32 })
  | .pwrLimit => s.setSustained v
  | .pwrIdleCfg => s.setPwr (fun p => { p with idleCfg := w &&& 0xFF03FFFF#32 })
  | .railStat => (s.setPwr (fun p => { p with orderFlt := p.orderFlt &&& (4095 - w.field 27 16) })).settleAlert
  | .authCtrl => s.authCtrl rq w
  | .secCmd => s.secCmd rq (v % 16)
  | .sig k => s.modReq rq (fun q => { q with sig := relatch q.sig k.val w })
  | .ctxCmd => s.ctxOp rq (v % 8) (Fin.ofNat 64 (w.field 13 8))
  | .rowCfg j => s.modCtx j (fun c => { c with rowCfg := w &&& 0x8000FFFF#32 })
  | .loomCtrl n => s.modCDie n (fun c => { c with loomCtrl := w &&& 0x00FFFF03#32 })
  | .tileSel _ => s.modReq rq (fun q => { q with tileSel := w &&& 0xFF#32 })
  | .fbCfg j => s.modCtx j (fun c => { c with fbCfg := w &&& 0x0003FFFF#32 })
  | .stormCfg j => s.modCtx j (fun c => { c with stormCfg := w &&& 0xFF1FFFFF#32 })
  | .rknSel _ => s.modReq rq (fun q => { q with rknSel := w &&& 0x73F#32 })
  | .rknCfg j => s.modCtx j (fun c => { c with rknCfg := w &&& 0xFFFFF1FF#32 })
  | .ctxCfg j => s.modFree j (fun c => { c with cfg := w &&& 0xFF#32 })
  | .ctxSeed j => s.modFree j (fun c => { c with seed := v % 2 ^ 64 })
  | .ctxRgn j => s.modFree j (fun c => { c with rgn := bitsOf v 47 12 * 4096 })
  | .jobStatus j => s.modCtx j (fun c => { c with jobStatus := c.jobStatus &&& ~~~ w })
  | .qBase j e => s.qRing j e 0 v
  | .qSize j e => s.qRing j e 1 v
  | .qHead j e => s.qRing j e 2 v
  | .qTail j e => s.qTail j e (w.field 19 0)
  | .qCtrl j e => s.qCtrl j e (v % 16)
  | .sb j k => s.modCtx j (fun c => { c with sb := upd c.sb k (fun _ => w) })
  | .cacheCfg t =>
    let s := s.modSDie t (fun d => { d with keepWays := w &&& 0xF#32 })
    { s with mem := demoteExcess s.mem t.val (min 8 (v % 16)) }
  | .portCtrl l p => s.portOp (v % 4) l p
  | .laneCfg l => s.modLDie l (fun d => { d with serLimit := w &&& 0xFFFF#32 })
  | .routerCtrl l => if w.bit 0 then s.routerDrain l else s
  | .rankBase j => s.modFree j (fun c => { c with rankBase := v % 2 ^ 48 })
  | .rankCfg j => s.modFree j (fun c => { c with rankCfg := w &&& 0x0FFF1FFF#32 })
  | .streamCfg j => s.modCtx j (fun c => { c with streamCfg := w })
  | .hwinOffset h => if s.hwinLock h then s else s.modHDie h (fun d => { d with hwinOffset := bitsOf v 63 12 * 4096 })
  | .bar2Win h => s.modHDie h (fun d => { d with bar2Win := bitsOf v 47 30 * 2 ^ 30 })
  | _ => s

/-- A write of a word of a register takes effect (R5): the low word of a pair is latched, and the high word carries it, or
the register's own low word where none is latched. A die held by now drops it (R546). -/
def State.applyAt (s : State) (rq : Requester) (x : Nat) (v : Word) : State :=
  match regAt x with
  | none => s
  | some (r, hi) =>
    if s.pageHeld x then s
    else if hi then
      let k := latchKey r (x - 4)
      let low := (latched (s.reqOf rq).writeLatch k).getD (lowWord (s.regValue rq r))
      (s.modReq rq (fun q => { q with writeLatch := unlatch q.writeLatch k })).setReg rq r (joinWords low v)
    else if r.wide then s.modReq rq (fun q => { q with writeLatch := relatch q.writeLatch (latchKey r x) v })
    else s.setReg rq r v.toNat

/-- The write of a word at a register address. -/
def State.applyWrite (s : State) (rq : Requester) (addr : Nat) (v : Word) : State := s.applyAt rq (addr - regBase) v

/-- The audit record of a register write. -/
def State.writeRec (s : State) (rq : Requester) (addr : Nat) (r : Reg) (hi : Bool) (v : Word) : AuditRec :=
  let o := s.regValue rq r
  s.auditRec rq .regWrite 0 addr (if hi then highWord o else lowWord o).toNat v.toNat

/-- A naturally aligned 32-bit write of a register address (R7, R10, R519, R531, R546). A register that a command of its own
writes is written as that command writes it; of the others, a write that needs a role waits for its audit record. -/
def State.writeWord (s : State) (rq : Requester) (addr : Nat) (v : Word) : State :=
  let x := addr - regBase
  if addr < regBase || s.pageHeld x then s
  else match regAt x with
    | none => s
    | some (r, hi) =>
      match r with
      | .ctxCmd => s.ctxCmd rq (v.field 2 0) (Fin.ofNat 64 (v.field 13 8))
      | .qCtrl j e => s.qCtrlCmd rq j e (v.field 3 0)
      | .qTail j e => if s.access rq .operator == .audited then s.qTail j e (v.field 19 0) else s.regAccess rq addr 3
      | .fenceCtrl => s.fenceCtrl rq (v.bit 0) (v.bit 1)
      | .secCmd => s.secCmd rq (v.field 3 0)
      | _ =>
        match r.right with
        | none => s
        | some need =>
          match s.access rq need with
          | .refused => s.regAccess rq addr 3
          | .atOnce => s.applyWrite rq addr v
          | .audited => s.pend (s.writeRec rq addr r hi v) (.regWrite addr v)

/-- A write of `size` bytes (R4). -/
def State.writeAt (s : State) (rq : Requester) (addr size : Nat) (v : Word) : State :=
  if size < 4 then s.regAccess rq addr 1
  else if addr % 4 != 0 then s.regAccess rq addr 2
  else s.writeWord rq addr v

/-! ### The commands -/

/-- REGISTER_WRITE (R4, R7). -/
def execRegisterWrite (rq : Requester) (addr size : Nat) (v : Word) (s : State) : Host.Outcome State Fault Refusal :=
  .next (s.writeAt rq addr size v)

/-- A read answered at the model's port. -/
def State.readAnswer (s : State) (rq : Requester) (addr : Nat) : State :=
  let (w, s) := s.readAt rq addr 4
  s.answer (.word w)

/-- READ_LOW_WORD (R5). -/
def execReadLowWord (rq : Requester) (addr : Nat) (s : State) : Host.Outcome State Fault Refusal := .next (s.readAnswer rq addr)

/-- WRITE_HIGH_WORD (R5). -/
def execWriteHighWord (rq : Requester) (addr : Nat) (v : Word) (s : State) : Host.Outcome State Fault Refusal :=
  .next (s.writeAt rq addr 4 v)

/-- READ_CLEAR (R7). -/
def execReadClear (rq : Requester) (addr : Nat) (s : State) : Host.Outcome State Fault Refusal := .next (s.readAnswer rq addr)

/-- A register that QUEUE_RING_CONFIG_WRITE writes. -/
def Reg.isRing : Reg → Bool
  | .qBase _ _ | .qSize _ _ | .qHead _ _ => true
  | _ => false

/-- QUEUE_RING_CONFIG_WRITE (R284): of the operator role; done when its audit record commits, in this step where no record
waits before it (log 14). -/
def execQueueRingConfigWrite (rq : Requester) (addr : Nat) (v : Word) (s : State) : Host.Outcome State Fault Refusal :=
  .next (
    let x := addr - regBase
    if addr < regBase || addr % 4 != 0 || s.pageHeld x then s
    else match regAt x with
      | some (r, hi) =>
        if r.isRing then
          s.privileged rq .operator addr (s.writeRec rq addr r hi v) (.regWrite addr v) (fun s => s.applyWrite rq addr v)
        else s
      | none => s)

/-! ### AUDIT_COMMIT (R531, R534) -/

def Requester.ofCode (n : Nat) : Requester :=
  match n with
  | 0 => .hostA | 1 => .hostB | 2 => .coreA | 3 => .coreB | 4 => .mgmt | 5 => .console | _ => .jtag

/-- What a committed record releases. -/
def State.release' (s : State) (r : AuditRec) (a : PendingAct) : State :=
  let rq := Requester.ofCode r.req
  match a with
  | .regWrite addr v => s.applyWrite rq addr v
  | .ctxOp op j => s.ctxOp rq op j
  | .queueOp op j e => s.qCtrl j e op
  | .portOp op l p => s.portOp op l p
  | .routerReset l => s.routerDrain l
  | .fence => s.fenceUnit (BitVec.ofNat 32 r.target) 4
  | .unfence => s.unfenceUnit (BitVec.ofNat 32 r.target)
  | .adopt => s.adoptNow rq
  | .activateFw => s.activateNow
  | .powerLimit v => s.setSustained v
  | .jtagUnlock => s.unlock
  | .note => s

/-- AUDIT_COMMIT (R531): the oldest pending record commits and its action takes effect, a commit in progress at an
emergency being the last (Table 17-5); where it cannot commit, every privileged action is refused from now on (R534). -/
def execAuditCommit (ok : Verdict) (s : State) : Host.Outcome State Fault Refusal :=
  .next (
    match s.sec.pending with
    | [] => s
    | p :: rest =>
      if s.pwr.state == .off then s
      else match ok with
        | .pass =>
          let rest := if s.flashOk then rest else []
          let s := { s with sec := { s.sec.commit p.rec' with pending := rest } }
          s.release' p.rec' p.act
        | .fail =>
          { s with
            sec := { s.sec with
              auditFail := true
              pending := [] }
            cfg := { s.cfg with adopting := false } })

end Sys2Proof.Machine
end

