-- ==== Sys2Proof/Machine/Bars.lean ====
section
/-! DEFINITION. Requests of the hosts to the three BARs (R471 to R474), and the packets that carry them to the members of
a host group (R409). -/

namespace Sys2Proof.Machine

/-! ### Successive register accesses (R472) -/

/-- The 32-bit pieces of a request: address and length, cut at multiples of 4. -/
def wordPieces (addr len : Nat) : List (Nat × Nat) := pieces 4 (len + 1) addr len

/-- Reads in ascending address order. -/
def State.readPieces (s : State) (rq : Requester) (l : List (Nat × Nat)) : List Byte × State :=
  l.foldl (fun (b, s) p =>
    let (w, s) := s.readAt rq p.1 p.2
    (b ++ leBytes p.2 w.toNat, s)) (([] : List Byte), s)

/-- Writes in ascending address order. -/
def State.writePieces (s : State) (rq : Requester) (addr : Nat) (data : List Byte) : State :=
  (wordPieces addr data.length).foldl (fun s p =>
    s.writeAt rq p.1 p.2 (BitVec.ofNat 32 (leNat ((data.drop (p.1 - addr)).take p.2)))) s

/-- A request completed with Unsupported Request (Table 16-6). -/
def State.unsupported (s : State) (h : HIx) : State :=
  (s.modHDie h (fun d => { d with errCnt := d.errCnt.bump 15 0 1 })).answer .unsupportedRequest

/-! ### BAR0 (R471, R472, R478) -/

def msixBase : Nat := 0x600000
def pbaBase : Nat := 0x601000

/-- A word of the MSI-X table or the PBA; none elsewhere. -/
def HDie.msixWord (d : HDie) (off : Nat) : Option Word :=
  if msixBase ≤ off ∧ off < msixBase + 130 * 16 then
    let o := off - msixBase
    if o % 16 = 12 then some (Word.flag (d.msixMask.contains (o / 16)) 0)
    else some (((d.msixData.find? (fun p => p.1 == o)).map (·.2)).getD 0)
  else if pbaBase ≤ off ∧ off < pbaBase + 24 then
    some (BitVec.ofNat 32 (bitmap ((List.range 32).map (fun i => d.pba.contains (8 * (off - pbaBase) + i)))))
  else none

/-- A write of a word of the MSI-X table: bit 0 of an entry's last word is its mask; the PBA takes none. -/
def State.writeMsix (s : State) (h : HIx) (off : Nat) (v : Word) : State :=
  let o := off - msixBase
  if pbaBase ≤ off then s
  else if o % 16 = 12 then s.maskMsix h (o / 16) (v.bit 0)
  else s.modHDie h (fun d => { d with msixData := relatch d.msixData o v })

/-- One 32-bit access through BAR0. -/
def State.bar0Read (s : State) (h : HIx) (off : Nat) (n : Nat) : Word × State :=
  match (s.hdies[h]).msixWord off with
  | some w => if n == 4 && off % 4 == 0 then (w, s) else (0, s)
  | none => if off < 0x440000 then s.readAt (Requester.ofPort h) (regBase + off) n else (0, s)

def State.bar0Write (s : State) (h : HIx) (off n : Nat) (v : Word) : State :=
  match (s.hdies[h]).msixWord off with
  | some _ => if n == 4 && off % 4 == 0 then s.writeMsix h off v else s
  | none => if off < 0x440000 then s.writeAt (Requester.ofPort h) (regBase + off) n v else s

/-- BAR0_REQUEST (R472). A port that is down takes no request. -/
def execBar0Request (h : HIx) (isWrite : Bool) (off len : Nat) (data : List Byte) (s : State) :
    Host.Outcome State Fault Refusal :=
  .next (
    let n := if isWrite then data.length else len
    if (s.hdies[h]).down then s
    else if 64 < n then s.unsupported h
    else if isWrite then
      ((wordPieces off n).foldl (fun s p =>
        s.bar0Write h p.1 p.2 (BitVec.ofNat 32 (leNat ((data.drop (p.1 - off)).take p.2)))) s).answer .none
    else
      let (b, s) := (wordPieces off n).foldl (fun (b, s) p =>
        let (w, s) := s.bar0Read h p.1 p.2
        (b ++ leBytes p.2 w.toNat, s)) (([] : List Byte), s)
      s.answer (.bytes b false))

/-! ### BAR2 (R473) -/

/-- Whether a range lies in stack memory, or in one scratchpad window. -/
def bar2Reach (s : State) (a n : Nat) : Bool :=
  match placeOf s a, placeOf s (a + n - 1) with
  | .stack _ _, .stack _ _ => true
  | .pad d _, .pad e _ => d == e
  | _, _ => false

/-- BAR2_REQUEST (R473): STREAM accesses in arrival order; a stack that sleeps or is FENCED keeps a request waiting
(R323), and an access wakes the module (R507). -/
def execBar2Request (h : HIx) (isWrite : Bool) (off len : Nat) (data : List Byte) (ep : Bool) (s : State) :
    Host.Outcome State Fault Refusal :=
  .next (
    let d := s.hdies[h]
    let rq := Requester.ofPort h
    let n := if isWrite then data.length else len
    let a := d.bar2Win + off
    let role := s.roleOf rq
    if d.down then s
    else if (role != .operator && role != .installer) || 2 ^ d.bar2Log2 < off + n || n == 0 || !bar2Reach s a n then
      s.unsupported h
    else
      let s := s.wake
      if isWrite then (writeMem s none a data .stream ep).answer .none
      else
        let (g, s') := readMem s none a n .stream
        if g.waits then { s with mem := { s.mem with waiting := s.mem.waiting ++ [.read 64 a n .stream] } }
        else s'.answer (.bytes g.data g.poison))

/-! ### BAR4 and the proxy (R409, R474)

The spec gives PROXY_REQ and PROXY_RSP no payload layout; this one is the model's (log 70): byte 0 the operation (0 read,
1 write, 2 fetch of memory), byte 1 the length, byte 2 the host port, byte 3 the role of that port's session, bytes 4 to
11 the register offset or address, then the data. A PROXY_RSP of tag 0 has the port in byte 2 and the data from byte 12;
one of tag 1 is a member's MSI-X message, its class in byte 0. -/

def proxyPayload (op len port role addr : Nat) (data : List Byte) : List Byte :=
  let b := [BitVec.ofNat 8 op, BitVec.ofNat 8 len, BitVec.ofNat 8 port, BitVec.ofNat 8 role] ++ leBytes 8 addr ++ data
  b ++ List.replicate (256 - b.length) 0

def proxyPacket (kind : PktKind) (me : Nat) (payload : List Byte) : Packet :=
  { (default : Packet) with
    kind := kind
    srcRank := me
    length := 256
    payload := payload }

/-- The system stream to a member of the group. -/
def SrcStream.toMember (m : Nat) (x : SrcStream) : Bool := x.sys && x.dstRank == m

/-- A packet put on the system stream to a member; it waits while the stream is not open (R409). -/
def State.sendMember (s : State) (m : Nat) (p : Packet) : State :=
  { s with ldies := s.ldies.map (fun (d : LDie) => d.pushOn (SrcStream.toMember m) nobody p) }

/-- The stream of a member, when the group has it. -/
def State.memberStream (s : State) (m : Nat) : Option SrcStream :=
  s.ldies.toList.findSome? (fun (d : LDie) => d.streams.find? (SrcStream.toMember m))

/-- The register offset that a place of a member window maps (R474). -/
def windowOffset (x : Nat) : Nat :=
  (match x / 0x10000 % 4 with
   | 0 => 0x100000 | 1 => 0x10000 | 2 => 0x20000 | _ => 0) + x % 0x10000

/-- BAR4_REQUEST (R474). -/
def execBar4Request (h : HIx) (isWrite : Bool) (off len : Nat) (data : List Byte) (s : State) :
    Host.Outcome State Fault Refusal :=
  .next (
    let rq := Requester.ofPort h
    let n := if isWrite then data.length else len
    let m := off / 0x40000
    let o := windowOffset off
    let me := s.cfg.inForce.member
    let proxy := s.cfg.inForce.group != 0 && s.cfg.inForce.proxy
    let zeros := List.replicate n (0 : Byte)
    if (s.hdies[h]).down then s
    else if 64 < n then s.unsupported h
    else if !proxy then if isWrite then s.answer .none else s.answer (.bytes zeros false)
    else if m == me then
      if isWrite then (s.writePieces rq (regBase + o) data).answer .none
      else
        let (b, s) := s.readPieces rq (wordPieces (regBase + o) n)
        s.answer (.bytes b false)
    else match s.memberStream m with
      | none => if isWrite then s.answer .none else s.answer (.bytes zeros false)
      | some x =>
        let role := (s.roleOf rq).code
        if isWrite then (s.sendMember m (proxyPacket .proxyReq me (proxyPayload 1 n h.val role o data))).answer .none
        else if x.closed then s.answer .completerAbort
        else
          (s.modHDie h (fun d => { d with bar4Waiting := d.bar4Waiting ++ [(m, off)] })).sendMember m
            (proxyPacket .proxyReq me (proxyPayload 0 n h.val role o [])))

/-- `f` run with a requester's session as the proxy gives it; the session itself stays. -/
def State.asRole {α : Type} (s : State) (rq : Requester) (role : Role) (f : State → α × State) : α × State :=
  let old := s.reqOf rq
  let (a, s) := f (s.modReq rq (fun q => { q with
    sess := if role == .none then .none else .opened
    role := role }))
  (a, s.modReq rq (fun q => { q with
    sess := old.sess
    role := old.role }))

/-- What a PROXY_REQ does: a register read or write of a member, or a fetch of the proxy's memory. -/
def deliverProxyReq (s : State) (r : Reorder) (p : Packet) : Option (State × Bool) :=
  let b := p.payload
  let n := min 64 (slotField b 1 1)
  let port := slotField b 2 1 % 2
  let rq := Requester.ofPort (Fin.ofNat 2 port)
  let role := Role.ofCode (slotField b 3 1)
  let a := slotField b 4 8
  let me := s.cfg.inForce.member
  match slotField b 0 1 with
  | 0 =>
    let (d, s) := s.asRole rq role (fun s => s.readPieces rq (wordPieces (regBase + a) n))
    some (s.sendMember r.srcRank (proxyPacket .proxyRsp me (proxyPayload 0 n port 0 a d)), false)
  | 1 =>
    let (_, s) := s.asRole rq role (fun s => ((), s.writePieces rq (regBase + a) ((b.drop 12).take n)))
    some (s, false)
  | 2 =>
    let (g, s') := readMem s none a n .stream
    if g.waits then none
    else
      let q := { proxyPacket .proxyRsp me (proxyPayload 2 n port 0 a g.data) with poison := if g.poison then 3 else 0 }
      some (s'.sendMember r.srcRank q, false)
  | _ => some (s, true)

/-- The first BAR4 read that waits for a member answered. -/
def State.bar4Done (s : State) (h : HIx) (m : Nat) (d : List Byte) : State :=
  if (s.hdies[h]).bar4Waiting.any (fun w => w.1 == m) then
    (s.modHDie h (fun x => { x with
      bar4Waiting := x.bar4Waiting.eraseP (fun w => w.1 == m) })).answer (.bytes d false)
  else s

/-- What a PROXY_RSP does at the proxy: it completes a BAR4 read, or sends a member's MSI-X message (R478). -/
def deliverProxyRsp (s : State) (r : Reorder) (p : Packet) : Option (State × Bool) :=
  let b := p.payload
  if p.tag == 1 then some (s.msixOn s.msixPort (2 + 2 * r.srcRank + slotField b 0 1 % 2), false)
  else
    some (s.bar4Done (Fin.ofNat 2 (slotField b 2 1)) r.srcRank ((b.drop 12).take (slotField b 1 1)), false)

/-- PROXY_REQ (R409): the next packet of the `k`-th lease of an L-die. -/
def execProxyReq (l : LIx) (k : Nat) (s : State) : Host.Outcome State Fault Refusal :=
  .next (s.deliver l k .proxyReq deliverProxyReq)

/-- PROXY_RSP (R409). -/
def execProxyRsp (l : LIx) (k : Nat) (s : State) : Host.Outcome State Fault Refusal :=
  .next (s.deliver l k .proxyRsp deliverProxyRsp)

end Sys2Proof.Machine
end

