-- ==== Sys2Proof/Machine/Complete.lean ====
section
/-! DEFINITION. COMMAND_COMPLETE (R255, R265), and the Cooper shares that waited when their command started (R348). -/

namespace Sys2Proof.Machine

/-- The waiting shares of the update in flight that can run now, run (R348). -/
def State.updLate (s : State) (j : JobIx) (f : Flight) : State :=
  match s.cpr with
  | some r =>
    if r.left == [] then s
    else
      let u := Upd.of f.bytes f.ops
      let (left, v) := (Eng.shares u (r.left.map (fun x => x.1))).run (envOf s j f.bytes f.fid)
      match v.stop with
      | some cause => v.s.jobFault j (cooperFault cause v.die f.bytes)
      | none =>
        -- a wait that has ended goes to its account (Table 9-3)
        let ended := ((r.left.map (fun x => x.2)).eraseDups).filter (fun a => left.all (fun x => x.2 != a))
        let s : State := { v.s with cpr := some { r with left := left } }
        ended.foldl (fun s a => s.modQ j 4 (fun q => q.accrue f.list a (44 * (s.tick - f.startTick)))) s
  | none => s

/-- Whether a share of the update in flight still waits (R348). -/
def State.updWaits (s : State) : Bool := s.cpr.any (fun r => r.left != [])

/-- The accounts of a command that ends (Table 9-3), and the ticks its engines have spent (R302). -/
def State.chargeEnd (s : State) (j : JobIx) (e : EngIx) (f : Flight) : State :=
  let lost := s.lostBy j e f
  (s.modCtx j (fun c => c.modQ e (fun q =>
    lost.foldl (fun q p => q.accrue f.list p.1 p.2) (q.countSpent (homeOf c) e s.tick)))).drawn

/-- What the end of a command leaves: its scale-record parts (R169), its charges, the layer scoreboard (R151), its flight
gone, its board value, its leases released, and the end of its engine's own work. -/
def State.endCommand (s : State) (j : JobIx) (e : EngIx) (k : Nat) (f : Flight) : State :=
  let s := f.amax.foldl (fun s p => s.writeAmax j (cmdStep f.bytes) p) s
  let s := (s.chargeEnd j e f).modCtx j (fun c =>
    (c.layerWrite f.bytes f.level).modQ e (fun q =>
      (({ q with inflight := q.inflight.eraseIdx k }).dropEnded s.tick).settle))
  let s := match f.board with
    | some p => s.modCtx j (fun c => { c with sb := upd c.sb (Fin.ofNat 64 p.1) (fun _ => BitVec.ofNat 32 p.2) })
    | none => s
  let s := s.release [1, 3, 4, 5] j.val f.fid
  let s := if opcodeOf f.bytes == 0x31 then s.countXform (s.oneDieOf j f.bytes) 15 0 else s
  let s := if e == 4 then { s with cpr := none } else if e == 3 then s.endCollective j f.fid else s
  s.completed j f.bytes

/-- COMMAND_COMPLETE (R255, R265): a command in flight whose every share has completed. -/
def execCommandComplete (j : JobIx) (e : EngIx) (k : Nat) (s : State) : Host.Outcome State Fault Refusal :=
  .next (
    match (s.queue j e).inflight[k]? with
    | none => s
    | some f =>
      if f.shares != 0 || !s.farIdle j e f.fid || (s.ctx j).state != .opened then s
      else
        let s := if e == 4 then s.updLate j f else s
        if (s.ctx j).state != .opened || (e == 4 && s.updWaits) then s
        else s.endCommand j e k f)

end Sys2Proof.Machine
end

