-- ==== Sys2Proof/Machine/Dispatch.lean ====
section
/-! DEFINITION. One arm per command: each calls its meaning. -/

namespace Sys2Proof.Machine

def exec (i : Instr) (s : State) : Host.Outcome State Fault Refusal :=
  match i with
  | .registerWrite rq addr size v => Sys2Proof.Machine.execRegisterWrite rq addr size v s
  | .readLowWord rq addr => Sys2Proof.Machine.execReadLowWord rq addr s
  | .writeHighWord rq addr v => Sys2Proof.Machine.execWriteHighWord rq addr v s
  | .readClear rq addr => Sys2Proof.Machine.execReadClear rq addr s
  | .openCtx rq j => Sys2Proof.Machine.execOpenCtx rq j s
  | .regionTableLoad j => Sys2Proof.Machine.execRegionTableLoad j s
  | .close rq j => Sys2Proof.Machine.execClose rq j s
  | .resetJob rq j => Sys2Proof.Machine.execResetJob rq j s
  | .reloadRegions rq j => Sys2Proof.Machine.execReloadRegions rq j s
  | .contextCancelDone j => Sys2Proof.Machine.execContextCancelDone j s
  | .contextScrubDone j => Sys2Proof.Machine.execContextScrubDone j s
  | .queueEnable rq j e => Sys2Proof.Machine.execQueueEnable rq j e s
  | .queueDisable rq j e => Sys2Proof.Machine.execQueueDisable rq j e s
  | .queueResume rq j e => Sys2Proof.Machine.execQueueResume rq j e s
  | .queueSkip rq j e => Sys2Proof.Machine.execQueueSkip rq j e s
  | .queueDrainDone j e => Sys2Proof.Machine.execQueueDrainDone j e s
  | .queueRingConfigWrite rq addr v => Sys2Proof.Machine.execQueueRingConfigWrite rq addr v s
  | .doorbell rq j e tail => Sys2Proof.Machine.execDoorbell rq j e tail s
  | .commandFetch j e => Sys2Proof.Machine.execCommandFetch j e s
  | .listAdmission j e => Sys2Proof.Machine.execListAdmission j e s
  | .commandWaitMet j e => Sys2Proof.Machine.execCommandWaitMet j e s
  | .commandComplete j e k => Sys2Proof.Machine.execCommandComplete j e k s
  | .engineReset eng => Sys2Proof.Machine.execEngineReset eng s
  | .nop j e => Sys2Proof.Machine.execNop j e s
  | .listHead j e => Sys2Proof.Machine.execListHead j e s
  | .chain j e => Sys2Proof.Machine.execChain j e s
  | .branch j e => Sys2Proof.Machine.execBranch j e s
  | .matmul j => Sys2Proof.Machine.execMatmul j s
  | .matmulGrouped j => Sys2Proof.Machine.execMatmulGrouped j s
  | .sideDown j => Sys2Proof.Machine.execSideDown j s
  | .sideDownGrouped j => Sys2Proof.Machine.execSideDownGrouped j s
  | .elementwise j => Sys2Proof.Machine.execElementwise j s
  | .norm j => Sys2Proof.Machine.execNorm j s
  | .softmax j => Sys2Proof.Machine.execSoftmax j s
  | .quantise j => Sys2Proof.Machine.execQuantise j s
  | .routeTopk j => Sys2Proof.Machine.execRouteTopk j s
  | .copy j => Sys2Proof.Machine.execCopy j s
  | .window j => Sys2Proof.Machine.execWindow j s
  | .gather j => Sys2Proof.Machine.execGather j s
  | .scatter j => Sys2Proof.Machine.execScatter j s
  | .scatterAdd j => Sys2Proof.Machine.execScatterAdd j s
  | .segmentSum j => Sys2Proof.Machine.execSegmentSum j s
  | .csrGather j => Sys2Proof.Machine.execCsrGather j s
  | .dispatchBuild j => Sys2Proof.Machine.execDispatchBuild j s
  | .touchBuild j => Sys2Proof.Machine.execTouchBuild j s
  | .reduceScatter j => Sys2Proof.Machine.execReduceScatter j s
  | .allReduce j => Sys2Proof.Machine.execAllReduce j s
  | .allGather j => Sys2Proof.Machine.execAllGather j s
  | .allToAll j => Sys2Proof.Machine.execAllToAll j s
  | .broadcast j => Sys2Proof.Machine.execBroadcast j s
  | .updMomentum j => Sys2Proof.Machine.execUpdMomentum j s
  | .updAdaptive j => Sys2Proof.Machine.execUpdAdaptive j s
  | .updFactored j => Sys2Proof.Machine.execUpdFactored j s
  | .updBlockpre j => Sys2Proof.Machine.execUpdBlockpre j s
  | .regenerate j => Sys2Proof.Machine.execRegenerate j s
  | .cooperPhaseAdvance j => Sys2Proof.Machine.execCooperPhaseAdvance j s
  | .loomPass d t k => Sys2Proof.Machine.execLoomPass d t k s
  | .passRepeat d t k => Sys2Proof.Machine.execPassRepeat d t k s
  | .blockFinish d t k => Sys2Proof.Machine.execBlockFinish d t k s
  | .tileWakeDone d t => Sys2Proof.Machine.execTileWakeDone d t s
  | .tileGate d t => Sys2Proof.Machine.execTileGate d t s
  | .stormTrip d j => Sys2Proof.Machine.execStormTrip d j s
  | .stormWindowEnd d j => Sys2Proof.Machine.execStormWindowEnd d j s
  | .deadlineMiss j e => Sys2Proof.Machine.execDeadlineMiss j e s
  | .stackTempSample st temp => Sys2Proof.Machine.execStackTempSample st temp s
  | .stackStepDown st => Sys2Proof.Machine.execStackStepDown st s
  | .stackFenceLimit st => Sys2Proof.Machine.execStackFenceLimit st s
  | .stackTrainingDone st ok => Sys2Proof.Machine.execStackTrainingDone st ok s
  | .selfRefreshExit st => Sys2Proof.Machine.execSelfRefreshExit st s
  | .memRead j addr n hint ecc parity => Sys2Proof.Machine.execMemRead j addr n hint ecc parity s
  | .memWrite j addr data hint parity => Sys2Proof.Machine.execMemWrite j addr data hint parity s
  | .memAdd j addr fmt data sr => Sys2Proof.Machine.execMemAdd j addr fmt data sr s
  | .repairTableCommit st => Sys2Proof.Machine.execRepairTableCommit st s
  | .patrolScrub st unit ecc => Sys2Proof.Machine.execPatrolScrub st unit ecc s
  | .portEnable rq l p => Sys2Proof.Machine.execPortEnable rq l p s
  | .portDisable rq l p => Sys2Proof.Machine.execPortDisable rq l p s
  | .portTrainingDone l p lanes rtt => Sys2Proof.Machine.execPortTrainingDone l p lanes rtt s
  | .portTrainingTimeout l p => Sys2Proof.Machine.execPortTrainingTimeout l p s
  | .portDrainDone l p confirmed => Sys2Proof.Machine.execPortDrainDone l p confirmed s
  | .retrainDone l p => Sys2Proof.Machine.execRetrainDone l p s
  | .retrainTimeout l p => Sys2Proof.Machine.execRetrainTimeout l p s
  | .laneFail l p lane reason => Sys2Proof.Machine.execLaneFail l p lane reason s
  | .linkFrameReceive l p f => Sys2Proof.Machine.execLinkFrameReceive l p f s
  | .packetArrive l => Sys2Proof.Machine.execPacketArrive l s
  | .packetInject l => Sys2Proof.Machine.execPacketInject l s
  | .write l k => Sys2Proof.Machine.execWrite l k s
  | .add l k => Sys2Proof.Machine.execAdd l k s
  | .coll l k => Sys2Proof.Machine.execColl l k s
  | .readReq l k => Sys2Proof.Machine.execReadReq l k s
  | .readRsp l k => Sys2Proof.Machine.execReadRsp l k s
  | .ack l k => Sys2Proof.Machine.execAck l k s
  | .proxyReq l k => Sys2Proof.Machine.execProxyReq l k s
  | .proxyRsp l k => Sys2Proof.Machine.execProxyRsp l k s
  | .ackTimer l k => Sys2Proof.Machine.execAckTimer l k s
  | .reorderLeaseIdle l k => Sys2Proof.Machine.execReorderLeaseIdle l k s
  | .streamTimeout l k => Sys2Proof.Machine.execStreamTimeout l k s
  | .gapTimeout l k => Sys2Proof.Machine.execGapTimeout l k s
  | .routerReset rq l => Sys2Proof.Machine.execRouterReset rq l s
  | .routerDrainEnd l => Sys2Proof.Machine.execRouterDrainEnd l s
  | .routerLoss l => Sys2Proof.Machine.execRouterLoss l s
  | .collectiveTimeout j ch => Sys2Proof.Machine.execCollectiveTimeout j ch s
  | .fence rq fenceBit unfenceBit => Sys2Proof.Machine.execFence rq fenceBit unfenceBit s
  | .unfence rq => Sys2Proof.Machine.execUnfence rq s
  | .unitWatchdog unit => Sys2Proof.Machine.execUnitWatchdog unit s
  | .unitDrainDone unit => Sys2Proof.Machine.execUnitDrainDone unit s
  | .leaseExpiry k => Sys2Proof.Machine.execLeaseExpiry k s
  | .leaseRevokeDone k => Sys2Proof.Machine.execLeaseRevokeDone k s
  | .assayerTestDue unit => Sys2Proof.Machine.execAssayerTestDue unit s
  | .tileMigration d t => Sys2Proof.Machine.execTileMigration d t s
  | .assayerDeferLimit unit => Sys2Proof.Machine.execAssayerDeferLimit unit s
  | .assayerTestPass unit => Sys2Proof.Machine.execAssayerTestPass unit s
  | .assayerTestFail unit f => Sys2Proof.Machine.execAssayerTestFail unit f s
  | .tallySlotRelease rq mask => Sys2Proof.Machine.execTallySlotRelease rq mask s
  | .stackPageTest st page => Sys2Proof.Machine.execStackPageTest st page s
  | .laneTest l p lane eye => Sys2Proof.Machine.execLaneTest l p lane eye s
  | .ringEnable rq v => Sys2Proof.Machine.execRingEnable rq v s
  | .ringDisable rq => Sys2Proof.Machine.execRingDisable rq s
  | .ringTailWrite rq v => Sys2Proof.Machine.execRingTailWrite rq v s
  | .eventSourceAssert e => Sys2Proof.Machine.execEventSourceAssert e s
  | .eventSourceWithdraw e => Sys2Proof.Machine.execEventSourceWithdraw e s
  | .evcPendSet rq k v => Sys2Proof.Machine.execEvcPendSet rq k v s
  | .evcPendClr rq k v => Sys2Proof.Machine.execEvcPendClr rq k v s
  | .evcMaskSet rq k v => Sys2Proof.Machine.execEvcMaskSet rq k v s
  | .evcMaskClr rq k v => Sys2Proof.Machine.execEvcMaskClr rq k v s
  | .evcClaim rq t c => Sys2Proof.Machine.execEvcClaim rq t c s
  | .evcComplete rq t c v => Sys2Proof.Machine.execEvcComplete rq t c v s
  | .serviceCoreFailure core uncorrectable => Sys2Proof.Machine.execServiceCoreFailure core uncorrectable s
  | .standbyPromoted => Sys2Proof.Machine.execStandbyPromoted s
  | .coreRestartDone core ok => Sys2Proof.Machine.execCoreRestartDone core ok s
  | .bar0Request h isWrite off len data => Sys2Proof.Machine.execBar0Request h isWrite off len data s
  | .bar2Request h isWrite off len data ep => Sys2Proof.Machine.execBar2Request h isWrite off len data ep s
  | .bar4Request h isWrite off len data => Sys2Proof.Machine.execBar4Request h isWrite off len data s
  | .hostWindowReadCompletion h addr data ok => Sys2Proof.Machine.execHostWindowReadCompletion h addr data ok s
  | .functionLevelReset h => Sys2Proof.Machine.execFunctionLevelReset h s
  | .hotReset h => Sys2Proof.Machine.execHotReset h s
  | .hostLinkDown h => Sys2Proof.Machine.execHostLinkDown h s
  | .persthN h => Sys2Proof.Machine.execPersthN h s
  | .msixEntryUnmask h entry => Sys2Proof.Machine.execMsixEntryUnmask h entry s
  | .entdaa dynAddr => Sys2Proof.Machine.execEntdaa dynAddr s
  | .mctpControl m => Sys2Proof.Machine.execMctpControl m s
  | .pldmMonitoring sensor => Sys2Proof.Machine.execPldmMonitoring sensor s
  | .pldmSetPowerLimit watts => Sys2Proof.Machine.execPldmSetPowerLimit watts s
  | .pldmFirmwareUpdate u => Sys2Proof.Machine.execPldmFirmwareUpdate u s
  | .stageCheck => Sys2Proof.Machine.execStageCheck s
  | .readRecords seq => Sys2Proof.Machine.execReadRecords seq s
  | .readAudit index => Sys2Proof.Machine.execReadAudit index s
  | .getVersion => Sys2Proof.Machine.execGetVersion s
  | .getCapabilities => Sys2Proof.Machine.execGetCapabilities s
  | .negotiateAlgorithms o => Sys2Proof.Machine.execNegotiateAlgorithms o s
  | .getDigests => Sys2Proof.Machine.execGetDigests s
  | .getCertificate slot off len => Sys2Proof.Machine.execGetCertificate slot off len s
  | .challenge slot nonce => Sys2Proof.Machine.execChallenge slot nonce s
  | .getMeasurements index nonce => Sys2Proof.Machine.execGetMeasurements index nonce s
  | .auth role sig => Sys2Proof.Machine.execAuth role sig s
  | .consoleIdleTimeout => Sys2Proof.Machine.execConsoleIdleTimeout s
  | .consoleBreak => Sys2Proof.Machine.execConsoleBreak s
  | .consoleLockExpire => Sys2Proof.Machine.execConsoleLockExpire s
  | .jtagUnlock token => Sys2Proof.Machine.execJtagUnlock token s
  | .secChallenge rq => Sys2Proof.Machine.execSecChallenge rq s
  | .authGo rq v => Sys2Proof.Machine.execAuthGo rq v s
  | .authVerifyDone rq ok => Sys2Proof.Machine.execAuthVerifyDone rq ok s
  | .authLockExpire rq => Sys2Proof.Machine.execAuthLockExpire rq s
  | .sessionEnd rq => Sys2Proof.Machine.execSessionEnd rq s
  | .adopt rq => Sys2Proof.Machine.execAdopt rq s
  | .activateFw rq => Sys2Proof.Machine.execActivateFw rq s
  | .activateFwTimeout => Sys2Proof.Machine.execActivateFwTimeout s
  | .auditCommit ok => Sys2Proof.Machine.execAuditCommit ok s
  | .doorbellAuditTimer => Sys2Proof.Machine.execDoorbellAuditTimer s
  | .brownOut volt => Sys2Proof.Machine.execBrownOut volt s
  | .overVoltage volt => Sys2Proof.Machine.execOverVoltage volt s
  | .thermalTrip unit temp => Sys2Proof.Machine.execThermalTrip unit temp s
  | .emergencyOffEnd => Sys2Proof.Machine.execEmergencyOffEnd s
  | .alwaysOnRailsGood => Sys2Proof.Machine.execAlwaysOnRailsGood s
  | .inputRestart volt => Sys2Proof.Machine.execInputRestart volt s
  | .pwrEnRise => Sys2Proof.Machine.execPwrEnRise s
  | .pwrEnFall => Sys2Proof.Machine.execPwrEnFall s
  | .resetN => Sys2Proof.Machine.execResetN s
  | .startPhaseDone r => Sys2Proof.Machine.execStartPhaseDone r s
  | .startPhaseTimeout => Sys2Proof.Machine.execStartPhaseTimeout s
  | .railFault rail => Sys2Proof.Machine.execRailFault rail s
  | .converterPhaseFail k => Sys2Proof.Machine.execConverterPhaseFail k s
  | .regulatorPhaseFail pdie k => Sys2Proof.Machine.execRegulatorPhaseFail pdie k s
  | .limiterPeakStep avg => Sys2Proof.Machine.execLimiterPeakStep avg s
  | .limiterSustainedStep avg => Sys2Proof.Machine.execLimiterSustainedStep avg s
  | .limiterStepUp avg => Sys2Proof.Machine.execLimiterStepUp avg s
  | .cdieThermalStepDown d temp => Sys2Proof.Machine.execCdieThermalStepDown d temp s
  | .cdieThermalStepUp d temp => Sys2Proof.Machine.execCdieThermalStepUp d temp s
  | .opChangeDone d => Sys2Proof.Machine.execOpChangeDone d s
  | .idleEntry => Sys2Proof.Machine.execIdleEntry s
  | .deepIdleEntry => Sys2Proof.Machine.execDeepIdleEntry s
  | .wake => Sys2Proof.Machine.execWake s
  | .dieReset d => Sys2Proof.Machine.execDieReset d s
  | .hostLinkUp h speed width flit => Sys2Proof.Machine.execHostLinkUp h speed width flit s
  | .configurationRequest h isWrite reg v => Sys2Proof.Machine.execConfigurationRequest h isWrite reg v s
  | .jtagInstruction op => Sys2Proof.Machine.execJtagInstruction op s
  | .vref3v3Loss => Sys2Proof.Machine.execVref3v3Loss s
  | .neighbourRouterDrain l p => Sys2Proof.Machine.execNeighbourRouterDrain l p s

end Sys2Proof.Machine
end

