-- ==== Sys2Proof/Machine/Step.lean ====
section
/-! DEFINITION. One step: the command at the front of the queue, or a tick of the reference clock. -/

namespace Sys2Proof.Machine

/-- A tick of the 25 MHz reference (R313, R503): what a step does when no command waits (log 11). -/
def idleTick (s : State) : Host.Outcome State Fault Refusal :=
  if s.pwr.state = .off then .next s
  else if s.tick + 1 < 2 ^ 64 then .next s.passTick else .fault .tickWrap

/-- Take the command at the front of the queue and run it with the queue's rest. -/
def step (s : State) : Host.Outcome State Fault Refusal :=
  match s.pending with
  | [] => idleTick s
  | c :: rest => exec c { s with pending := rest }

/-- The state with the command that the word spells put at the front of its queue; unchanged where it spells none. -/
def State.withFetchWord (s : State) (nbits w : Nat) : State :=
  match decodeTableWord nbits w with
  | some c => { s with pending := c :: s.pending }
  | none => s

end Sys2Proof.Machine
end

