-- ==== Sys2Proof/Safety.lean ====
section
/-! DEFINITION. What counts as a sound state and a safe run, in the terms the statements use: the canonical form of
memory, the hash chain of the audit log, the legal values of the registers that an invariant speaks of. -/

namespace Sys2Proof.Machine

/-- Every sparse memory of the machine is in its canonical form. -/
def MemSys.wf (m : MemSys) : Prop := m.dram.wf = true ∧ m.pad.wf = true ∧ m.host.wf = true

/-- The audit log, newest record first, is chained (R532): every record carries the SHAKE256 digest of its own first
188 bytes, its SEQ follows that of the record before it, and its PREV is that record's digest; the record of SEQ 0 has
a PREV of zeros. -/
def AuditChained : List AuditRec → Prop
  | [] => True
  | [r] => r.digest = Config.shake256 r.body ∧ (r.seq = 0 → r.prev = List.replicate 64 0)
  | r :: p :: l =>
    r.digest = Config.shake256 r.body ∧ r.seq = p.seq + 1 ∧ r.prev = p.digest ∧ AuditChained (p :: l)

/-- The audit log is sound: chained, its newest SEQ one below AUD_SEQ, at most 65,536 records kept (R531, R532). -/
def Sec.sound (c : Sec) : Prop :=
  AuditChained c.log ∧ (match c.log with | [] => c.nextSeq = 0 | r :: _ => c.nextSeq = r.seq + 1) ∧
  c.log.length ≤ 65536 ∧ c.pending.length ≤ 64

/-- A requester's privileged action takes effect in its own command: the requester has the right, no record waits before
it and its record can commit (R531, log 14). -/
abbrev State.Grants (s : State) (rq : Requester) (need : Right) : Prop :=
  s.access rq need = .audited ∧ s.sec.auditFail = false ∧ s.sec.pending = [] ∧ s.flashOk = true

/-- A requester's action that asks the right `need` takes effect from the state `u`: from `s` itself where its acceptance
depends on no role, else with its record `r` committed (R519, R531, log 14). -/
def State.Acts (s : State) (rq : Requester) (need : Right) (r : AuditRec) (u : State) : Prop :=
  s.access rq need = .atOnce ∧ u = s ∨ s.Grants rq need ∧ u = { s with sec := s.sec.commit r }

/-- What the maker has fused (Table 18-3). -/
def Cfg.fuses (c : Cfg) : Nat × List Byte × List Byte × Bool := (c.minSvn, c.moduleDigest, c.makerDigest, c.makerKeyOk)

/-- The front command `b` of a queue is whole, of an admitted list, allowed by its encoding, of the context itself, in
order and with its WAIT met (R259, R261, R263, R264). -/
def State.FrontReady (s : State) (j : JobIx) (e : EngIx) (op : Nat) (b : List Byte) : Prop :=
  s.runs j = true ∧ ((s.queue j e).state = .active ∨ (s.queue j e).state = .waiting) ∧
  (∃ h, (s.queue j e).held.head? = some h ∧ h.bytes = b ∧ h.whole = true) ∧ s.issued j e = true ∧
  (s.queue j e).curList.isSome = true ∧ opcodeRefused e.val b = false ∧ Slot.jobOf b = j.val ∧ opcodeOf b = op ∧
  ((Slot.fence b = true ∨ op = 3) → (s.queue j e).inflight = []) ∧ waitMet (s.ctx j) b = true

/-- The commands that an engine runs: each with its queue, its opcode and what its own decode and start are. -/
def engineCommands (j : JobIx) : List (Instr × EngIx × Nat × (State → List Byte → Nat → Begin)) :=
  [(.matmul j, 0, 0x10, State.matmul j), (.matmulGrouped j, 0, 0x11, State.matmul j),
   (.sideDown j, 0, 0x12, State.sideDown j), (.sideDownGrouped j, 0, 0x13, State.sideDown j),
   (.elementwise j, 1, 0x20, State.vector j), (.norm j, 1, 0x21, State.vector j), (.softmax j, 1, 0x22, State.vector j),
   (.quantise j, 1, 0x23, State.vector j), (.routeTopk j, 1, 0x24, State.vector j),
   (.copy j, 2, 0x30, State.copy j), (.window j, 2, 0x31, State.window j), (.gather j, 2, 0x32, State.indexed j),
   (.scatter j, 2, 0x33, State.indexed j), (.scatterAdd j, 2, 0x34, State.indexed j),
   (.segmentSum j, 2, 0x35, State.indexed j), (.csrGather j, 2, 0x36, State.indexed j),
   (.dispatchBuild j, 2, 0x37, State.dispatchBuild j), (.touchBuild j, 2, 0x38, State.touchBuild j),
   (.reduceScatter j, 3, 0x40, State.collective j), (.allReduce j, 3, 0x41, State.collective j),
   (.allGather j, 3, 0x42, State.collective j), (.allToAll j, 3, 0x43, State.collective j),
   (.broadcast j, 3, 0x44, State.collective j), (.updMomentum j, 4, 0x50, State.update j),
   (.updAdaptive j, 4, 0x51, State.update j), (.updFactored j, 4, 0x52, State.update j),
   (.updBlockpre j, 4, 0x53, State.update j), (.regenerate j, 4, 0x54, State.update j)]

/-- The commands that run at the front of a queue, control commands with them: each with its queue and its opcode. -/
def queueCommands (j : JobIx) (e : EngIx) : List (Instr × Nat) :=
  [(.nop j e, 0), (.listHead j e, 1), (.chain j e, 2), (.branch j e, 3)] ++
  ((engineCommands j).filter (fun x => x.2.1 == e)).map (fun x => (x.1, x.2.2.1))

/-- The state in which the decode and start of the front command `b` run: its queue ACTIVE, its wait over and charged, the
storm flag judged by its step (R154, R264). -/
def State.begins (s : State) (j : JobIx) (e : EngIx) (b : List Byte) : State :=
  ((s.modQ j e (fun q => q.resumeAt s.tick 1)).modQ j e (fun q => { q with passed := 2 })).modCtx j
    (fun c => c.stormClear (cmdStep b))

/-- The lists of a queue once the ticks of a wait under way are charged to the wait's account of the current list
(Table 9-3). -/
def Queue.charged (q : Queue) (now : Nat) : List AdmList :=
  match q.waitSince with
  | none => q.lists
  | some (a, t) => q.lists.map (fun l =>
      if some l.lid = q.curList then { l with accounts := modAt l.accounts a (· + 44 * (now - t)) } else l)

/-- A run of an engine's work that met no waiting stack and no fault. -/
abbrev Env.settled (v : Env) : Prop := v.waits = false ∧ v.stop = none

/-- The commands that deliver the next packet of the `k`-th reorder lease of an L-die: each with its packet's kind and what
that packet does. -/
def packetDeliveries (l : LIx) (k : Nat) : List (Instr × PktKind × (State → Reorder → Packet → Option (State × Bool))) :=
  [(.write l k, .write, deliverWrite), (.add l k, .add, deliverAdd l), (.coll l k, .coll, deliverColl),
   (.readReq l k, .readReq, deliverReadReq), (.readRsp l k, .readRsp, deliverReadRsp),
   (.proxyReq l k, .proxyReq, deliverProxyReq), (.proxyRsp l k, .proxyRsp, deliverProxyRsp)]

/-- No BRANCH and no SKIP passes over what follows the front command. -/
def Queue.plain (q : Queue) : Prop := q.skipLeft = 0 ∧ q.skipHead = false

/-- The front command of a queue stands started: the last in flight, with its operands, its open shares and the next
command number used (R255, R263). `u` is what its own start made of the state, `m` what it leaves in flight. -/
def State.Started (t u : State) (j : JobIx) (e : EngIx) (fid : Nat) (b : List Byte) (m : Started) : Prop :=
  (∃ f, (t.queue j e).inflight = (u.queue j e).inflight ++ [f] ∧ f.fid = fid ∧ f.bytes = b ∧ f.shares = m.shares ∧
    f.startTick = u.tick ∧ f.list = (u.queue j e).curList ∧ f.ops = m.ops ∧ f.amax = m.amax ∧ f.board = m.board ∧
    f.dies = m.dies) ∧
  (t.ctx j).nextFid = fid + 1 ∧ { t with ctxs := u.ctxs, freeCtr := u.freeCtr } = u ∧
  (∀ k, k ≠ j → t.ctx k = u.ctx k) ∧ (t.ctx j).sb = (u.ctx j).sb ∧ (t.ctx j).jobStatus = (u.ctx j).jobStatus ∧
  (t.ctx j).state = (u.ctx j).state ∧
  (∀ k, k ≠ e → (t.queue j k).held = (u.queue j k).held ∧ (t.queue j k).inflight = (u.queue j k).inflight) ∧
  ((u.queue j e).plain → (t.queue j e).held = (u.queue j e).held.drop 1)

/-- What becomes of the front command `b` of a queue whose own decode and start `x` found, from the state `s` in which its
queue goes on (R191, R255, R259, R263, R269, R276). -/
def State.BegunAs (t s : State) (j : JobIx) (e : EngIx) (fid : Nat) (b : List Byte) (x : Begin) : Prop :=
  match x with
  | .stays =>
    (t.queue j e).state = .active ∧ (t.queue j e).held = (s.queue j e).held ∧
    (t.queue j e).inflight = (s.queue j e).inflight ∧ (t.queue j e).lists = (s.queue j e).lists ∧
    (∀ k, k ≠ j → t.ctx k = s.ctx k) ∧ { t with ctxs := s.ctxs } = s
  | .rejects u cause =>
    (t.queue j e).state = .halted ∧ (t.queue j e).cause = cause ∧ (t.queue j e).faultCmd = cmdId b ∧
    (t.queue j e).held = (u.queue j e).held ∧ (t.queue j e).inflight = (u.queue j e).inflight ∧
    (∀ k, k ≠ j → t.ctx k = u.ctx k) ∧ (∀ k, k ≠ e → t.queue j k = u.queue j k) ∧ t.blocks = u.blocks ∧
    t.passes = u.passes ∧ t.cdies = u.cdies
  | .faults u f =>
    ((u.ctx j).state = .opened →
      (t.ctx j).state = .faulted ∧ (∀ k, (t.queue j k).state = .halted ∧ (t.queue j k).cause = f.cause ∧
        (t.queue j k).inflight = [])) ∧
    (∀ k, k ≠ j → t.ctx k = u.ctx k)
  | .done u =>
    (t.queue j e).inflight = (u.queue j e).inflight ∧ (t.ctx j).sb = ((u.ctx j).signalled b).sb ∧
    t.blocks = u.blocks ∧ t.cdies = u.cdies ∧ (∀ k, k ≠ j → t.ctx k = u.ctx k) ∧ (Slot.event b = false → t.mem = u.mem) ∧
    ((u.queue j e).plain → (t.queue j e).held = (u.queue j e).held.drop 1)
  | .starts u m => t.Started u j e fid b m

/-- The `k`-th operand of a decoded command. -/
abbrev operand (ds : List (Option Desc)) (k : Nat) : Desc := (ds.getD k none).getD default

/-- The front command `b` of queue `e` passes its decode: ready (`State.FrontReady`) with its PRED true, an engine free for
it on the C-dies `dies` (none are asked of a collective or an update) that no ready command of an earlier deadline comes
first on (R285, R305), its operands `uses` read as the descriptors `ds` with no fault of Table 6-2, its own checks `own`
without a finding, its step one that the job keeps (R180, R192). `w` is the state in which it goes on. -/
structure State.Passes (s : State) (j : JobIx) (e : EngIx) (op : Nat) (b : List Byte) (dies : List CIx)
    (uses : List (Nat × Use)) (own : State → List (Option Desc) → List (Nat × Nat)) (ds : List (Option Desc))
    (w : State) : Prop where
  ready : s.FrontReady j e op b
  pred : predHolds (s.ctx j) b = true
  engine : if e.val < 3 then (s.begins j e b).diesOf j e b = dies ∧ dies ≠ [] else dies = []
  first : (s.begins j e b).overtaken j e dies = false
  step : ((s.begins j e b).ctx j).staleStep (cmdStep b) = false
  decode : ∃ v, (Eng.operands ((s.begins j e b).ctx j) uses).run (envOf (s.begins j e b) j b (s.ctx j).nextFid) =
    ((ds, []), v) ∧ v.settled ∧ v.s = w ∧ own w ds = []

/-- `t` is `s` with reports made: error records numbered, kept and written to their ring, events and messages raised,
free values drawn. Everything else stands as in `s`: memory too unless the ring is enabled (R449, R450, R456, R460). -/
structure State.Reports (s t : State) : Prop where
  pending : t.pending = s.pending
  tick : t.tick = s.tick
  pwr : t.pwr = s.pwr
  ctxs : t.ctxs = s.ctxs
  cdies : t.cdies = s.cdies
  sdies : t.sdies = s.sdies
  blocks : t.blocks = s.blocks
  passes : t.passes = s.passes
  cpr : t.cpr = s.cpr
  cols : t.cols = s.cols
  far : t.far = s.far
  asy : t.asy = s.asy
  cfg : t.cfg = s.cfg
  sec : t.sec = s.sec
  req : t.req = s.req
  cores : t.cores = s.cores
  mgmt : t.mgmt = s.mgmt
  con : t.con = s.con
  jtag : t.jtag = s.jtag
  rsp : t.rsp = s.rsp
  slowEnd : t.slowEnd = s.slowEnd
  flt : { t.flt with seq := 0, recs := [], head := 0, lost := 0 } = { s.flt with seq := 0, recs := [], head := 0, lost := 0 }
  evc : { t.evc with pend := [], cond := [] } = { s.evc with pend := [], cond := [] }
  pend : ∀ e ∈ s.evc.pend, e ∈ t.evc.pend
  ldies : ∀ l : LIx, { t.ldies[l] with streams := [] } = { s.ldies[l] with streams := [] }
  hdies : ∀ h : HIx, { t.hdies[h] with pba := [] } = { s.hdies[h] with pba := [] }
  mem : s.flt.ringEn = false → t.mem = s.mem

/-- The runs of stack offsets that a region in stack memory covers; none for another region (R327). -/
def Region.spans (s : State) (r : Region) : List Span :=
  match placeOf s r.base with
  | .stack .. => spansOf s.sdies[0].split r.base (r.base + r.bytes)
  | _ => []

/-- Whether a region covers the scratchpad byte of a key. -/
def Region.coversPad (s : State) (r : Region) (a : Nat) : Prop :=
  ∃ die off, placeOf s r.base = .pad die off ∧ padKey die off ≤ a ∧ a < padKey die off + r.bytes

/-- Whether a region covers the stack byte of a key: its stack, and its offset with repairs undone. -/
def Region.coversDram (s : State) (r : Region) (a : Nat) : Prop :=
  ∃ p ∈ r.spans s, p.st = a / 2 ^ 37 ∧ p.lo ≤ unrepaired s.sdies[Fin.ofNat 12 p.st].tables (a % 2 ^ 37) ∧
    unrepaired s.sdies[Fin.ofNat 12 p.st].tables (a % 2 ^ 37) < p.hi

/-- Whether a region covers some byte of a cached line. -/
def Region.coversLine (s : State) (r : Region) (l : Line) : Prop :=
  ∃ p ∈ r.spans s, p.st = l.stack ∧ p.lo < (l.line + 1) * 256 ∧ l.line * 256 < p.hi

/-- A run that has not stopped on a fault or a refusal within `k` steps. -/
def Runs (s : State) (k : Nat) : Prop := ∃ t, Host.Core.run Sys2Proof.core k s = .next t

end Sys2Proof.Machine
end

