-- ==== Sys2Proof/Certificates/Slice0/Obligations.lean ====
section
/-! DEFINITION. The statements about this block, for the provers. -/

open Sys2Proof Sys2Proof.Machine

/-! ### The queue, the steps and what every command keeps -/

/-- A step takes the command at the front of the queue and runs it with the queue's rest (log 1). On an empty queue it is
one tick of the reference clock, which also notes whether the module rests (R507), unless the module is off (R313; the tick
on an empty queue is the model's choice, log 11). -/
def Obligations.StepRunsFrontCommand : Prop :=
  ∀ (s : State),
    (∀ (c : Instr) (rest : List Instr), s.pending = c :: rest → step s = exec c { s with pending := rest }) ∧
    (s.pending = [] → s.pwr.state = .off → step s = .next s) ∧
    (s.pending = [] → s.pwr.state ≠ .off → s.tick + 1 < 2 ^ 64 → step s = .next { s with
      tick := s.tick + 1
      pwr := { s.pwr with busyAt := if s.restful then s.pwr.busyAt else s.tick + 1 } }) ∧
    (s.pending = [] → s.pwr.state ≠ .off → 2 ^ 64 ≤ s.tick + 1 → step s = .fault .tickWrap)

/-- Every command ends in a next state, but for a TAP instruction after a maker unlock (R492). -/
def Obligations.OnlyUnlockedTapStops : Prop :=
  ∀ (c : Instr) (s : State),
    (∃ t, exec c s = .next t) ∨
    (∃ op, c = .jtagInstruction (.other op) ∧ s.sec.unlocked = true ∧ exec c s = .refused .debugInstruction)

/-- Every step keeps the three sparse memories in their canonical form. -/
def Obligations.StepKeepsMemoryCanonical : Prop :=
  ∀ (s t : State), s.mem.wf → step s = .next t → t.mem.wf

/-- Every step keeps the audit log chained and numbered, at most 65,536 records kept and 64 pending, and its sequence
numbers never go back (R531 to R533). -/
def Obligations.StepKeepsAuditChain : Prop :=
  ∀ (s t : State), s.sec.sound → step s = .next t → t.sec.sound ∧ s.sec.nextSeq ≤ t.sec.nextSeq

/-- Both invariants hold of the machine right after reset. -/
def Obligations.ResetHoldsInvariants : Prop := State.reset.mem.wf ∧ State.reset.sec.sound

/-- No command touches the queue of waiting commands (log 1), and none changes what the maker fused (R520): MIN_SVN, the
digests of the module and of the maker's key. -/
def Obligations.CommandsKeepQueueAndFuses : Prop :=
  ∀ (c : Instr) (s t : State), exec c s = .next t → t.pending = s.pending ∧ t.cfg.fuses = s.cfg.fuses

/-- A write of a register that the operator or the installer writes, by a requester with no role, changes no state but the
error records it leaves: contexts, dies, power, configuration, latches, roles and the audit log stay as they were (R519). -/
def Obligations.UnprivilegedWriteChangesNothing : Prop :=
  ∀ (rq : Requester) (addr : Nat) (v : Word) (s : State) (r : Reg) (hi : Bool),
    regAt (addr - regBase) = some (r, hi) → regBase ≤ addr → addr % 4 = 0 →
    (r.right = some .operator ∨ r.right = some .installer) → s.roleOf rq = .none →
    ∃ t, exec (.registerWrite rq addr 4 v) s = .next t ∧ s.Reports t

/-! ### Contexts -/

/-- OPEN by an operator on a FREE context of a ready module starts the region table's load: the job's registers at their
reset values, every queue DISABLED, the address, seed and configuration registers as they were, the pending bits of
its events cleared and their mask bits kept (R458); no other context, no memory, no stack and no configuration changes. In
any other state it only sets ERR. -/
def Obligations.OpenStartsLoading : Prop :=
  ∀ (rq : Requester) (j : JobIx) (s : State), s.Grants rq .operator →
    ((s.ctx j).state = .free → s.ready = true →
      ∃ t, exec (.openCtx rq j) s = .next t ∧ (t.ctx j).state = .opening ∧ (t.ctx j).err = false ∧
        (t.ctx j).jobStatus = 0 ∧ (t.ctx j).fault = 0 ∧ (∀ k : Fin 64, (t.ctx j).sb[k] = 0) ∧
        (∀ e, (t.queue j e).state = .disabled ∧ (t.queue j e).head = 0 ∧ (t.queue j e).tail = 0) ∧
        (t.ctx j).cfg = (s.ctx j).cfg ∧ (t.ctx j).seed = (s.ctx j).seed ∧ (t.ctx j).rgn = (s.ctx j).rgn ∧
        t.evc.mask = s.evc.mask ∧
        (∀ n, n ∈ t.evc.pend ↔ n ∈ s.evc.pend ∧ n ≠ j ∧ n ≠ 64 + j ∧ n ≠ 128 + j ∧ n ≠ 192 + j) ∧
        (∀ k, k ≠ j → t.ctx k = s.ctx k) ∧ t.sec.nextSeq = s.sec.nextSeq + 1 ∧
        t.mem = s.mem ∧ t.sdies = s.sdies ∧ t.pwr = s.pwr ∧ t.cfg = s.cfg ∧ t.flt = s.flt ∧ t.req = s.req) ∧
    ((s.ctx j).state ≠ .free →
      ∃ t, exec (.openCtx rq j) s = .next t ∧ (t.ctx j) = { s.ctx j with err := true } ∧
        (∀ k, k ≠ j → t.ctx k = s.ctx k) ∧ t.mem = s.mem ∧ t.cdies = s.cdies)

/-- RESET_JOB by an operator on an OPEN or FAULTED context: RESETTING, queues DISABLED with HEAD and TAIL 0, scoreboards,
job status and fault word 0, nothing of the job in flight; its regions and its seed are kept. -/
def Obligations.ResetJobClearsJob : Prop :=
  ∀ (rq : Requester) (j : JobIx) (s : State), s.Grants rq .operator →
    ((s.ctx j).state = .opened ∨ (s.ctx j).state = .faulted) →
    ∃ t, exec (.resetJob rq j) s = .next t ∧ (t.ctx j).state = .resetting ∧ (t.ctx j).jobStatus = 0 ∧
      (t.ctx j).fault = 0 ∧ (∀ k : Fin 64, (t.ctx j).sb[k] = 0) ∧
      (∀ e, (t.queue j e).state = .disabled ∧ (t.queue j e).head = 0 ∧ (t.queue j e).tail = 0 ∧
        (t.queue j e).inflight = [] ∧ (t.queue j e).base = (s.queue j e).base ∧ (t.queue j e).log2 = (s.queue j e).log2) ∧
      (t.ctx j).regions = (s.ctx j).regions ∧ (t.ctx j).seed = (s.ctx j).seed ∧
      (t.ctx j).rowCfg = s.cfg.inForce.rowCfg ∧ (t.ctx j).fbCfg = s.cfg.inForce.fbCfg ∧
      (t.ctx j).stormCfg = s.cfg.inForce.stormCfg ∧ (t.ctx j).rknCfg = s.cfg.inForce.rknCfg ∧
      (∀ b ∈ t.blocks, b.job ≠ j.val) ∧ (∀ p ∈ t.passes, p.job ≠ j.val) ∧
      (∀ k, k ≠ j → t.ctx k = s.ctx k) ∧ t.mem.dram = s.mem.dram ∧ t.mem.pad = s.mem.pad ∧ t.sdies = s.sdies ∧
      t.pwr = s.pwr ∧ t.evc = s.evc

/-- CLOSE by an operator on an OPEN or FAULTED context begins the revocation of every lease of the job (`State.revokeJob`)
and leaves the context CLOSING with its regions: its queues DISABLED and empty, its scoreboards, job status, fault word
and doorbell count 0, its modes the defaults in force, none of its blocks and passes left; doorbells that it had counted
wait as one DOORBELL record. On a context in any other state only ERR is set. CONTEXT_CANCEL_DONE moves a RESETTING
context to OPEN, and a CLOSING one with no revocation under way to SCRUBBING; otherwise it changes nothing.
CONTEXT_SCRUB_DONE frees a SCRUBBING context and takes its regions and ranks. Every byte of a scratchpad or a stack that
one of its regions of those kinds covers reads as zero after it, every other byte as before; cached lines that such a
region covers are gone, the others stay; host memory and all else stand. On a context in any other state it changes
nothing. -/
def Obligations.CloseEndsInScrub : Prop :=
  ∀ (rq : Requester) (j : JobIx) (s u : State),
    (s.Grants rq .operator →
      u = { s with sec := s.sec.commit (s.auditRec rq .regWrite 0 ctxCmdAddr 0 (ctxCmdWord 2 j)) } →
      (((s.ctx j).state = .opened ∨ (s.ctx j).state = .faulted) →
        ∃ t, exec (.close rq j) s = .next t ∧ (t.ctx j).state = .closing ∧ (t.ctx j).err = false ∧
          (t.ctx j).jobStatus = 0 ∧ (t.ctx j).fault = 0 ∧ (t.ctx j).doorbells = 0 ∧ (∀ k : Fin 64, (t.ctx j).sb[k] = 0) ∧
          (∀ e, (t.queue j e).state = .disabled ∧ (t.queue j e).head = 0 ∧ (t.queue j e).tail = 0 ∧
            (t.queue j e).held = [] ∧ (t.queue j e).inflight = [] ∧ (t.queue j e).lists = [] ∧
            (t.queue j e).base = (s.queue j e).base ∧ (t.queue j e).log2 = (s.queue j e).log2) ∧
          (t.ctx j).regions = (s.ctx j).regions ∧ (t.ctx j).seed = (s.ctx j).seed ∧
          (t.ctx j).rowCfg = s.cfg.inForce.rowCfg ∧ (t.ctx j).fbCfg = s.cfg.inForce.fbCfg ∧
          (t.ctx j).stormCfg = s.cfg.inForce.stormCfg ∧ (t.ctx j).rknCfg = s.cfg.inForce.rknCfg ∧
          (∀ b ∈ t.blocks, b.job ≠ j.val) ∧ (∀ p ∈ t.passes, p.job ≠ j.val) ∧
          (∀ l ∈ t.flt.leases, l.job = j.val → l.revoking.isSome = true) ∧
          t.sec = (if (s.ctx j).doorbells = 0 then u.sec else { u.sec with
            pending := [⟨s.auditRec rq .doorbell 0 j.val 0 (s.ctx j).doorbells, .note⟩] }) ∧
          (∀ k, k ≠ j → t.ctx k = s.ctx k) ∧ t.pwr = s.pwr ∧ t.cfg = s.cfg ∧ t.req = s.req ∧ t.tick = s.tick ∧
          ((∀ l ∈ s.flt.leases, l.job ≠ j.val) →
            t.mem.dram = s.mem.dram ∧ t.mem.pad = s.mem.pad ∧ t.sdies = s.sdies ∧ t.evc = s.evc ∧ t.flt = s.flt)) ∧
      ((s.ctx j).state ≠ .opened → (s.ctx j).state ≠ .faulted →
        exec (.close rq j) s = .next (u.modCtx j (fun _ => { s.ctx j with err := true })))) ∧
    ((s.ctx j).state = .resetting →
      exec (.contextCancelDone j) s = .next (s.modCtx j (fun _ => { s.ctx j with state := .opened }))) ∧
    ((s.ctx j).state = .closing →
      ((∀ l ∈ s.flt.leases, l.job = j.val → l.revoking = none) →
        exec (.contextCancelDone j) s = .next (s.modCtx j (fun _ => { s.ctx j with state := .scrubbing }))) ∧
      ((∃ l ∈ s.flt.leases, l.job = j.val ∧ l.revoking ≠ none) → exec (.contextCancelDone j) s = .next s)) ∧
    ((s.ctx j).state ≠ .resetting → (s.ctx j).state ≠ .closing → exec (.contextCancelDone j) s = .next s) ∧
    (s.mem.wf → (s.ctx j).state = .scrubbing →
      ∃ t, exec (.contextScrubDone j) s = .next t ∧
        t.ctx j = { s.ctx j with state := .free, regions := [], ranks := [] } ∧ (∀ k, k ≠ j → t.ctx k = s.ctx k) ∧
        (∀ a, (∃ r ∈ (s.ctx j).regions, r.kind < 3 ∧ r.coversPad s a) → t.mem.pad.read a = 0) ∧
        (∀ a, (∀ r ∈ (s.ctx j).regions, r.kind < 3 → ¬r.coversPad s a) → t.mem.pad.read a = s.mem.pad.read a) ∧
        (∀ a, (∃ r ∈ (s.ctx j).regions, r.kind < 3 ∧ r.coversDram s a) → t.mem.dram.read a = 0) ∧
        (∀ a, (∀ r ∈ (s.ctx j).regions, r.kind < 3 → ¬r.coversDram s a) → t.mem.dram.read a = s.mem.dram.read a) ∧
        (∀ l, l ∈ t.mem.cache ↔ l ∈ s.mem.cache ∧ ∀ r ∈ (s.ctx j).regions, r.kind < 3 → ¬r.coversLine s l) ∧
        t.mem.host = s.mem.host ∧ { t with ctxs := s.ctxs, mem := s.mem } = s) ∧
    ((s.ctx j).state ≠ .scrubbing → exec (.contextScrubDone j) s = .next s)

/-- REGION_TABLE_LOAD on an OPENING context whose region table reads whole, unpoisoned and valid, and whose rank table reads
whole, opens the context with exactly the regions and ranks the tables give; a region table that fails leaves it FREE with
ERR set; a reload that waits completes with it; on a context that loads nothing it changes nothing. RELOAD_REGIONS by an operator: an OPEN context whose queues
are all DISABLED takes the regions its table gives; one that is not OPEN, or that has an enabled queue and no reload
waiting, only gets ERR. -/
def Obligations.RegionTablesLoad : Prop :=
  ∀ (rq : Requester) (j : JobIx) (s u : State) (g : Got),
    ((s.ctx j).reloads = false → (s.ctx j).state = .opening → readMem s none (s.ctx j).rgn 4096 .stream = (g, u) →
      g.waits = false →
      (∀ (rk : List RankEntry) (w : State), g.poison = false → tableOk u j (parseTable g.data) = true →
        readRanks u j = some (rk, w) →
        ∃ t, exec (.regionTableLoad j) s = .next t ∧
          t.ctx j = { s.ctx j with state := .opened, regions := parseTable g.data, ranks := rk } ∧ t.mem = w.mem ∧
          (∀ k, k ≠ j → t.ctx k = s.ctx k) ∧ { t with ctxs := s.ctxs, mem := s.mem, hdies := s.hdies } = s) ∧
      ((g.poison = true ∨ tableOk u j (parseTable g.data) = false) →
        ∃ t, exec (.regionTableLoad j) s = .next t ∧ t.ctx j = { s.ctx j with state := .free, err := true } ∧
          (∀ k, k ≠ j → t.ctx k = s.ctx k) ∧ t.cdies = s.cdies ∧ t.sdies = s.sdies ∧ t.sec = s.sec)) ∧
    ((s.ctx j).reloads = true → (s.ctx j).state = .opened → readMem s none (s.ctx j).rgn 4096 .stream = (g, u) →
      g.waits = false → g.poison = false → tableOk u j (parseTable g.data) = true →
      ∃ t, exec (.regionTableLoad j) s = .next t ∧
        t.ctx j = { s.ctx j with regions := parseTable g.data, err := false, reloads := false } ∧ t.mem = u.mem ∧
        (∀ k, k ≠ j → t.ctx k = s.ctx k) ∧ { t with ctxs := s.ctxs, mem := s.mem, hdies := s.hdies } = s) ∧
    ((s.ctx j).reloads = false → (s.ctx j).state ≠ .opening → exec (.regionTableLoad j) s = .next s) ∧
    (s.Grants rq .operator →
      ((s.ctx j).state = .opened → (∀ e, (s.queue j e).state = .disabled) →
        readMem { s with sec := s.sec.commit (s.auditRec rq .regWrite 0 ctxCmdAddr 0 (ctxCmdWord 4 j)) } none
          (s.ctx j).rgn 4096 .stream = (g, u) → g.waits = false → g.poison = false →
        tableOk u j (parseTable g.data) = true →
        ∃ t, exec (.reloadRegions rq j) s = .next t ∧
          t.ctx j = { s.ctx j with regions := parseTable g.data, err := false, reloads := false } ∧ t.mem = u.mem ∧
          (∀ k, k ≠ j → t.ctx k = s.ctx k) ∧ t.sec.nextSeq = s.sec.nextSeq + 1 ∧
          { t with ctxs := s.ctxs, mem := s.mem, hdies := s.hdies, sec := s.sec } = s) ∧
      (((s.ctx j).state ≠ .opened ∨ (s.ctx j).reloads = false ∧ ∃ e, (s.queue j e).state ≠ .disabled) →
        ∃ t, exec (.reloadRegions rq j) s = .next t ∧ t.ctx j = { s.ctx j with err := true } ∧
          (∀ k, k ≠ j → t.ctx k = s.ctx k) ∧ { t with ctxs := s.ctxs, sec := s.sec } = s))

/-! ### Queues -/

/-- ENABLE by an operator: a DISABLED queue of an OPEN context with nothing held goes to IDLE, or on to ADMITTING where
HEAD differs from TAIL, when its ring holds 2^6 to 2^20 slots inside one region; otherwise it stays DISABLED. During a
drain it becomes ARMED. -/
def Obligations.QueueEnableMoves : Prop :=
  ∀ (rq : Requester) (j : JobIx) (e : EngIx) (s : State), s.Grants rq .operator →
    ((s.queue j e).state = .disabled → (s.ctx j).state = .opened → (s.queue j e).held = [] →
      (s.queue j e).curList = none →
      (6 ≤ (s.queue j e).log2 ∧ (s.queue j e).log2 ≤ 20 ∧
        ∃ r ∈ (s.ctx j).regions, r.base ≤ (s.queue j e).base ∧
          (s.queue j e).base + 2 ^ (s.queue j e).log2 * 64 ≤ r.base + r.bytes) →
      ∃ t, exec (.queueEnable rq j e) s = .next t ∧
        t.queue j e = { s.queue j e with
          state := if (s.queue j e).head = (s.queue j e).tail then .idle else .admitting } ∧
        (∀ k, k ≠ j → t.ctx k = s.ctx k) ∧ (∀ k, k ≠ e → t.queue j k = s.queue j k) ∧
        t.mem = s.mem ∧ t.flt = s.flt ∧ t.evc = s.evc) ∧
    ((s.queue j e).state = .disabled → (s.ctx j).state = .opened → ringOk (s.ctx j) (s.queue j e) = false →
      ∃ t, exec (.queueEnable rq j e) s = .next t ∧ t.queue j e = s.queue j e ∧ t.ctxs = s.ctxs) ∧
    ((s.queue j e).state = .draining →
      ∃ t, exec (.queueEnable rq j e) s = .next t ∧ t.queue j e = { s.queue j e with state := .armed } ∧
        t.mem = s.mem)

/-- DISABLE by an operator makes a queue in any state but DISABLED DRAINING and leaves its commands, its ring and its
lists; a queue that was ADMITTING keeps in mind whether a list is in admission, and one that waited has its wait charged.
QUEUE_DRAIN_DONE, once nothing is in flight and no list is in admission: DRAINING becomes DISABLED, and ARMED becomes
ACTIVE with a list under way, ADMITTING with something to admit, else IDLE. Before that, and in any other state, it
changes nothing; DISABLE of a DISABLED queue changes only the audit log. -/
def Obligations.QueueDrains : Prop :=
  ∀ (rq : Requester) (j : JobIx) (e : EngIx) (s u : State) (q : Queue), q = s.queue j e →
    (s.Grants rq .operator →
      u = { s with sec := s.sec.commit (s.auditRec rq .regWrite 0 (queueAddr j e 0x14) 0 2) } →
      (q.state = .disabled → exec (.queueDisable rq j e) s = .next u) ∧
      (q.state = .admitting → exec (.queueDisable rq j e) s = .next (u.modQ j e (fun _ => { q with
        state := .draining
        admitPend := q.held != [] || q.head != q.tail }))) ∧
      (q.state ≠ .disabled → q.state ≠ .admitting → exec (.queueDisable rq j e) s = .next (u.modQ j e (fun _ => { q with
        state := .draining
        waitSince := none
        lists := q.charged s.tick })))) ∧
    (q.inflight = [] → (q.admitPend = false ∨ q.held = [] ∧ q.head = q.tail) →
      (q.state = .draining →
        exec (.queueDrainDone j e) s = .next (s.modQ j e (fun _ => { q with state := .disabled }))) ∧
      (q.state = .armed → exec (.queueDrainDone j e) s = .next (s.modQ j e (fun _ => { q with
        state := if q.curList.isSome then .active else if q.held = [] ∧ q.head = q.tail then .idle else .admitting }))) ∧
      (q.state ≠ .draining → q.state ≠ .armed → exec (.queueDrainDone j e) s = .next s)) ∧
    ((q.inflight ≠ [] ∨ q.admitPend = true ∧ (q.held ≠ [] ∨ q.head ≠ q.tail)) → exec (.queueDrainDone j e) s = .next s)

/-- RESUME and SKIP by an operator on a HALTED queue of a context that is not FAULTED, inside a list and not after ADMIT:
RESUME makes the halting command the next one again, SKIP passes over it; both make the queue ACTIVE. -/
def Obligations.HaltedQueueGoesOn : Prop :=
  ∀ (rq : Requester) (j : JobIx) (e : EngIx) (s : State) (h : HeldCmd) (rest : List HeldCmd),
    s.Grants rq .operator → (s.queue j e).state = .halted → (s.ctx j).state ≠ .faulted →
    (s.queue j e).curList.isSome = true → (s.queue j e).cause ≠ 0x11 → (s.queue j e).held = h :: rest → h.isEnd = false →
    (∃ t, exec (.queueResume rq j e) s = .next t ∧ (t.queue j e).state = .active ∧ (t.queue j e).held = h :: rest ∧
      (t.queue j e).inflight = (s.queue j e).inflight ∧ t.mem = s.mem ∧ (∀ k, k ≠ j → t.ctx k = s.ctx k)) ∧
    (∃ t, exec (.queueSkip rq j e) s = .next t ∧ (t.queue j e).state = .active ∧ (t.queue j e).held = rest ∧
      (t.queue j e).inflight = (s.queue j e).inflight ∧ (t.ctx j).sb = (s.ctx j).sb ∧ t.mem = s.mem ∧
      (∀ k, k ≠ j → t.ctx k = s.ctx k))

/-- DOORBELL by an operator: a TAIL inside the ring is kept and counted, and an IDLE queue goes on, to ACTIVE with a list
under way and else to ADMITTING where something is held or HEAD differs from TAIL; nothing else changes. A TAIL of 2^LOG2
or more, and a DOORBELL without the role, leave only an error record. The write takes effect at once whatever audit
records wait. QUEUE_RING_CONFIG_WRITE by an operator on a DISABLED queue: SIZE takes LOG2, HEAD its index, and the high
word of BASE, with the low word that its requester wrote before, bits 47 to 6 of the address; each discards the held
commands and lists. The low word of BASE is only kept for the requester. A queue in another state keeps its registers. -/
def Obligations.RingRegistersAct : Prop :=
  ∀ (rq : Requester) (addr : Nat) (v low : Word) (j : JobIx) (e : EngIx) (s : State) (q : Queue), q = s.queue j e →
    (s.access rq .operator = .audited → v.field 19 0 < 2 ^ q.log2 →
      ∃ t, exec (.doorbell rq j e v) s = .next t ∧ { t.queue j e with state := q.state } = { q with tail := v.field 19 0 } ∧
        (q.state = .idle → (t.queue j e).state = if q.curList.isSome then .active
          else if q.held = [] ∧ q.head = v.field 19 0 then .idle else .admitting) ∧
        (q.state ≠ .idle → q.state ≠ .active → (t.queue j e).state = q.state) ∧
        (q.state = .active → q.curList.isSome = true → (t.queue j e).state = .active) ∧
        { t.ctx j with queues := (s.ctx j).queues } = { s.ctx j with doorbells := (s.ctx j).doorbells + 1 } ∧
        (∀ k, k ≠ e → t.queue j k = s.queue j k) ∧ (∀ k, k ≠ j → t.ctx k = s.ctx k) ∧ { t with ctxs := s.ctxs } = s) ∧
    ((s.access rq .operator ≠ .audited ∨ 2 ^ q.log2 ≤ v.field 19 0) →
      ∃ t, exec (.doorbell rq j e v) s = .next t ∧ s.Reports t) ∧
    (s.Grants rq .operator → regBase ≤ addr → addr % 4 = 0 → s.pageHeld (addr - regBase) = false →
      let emptied := { q with
        held := [], afterSkip := [], lists := [], curList := none, skipLeft := 0, skipHead := false, admitPend := false
        passed := 0 }
      let becomes := fun (x : Queue) => ∃ t, exec (.queueRingConfigWrite rq addr v) s = .next t ∧ t.queue j e = x ∧
        (∀ k, k ≠ e → t.queue j k = s.queue j k) ∧ { t.ctx j with queues := (s.ctx j).queues } = s.ctx j ∧
        (∀ k, k ≠ j → t.ctx k = s.ctx k) ∧ t.sec.nextSeq = s.sec.nextSeq + 1 ∧
        { t with ctxs := s.ctxs, sec := s.sec, req := s.req } = s
      (regAt (addr - regBase) = some (.qSize j e, false) →
        becomes (if q.state = .disabled then { emptied with log2 := v.toNat % 32 } else q)) ∧
      (regAt (addr - regBase) = some (.qHead j e, false) →
        becomes (if q.state = .disabled then { emptied with head := v.toNat % 2 ^ 20 } else q)) ∧
      (regAt (addr - regBase) = some (.qBase j e, true) →
        latched (s.reqOf rq).writeLatch (latchKey (.qBase j e) (addr - regBase - 4)) = some low →
        becomes (if q.state = .disabled then
          { emptied with base := (v.toNat * 2 ^ 32 + low.toNat) % 2 ^ 48 / 64 * 64 } else q)) ∧
      (regAt (addr - regBase) = some (.qBase j e, false) → becomes q ∧
        ∃ t, exec (.queueRingConfigWrite rq addr v) s = .next t ∧
          latched (t.reqOf rq).writeLatch (latchKey (.qBase j e) (addr - regBase)) = some v))

/-- COMMAND_FETCH of a running queue reads the slot at HEAD, inside one region, when HEAD differs from TAIL: a slot that
reads whole and unpoisoned is held last, as a command with its ring index or as the second slot of the command held last,
and HEAD moves to the next slot of the ring. With HEAD at TAIL it changes nothing. -/
def Obligations.FetchHoldsSlot : Prop :=
  ∀ (j : JobIx) (e : EngIx) (s u : State) (g : Got) (q : Queue), q = s.queue j e → s.runs j = true →
    (q.state = .admitting ∨ q.state = .active ∨ q.state = .waiting) →
    (q.head = q.tail → exec (.commandFetch j e) s = .next s) ∧
    (q.head ≠ q.tail → ((s.ctx j).regionOf (q.base + 64 * (q.head % 2 ^ q.log2)) 64).isSome = true →
      readMem s (some j.val) (q.base + 64 * (q.head % 2 ^ q.log2)) 64 .stream = (g, u) → g.waits = false →
      g.poison = false → q.plain →
      ∃ t, exec (.commandFetch j e) s = .next t ∧
        ((∀ h, q.held.getLast? = some h → h.whole = true) → (t.queue j e).held = q.held ++ [⟨g.data, q.head, none⟩]) ∧
        (∀ h l, q.held = l ++ [h] → h.whole = false → (t.queue j e).held = l ++ [{ h with bytes := h.bytes ++ g.data }]) ∧
        (t.queue j e).head = (q.head + 1) % 2 ^ q.log2 ∧ (t.queue j e).tail = q.tail ∧
        (t.queue j e).inflight = q.inflight ∧ (t.queue j e).lists = q.lists ∧
        (∀ k, k ≠ e → t.queue j k = s.queue j k) ∧ (∀ k, k ≠ j → t.ctx k = s.ctx k) ∧ t.mem = u.mem ∧
        { t with ctxs := s.ctxs, mem := s.mem, hdies := s.hdies } = s)

/-- SIGNAL adds to its scoreboard entry modulo 2^32, or sets it zero-extended, or does nothing (R266, Table 8-5).
COMMAND_COMPLETE on a command of an OPEN context whose every share is done (for an update, with none left waiting): it
leaves the queue; its parts of scale records are written (`State.writeAmax`); its layer's entry, its own scoreboard and
then its SIGNAL are set; event j is raised where the command asks for it; the leases of the command that are not being
revoked end, and the Cooper or the channel that it held is free. A command with a share still to run stays. -/
def Obligations.CompletionSignals : Prop :=
  ∀ (j : JobIx) (e : EngIx) (k : Nat) (s : State),
    (∀ (c : Ctx) (b : List Byte) (i : Fin 64), i = Fin.ofNat 64 ((Slot.signal b).field 5 0) →
      ((Slot.signal b).field 7 6 = 1 →
        (c.signalled b).sb[i] = BitVec.ofNat 32 (c.sb[i].toNat + (Slot.signal b).field 31 8)) ∧
      ((Slot.signal b).field 7 6 = 2 → (c.signalled b).sb[i].toNat = (Slot.signal b).field 31 8) ∧
      ((Slot.signal b).field 7 6 = 0 → c.signalled b = c) ∧
      (∀ k, k ≠ i → (c.signalled b).sb[k] = c.sb[k])) ∧
    (∀ (f : Flight) (w : State) (c : Ctx), (s.queue j e).inflight[k]? = some f →
      (f.shares ≠ 0 → exec (.commandComplete j e k) s = .next s) ∧
      (f.shares = 0 → s.farIdle j e f.fid = true → (s.ctx j).state = .opened →
        (e = 4 → ∀ r, s.cpr = some r → r.left = []) →
        w = f.amax.foldl (fun s p => s.writeAmax j (cmdStep f.bytes) p) s →
        c = ((s.ctx j).layerWrite f.bytes f.level) →
        ∃ t, exec (.commandComplete j e k) s = .next t ∧ (t.queue j e).inflight = (s.queue j e).inflight.eraseIdx k ∧
          (t.queue j e).held = (s.queue j e).held ∧
          (f.board = none → (t.ctx j).sb = (c.signalled f.bytes).sb) ∧
          (∀ i n, f.board = some (i, n) → (t.ctx j).sb =
            ({ c with sb := c.sb.set (Fin.ofNat 64 i) (BitVec.ofNat 32 n) }.signalled f.bytes).sb) ∧
          (t.ctx j).jobStatus = (s.ctx j).jobStatus ∧
          (Slot.event f.bytes = true → j.val ∈ t.evc.pend) ∧ (Slot.event f.bytes = false → t.evc = s.evc) ∧
          t.flt = { s.flt with
            leases := s.flt.leases.filter (fun l => !([1, 3, 4, 5].contains l.kind && l.job == j.val && l.fid == f.fid &&
              l.revoking.isNone)) } ∧
          (e = 4 → t.cpr = none) ∧ (e ≠ 4 → t.cpr = s.cpr) ∧
          (e = 3 → ∀ r ∈ t.cols, ¬(r.job = j.val ∧ r.fid = f.fid)) ∧ (e ≠ 3 → t.cols = s.cols ∧ t.mem = w.mem) ∧
          (∀ i, i ≠ j → t.ctx i = s.ctx i) ∧ (∀ i, i ≠ e → t.queue j i = s.queue j i) ∧
          t.blocks = s.blocks ∧ t.passes = s.passes ∧ t.sdies = s.sdies ∧ t.sec = s.sec ∧ t.cfg = s.cfg))

/-- A command at the front of its queue, whole, in order and allowed by its encoding, whose WAIT is not met stays there and
makes the queue WAITING from that tick on, or from the tick an earlier wait began; one with FENCE, or a BRANCH, changes
nothing while a command of its queue is in flight. COMMAND_WAIT_MET makes a WAITING queue whose front command's WAIT is
met ACTIVE and charges the ticks it waited to the account of the wait; otherwise it changes nothing. -/
def Obligations.WaitsHoldCommands : Prop :=
  ∀ (j : JobIx) (e : EngIx) (s : State) (q : Queue) (h : HeldCmd), q = s.queue j e → q.held.head? = some h →
    (∀ (c : Instr) (op : Nat), (c, op) ∈ queueCommands j e → s.runs j = true → (q.state = .active ∨ q.state = .waiting) →
      h.whole = true → s.issued j e = true → q.curList.isSome = true → opcodeRefused e.val h.bytes = false →
      Slot.jobOf h.bytes = j.val → opcodeOf h.bytes = op →
      ((Slot.fence h.bytes = true ∨ op = 3) → q.inflight ≠ [] → exec c s = .next s) ∧
      (((Slot.fence h.bytes = true ∨ op = 3) → q.inflight = []) → q.passed = 0 → waitMet (s.ctx j) h.bytes = false →
        exec c s = .next (s.modQ j e (fun _ => { q with
          state := .waiting
          waitSince := some (q.waitSince.getD (5, s.tick)) })))) ∧
    (q.state = .waiting → waitMet (s.ctx j) h.bytes = true →
      exec (.commandWaitMet j e) s = .next (s.modQ j e (fun _ => { q with
        state := .active
        waitSince := none
        lists := q.charged s.tick
        passed := max q.passed 1 }))) ∧
    ((q.state ≠ .waiting ∨ waitMet (s.ctx j) h.bytes = false) → exec (.commandWaitMet j e) s = .next s)

/-! ### Control commands -/

/-- NOP and the LIST_HEAD of an admitted list leave their queue complete, with their SIGNAL and their event and no other
effect on the job; a LIST_HEAD where a list must begin sends its queue to admission. BRANCH whose PRED holds, and that
does not end its list, passes over the next SKIP commands that are held, none of which ends it, and remembers how many
more to pass over. CHAIN whose PRED holds, not of a run itself, whose run of 64-byte slots is aligned, not empty, inside
one region and reads whole, puts the run's commands before those held behind it. -/
def Obligations.ControlCommandsComplete : Prop :=
  ∀ (j : JobIx) (e : EngIx) (s u : State) (h : HeldCmd) (rest : List HeldCmd) (n : Nat),
    (s.queue j e).held = h :: rest →
    let completes := fun (c : Instr) (held : List HeldCmd) (skip : Nat) (mem : MemSys) =>
      ∃ t, exec c s = .next t ∧ (t.queue j e).held = held ∧ (t.queue j e).skipLeft = skip ∧
        (t.queue j e).inflight = (s.queue j e).inflight ∧ (t.ctx j).sb = ((s.ctx j).signalled h.bytes).sb ∧
        (t.ctx j).jobStatus = (s.ctx j).jobStatus ∧ (∀ k, k ≠ e → t.queue j k = s.queue j k) ∧
        (∀ k, k ≠ j → t.ctx k = s.ctx k) ∧ (Slot.event h.bytes = true → j.val ∈ t.evc.pend) ∧
        (Slot.event h.bytes = false → t.evc = s.evc) ∧ t.mem = mem ∧ t.cdies = s.cdies ∧ t.sdies = s.sdies ∧
        t.flt = s.flt ∧ t.blocks = s.blocks
    (∀ c op, (c = Instr.nop j e ∧ op = 0 ∨ c = Instr.listHead j e ∧ op = 1) → s.FrontReady j e op h.bytes →
      (s.queue j e).plain → completes c rest 0 s.mem) ∧
    (s.runs j = true → (s.queue j e).curList = none → ((s.queue j e).state = .idle ∨ (s.queue j e).state = .active) →
      h.isHead = true → exec (.listHead j e) s =
        .next (s.modQ j e (fun _ => { s.queue j e with state := .admitting }))) ∧
    (s.FrontReady j e 3 h.bytes → predHolds (s.ctx j) h.bytes = true → h.isEnd = false →
      (∀ x ∈ rest, x.whole = true ∧ x.isEnd = false) → (s.queue j e).plain → n = bitsOf (Slot.imm h.bytes) 23 0 →
      completes (.branch j e) (rest.drop n) (n - rest.length) s.mem) ∧
    (∀ (bs : List (List Byte)), s.FrontReady j e 2 h.bytes → predHolds (s.ctx j) h.bytes = true → h.runIdx = none →
      (s.queue j e).plain → n = bitsOf (Slot.imm h.bytes) 23 0 → n ≠ 0 → Slot.d h.bytes 0 % 64 = 0 →
      ((s.ctx j).regionOf (Slot.d h.bytes 0) (64 * n)).isSome = true →
      State.readRun j (Slot.d h.bytes 0) n 0 (s.begins j e h.bytes) [] = some (.ok (bs, u)) →
      completes (.chain j e) (runCommands h.ringIdx (n + 1) 0 bs ++ rest) 0 u.mem)

/-! ### The engines' commands -/

/-- A command of an engine, whole, in order and with its WAIT met at the front of its queue. Where its predicate is true it
does what its own decode finds (`State.BegunAs`): it is started and in flight with its operands; or complete at once with
its SIGNAL; or rejected, its queue HALTED with the cause and the command still held; or it faults its job; or it stays
where it is. Where its predicate is false it leaves the queue, its SIGNAL is applied, and nothing else of the job, of
memory or of another context changes. -/
def Obligations.EngineCommandsRun : Prop :=
  ∀ (j : JobIx) (s : State) (b : List Byte) (c : Instr) (e : EngIx) (op : Nat)
    (f : State → List Byte → Nat → Begin), (c, e, op, f) ∈ engineCommands j → s.FrontReady j e op b →
    (predHolds (s.ctx j) b = true →
      ∃ t, exec c s = .next t ∧
        t.BegunAs (s.begins j e b) j e (s.ctx j).nextFid b (f (s.begins j e b) b (s.ctx j).nextFid)) ∧
    (predHolds (s.ctx j) b = false → (s.queue j e).passed < 2 → (s.queue j e).plain → Slot.event b = false →
      ∃ t, exec c s = .next t ∧ (t.queue j e).held = (s.queue j e).held.drop 1 ∧
        (t.queue j e).inflight = (s.queue j e).inflight ∧ (t.ctx j).sb = ((s.ctx j).signalled b).sb ∧
        (t.ctx j).nextFid = (s.ctx j).nextFid ∧ (t.ctx j).jobStatus = (s.ctx j).jobStatus ∧
        (∀ k, k ≠ e → t.queue j k = s.queue j k) ∧ (∀ k, k ≠ j → t.ctx k = s.ctx k) ∧ { t with ctxs := s.ctxs } = s)

/-- ELEMENTWISE, NORM, SOFTMAX, QUANTISE and ROUTE_TOPK complete: one that passes its decode and has an empty input or output
is complete at once, with its SIGNAL and no write (R191); any other runs its work items, one share on each C-die, and
stands in flight with no share left to run, memory and the C-dies as its items have left them. -/
def Obligations.VectorCommandsComplete : Prop :=
  ∀ (j : JobIx) (s u r : State) (b : List Byte) (c : Instr) (op fid : Nat) (dies : List CIx) (ds : List (Option Desc))
    (p : VecPlan) (row : Bool), (c, 1, op, State.vector j) ∈ engineCommands j → fid = (s.ctx j).nextFid → p = vecPlan b ds →
    s.Passes j 1 op b dies (vecUses b) (fun _ ds => vecChecks b (vecPlan b ds)) ds u →
    u.fixRow j (cmdStep b) = (row, r) →
    ((p.x.empty = true ∨ p.o.empty = true) →
      ∃ t, exec c s = .next t ∧ t.BegunAs (s.begins j 1 b) j 1 fid b (.done r)) ∧
    (∀ (x : Env), op = 0x24 → p.x.empty = false → p.o.empty = false →
      runWhole 1 3 vuUnits ((List.range p.x.rows).map p.x.coords) (fun _ l => Eng.items l (Eng.routeItem b p row))
        (fun _ => CDie.wakeVec) dies (envOf r j b fid) = (x, none) → x.waits = false →
      ∃ t, exec c s = .next t ∧ t.Started x.s j 1 fid b { shares := 0, amax := x.amax, dies := x.dies }) ∧
    (∀ (vi : VecIn) (w x : Env), op ≠ 0x24 → p.x.empty = false → p.o.empty = false →
      (Eng.vecIn b p row).run (envOf r j b fid) = (vi, w) → w.settled →
      runWhole 1 3 vuUnits (rowItems vi.o) (fun n l => Eng.items l (Eng.vecItem b vi n)) (fun _ => CDie.wakeVec) dies
        (envOf w.s j b fid) = (x, none) → x.waits = false →
      ∃ t, exec c s = .next t ∧ t.Started x.s j 1 fid b { shares := 0, amax := x.amax, dies := x.dies })

/-- COPY and WINDOW complete: one that passes its decode, that its overlap does not reject and that has an empty output is
complete at once (R191, R215 to R217); any other moves its rows, one share on each C-die, a COPY through its staging area
where it must be staged, and stands in flight with no share left to run, memory as its moves have left it. -/
def Obligations.CopiesComplete : Prop :=
  ∀ (j : JobIx) (s u r : State) (b : List Byte) (fid : Nat) (dies : List CIx) (ds : List (Option Desc)) (x y : Desc)
    (row : Bool), fid = (s.ctx j).nextFid → x = operand ds 0 → y = operand ds 1 → u.fixRow j (cmdStep b) = (row, r) →
    (∀ (ov : Overlap), s.Passes j 2 0x30 b dies (copyUses b)
        (fun _ ds => copyOwn (operand ds 0) (operand ds 1) (ds.getD 2 none)) ds u →
      ov = overlapOf ((s.begins j 2 b).ctx j) x y (ds.getD 2 none) (firstDie dies) → ov ≠ .rejected →
      (ov = .staged → oneDie b = []) →
      (y.empty = true → ∃ t, exec (.copy j) s = .next t ∧ t.BegunAs (s.begins j 2 b) j 2 fid b (.done r)) ∧
      (∀ (cc : CopyCmd) (snap : List HeldRow) (w z : Env), y.empty = false →
        (Eng.copyPrep b row ov x y (ds.getD 2 none)).run (envOf r j b fid) = ((cc, snap), w) → w.settled →
        copyRun ov cc snap y dies (envOf (w.staged ov (firstDie dies) x (ds.getD 2 none)).s j b fid) = (z, none) →
        z.waits = false →
        ∃ t, exec (.copy j) s = .next t ∧
          t.Started z.s j 2 fid b { shares := 0, amax := z.amax, ops := [some cc.x, some cc.o], dies := z.dies })) ∧
    (s.Passes j 2 0x31 b dies (windowUses b) (fun _ ds => oneDie b ++
        windowChecks (operand ds 0) (operand ds 1) (spatials b) (s.begins j 2 b).cdies[firstDie dies]) ds u →
      (x.empty = true ∨ y.empty = true ∨ rangesMeet (footprint x) (footprint y) = false) →
      (y.empty = true → ∃ t, exec (.window j) s = .next t ∧
        t.BegunAs (s.begins j 2 b) j 2 fid b (.done (r.countXform (firstDie dies) 15 0))) ∧
      (∀ (xs ys : Scaled) (w z : Env), y.empty = false → windowUnits r.cdies[firstDie dies] ≠ [] →
        (Eng.scaledPair b row x y).run (envOf r j b fid) = ((xs, ys), w) → w.settled →
        windowRun b xs ys (firstDie dies) (envOf w.s j b fid) = (z, none) → z.waits = false →
        ∃ t, exec (.window j) s = .next t ∧
          t.Started z.s j 2 fid b { shares := 0, amax := z.amax, ops := [some xs, some ys], dies := z.dies }))

/-- GATHER, SCATTER, SCATTER_ADD, SEGMENT_SUM and CSR_GATHER complete: one that passes its decode, whose row pointers and
count word read whole and whose sides hold rows enough for its entries, is complete at once where its destination is
empty (R191); else its entries are moved, one share on each C-die, and it stands in flight with no share left to run,
memory as its moves have left it.
DISPATCH_BUILD and TOUCH_BUILD complete: one that passes its decode runs on one copy unit of its first C-die and stands in
flight with no share left to run, memory as the unit has left it; a DISPATCH_BUILD with SET_SB has the number of kept
assignments for its scoreboard entry, and a TOUCH_BUILD holds a lease on its bitmap (R235, R236, R242, R243, R436). -/
def Obligations.IndexedMovesAndBuildsComplete : Prop :=
  (∀ (j : JobIx) (s u r : State) (b : List Byte) (c : Instr) (op fid n : Nat) (dies : List CIx) (ds : List (Option Desc))
      (x : Indexed) (rows : Option (List Nat)) (v : Env) (row : Bool), (c, 2, op, State.indexed j) ∈ engineCommands j →
      fid = (s.ctx j).nextFid → x = indexedOf b ds →
      s.Passes j 2 op b dies (indexedUses b) (fun _ ds => indexedOwn ((s.begins j 2 b).ctx j) b ds) ds u →
      (Eng.indexedPrep b ds).run (envOf u j b fid) = ((rows, n), v) → v.settled → x.short b n = false →
      v.s.fixRow j (cmdStep b) = (row, r) →
      (x.c.d.empty = true → ∃ t, exec c s = .next t ∧ t.BegunAs (s.begins j 2 b) j 2 fid b (.done r)) ∧
      (∀ (src dst : Scaled) (w z : Env), x.c.d.empty = false →
        (Eng.scaledPair b row x.c.s x.c.d).run (envOf r j b fid) = ((src, dst), w) → w.settled →
        indexedRun { x with c := copyCmd op src dst, rows := rows } n dies (envOf w.s j b fid) = (z, none) → z.waits = false →
        ∃ t, exec c s = .next t ∧
          t.Started z.s j 2 fid b { shares := 0, amax := z.amax, ops := [some src, some dst], dies := z.dies })) ∧
  (∀ (j : JobIx) (s u r : State) (b : List Byte) (fid : Nat) (dies : List CIx) (ds : List (Option Desc)) (row : Bool)
      (z : Env), fid = (s.ctx j).nextFid → u.fixRow j (cmdStep b) = (row, r) → z.waits = false →
      (∀ (n : Nat), s.Passes j 2 0x37 b dies (dispatchUses b)
          (fun _ ds => dispatchOwn ((s.begins j 2 b).ctx j) b (dispatchOf b ds)) ds u →
        oneUnit (firstDie dies) b (Eng.dispatch (dispatchOf b ds)) (envOf r j b fid) = (n, z, none) →
        ∃ t, exec (.dispatchBuild j) s = .next t ∧ t.Started z.s j 2 fid b
          { shares := 0, amax := z.amax, dies := z.dies, board :=
              if (Slot.imm b).testBit 41 then some (bitsOf (Slot.imm b) 40 35, n) else none }) ∧
      (∀ (x : TouchCmd), x = touchOf b ds → s.Passes j 2 0x38 b dies (touchUses b)
          (fun _ ds => touchOwn ((s.begins j 2 b).ctx j) b (touchOf b ds)) ds u →
        oneUnit (firstDie dies) b (Eng.touchBuild x.touch x.slots x.ins x.bitmap x.e x.count)
          (envOf (r.grant 1 j.val (unitId 1 (firstDie dies).val 2 0) fid x.bitmap.base (x.bitmap.ext 0)) j b fid) =
          ((), z, none) →
        ∃ t, exec (.touchBuild j) s = .next t ∧ t.Started z.s j 2 fid b { shares := 0, amax := z.amax, dies := z.dies }))

/-- MATMUL, MATMUL_GROUPED, SIDE_DOWN and SIDE_DOWN_GROUPED start: one that passes its decode and has an empty output is complete
at once (R191). Else a matmul is cut into its grid of blocks, the blocks and passes of each C-die's share put before its
tiles (`State.putBlocks`), and stands in flight with one share for each block that is not kept; LONG_SUM is set past
2^24 products (R98). A side-only command runs its bands of 256 rows, one share on each C-die, and stands in flight with
no share left to run. -/
def Obligations.LoomCommandsStart : Prop :=
  ∀ (j : JobIx) (s u r : State) (b : List Byte) (c : Instr) (op fid : Nat) (dies : List CIx) (ds : List (Option Desc))
    (row : Bool), fid = (s.ctx j).nextFid → u.fixRow j (cmdStep b) = (row, r) →
    (∀ (m : Mat), (c, 0, op, State.matmul j) ∈ engineCommands j → m = matOf b ds →
      s.Passes j 0 op b dies (matUses b) (fun _ ds => matChecks (matOf b ds)) ds u →
      (m.o.d.empty = true →
        ∃ t, exec c s = .next t ∧ t.BegunAs (s.begins j 0 b) j 0 fid b (.done (r.matBegin j m))) ∧
      (∀ (ops : List (Option Scaled)) (grid : List BlockWork) (words : List (Nat × Nat)) (v : Env) (z : State) (n : Nat),
        m.o.d.empty = false →
        (Eng.matPrep b ds row j fid).run (envOf (r.matBegin j m) j b fid) = ((ops, grid, words), v) → v.settled →
        v.s.putBlocks j fid (Mat.of b ops) dies grid ((Mat.of b ops).keeps words grid) = (z, n) →
        ∃ t, exec c s = .next t ∧ t.Started z j 0 fid b { shares := n, ops := ops } ∧
          (2 ^ 24 < m.k → (t.ctx j).jobStatus.bit jsLongSum = true))) ∧
    ((c, 0, op, State.sideDown j) ∈ engineCommands j →
      s.Passes j 0 op b dies (sideUses b) (fun _ ds =>
        sideChecks b (operand ds 0) (operand ds 1) ((ds.drop 2).map (fun d => d.getD default))) ds u →
      ((operand ds 1).empty = true → ∃ t, exec c s = .next t ∧ t.BegunAs (s.begins j 0 b) j 0 fid b (.done r)) ∧
      (∀ (xs : List Scaled) (segs : List LoomSeg) (v z : Env), (operand ds 1).empty = false →
        (Eng.sidePrep b (operand ds 0) (operand ds 1) ((ds.drop 2).map (fun d => d.getD default)) row).run
          (envOf r j b fid) = ((xs, segs), v) → v.settled →
        runWhole 0 1 tileUnits (sideItems segs)
          (fun n l => Eng.items l (Eng.sideBlock b (xs.getD 0 default) (xs.getD 1 default) (xs.drop 2) n))
          (fun _ d => d) dies (envOf v.s j b fid) = (z, none) → z.waits = false →
        ∃ t, exec c s = .next t ∧ t.Started z.s j 0 fid b { shares := 0, amax := z.amax, dies := z.dies }))

/-- The update commands and the collectives start. An update that passes its decode, with no other in execution and no S-die
held, is complete at once where every output is empty (R191); else it is the one update in execution, with the shares
that its Coopers and stacks let run done and the others left waiting (R348), its step begun, a share open for the later
phases of the factored rule alone, and each S-die's work slot leased. A collective that passes its decode, whose channel
no collective of its context holds, is complete at once with nothing to write; else it holds its channel, has sent what
it can, and keeps one share open until it has finished. While its channel is held, it stays. -/
def Obligations.UpdatesAndCollectivesStart : Prop :=
  ∀ (j : JobIx) (s u r : State) (b : List Byte) (c : Instr) (op fid : Nat) (ds : List (Option Desc)) (row : Bool),
    fid = (s.ctx j).nextFid →
    ((c, 4, op, State.update j) ∈ engineCommands j → s.cpr = none → (∀ st : SIx, s.sdies[st].held = false) →
      s.Passes j 4 op b [] (updUses b) (fun w ds => updChecks w (updOf b ds)) ds u → u.fixRow j (cmdStep b) = (row, r) →
      ((updOf b ds).allEmpty = true →
        ∃ t, exec c s = .next t ∧ t.BegunAs (s.begins j 4 b) j 4 fid b (.done r)) ∧
      (∀ (ops : List (Option Scaled)) (left : List (Nat × Nat)) (v : Env), (updOf b ds).allEmpty = false →
        ((updOf b ds).op = 0x52 → r.sdies.all SDie.cooperRuns = true) →
        (Eng.updPrep b ds row).run (envOf r j b fid) = ((ops, left), v) → v.settled →
        ∃ t, exec c s = .next t ∧
          t.Started ((List.range 12).foldl (fun s st => s.grantCooper j (Upd.of b ops) fid st)
            { (v.s.modCtx j (fun x => { x with updStarted := cmdStep b :: x.updStarted })) with
              cpr := some ⟨j.val, fid, op, 0, left⟩ }) j 4 fid b { shares := if op = 0x52 then 1 else 0, ops := ops })) ∧
    ((c, 3, op, State.collective j) ∈ engineCommands j →
      (s.channelBusy j b = true → s.FrontReady j 3 op b → predHolds (s.ctx j) b = true →
        ∃ t, exec c s = .next t ∧ t.BegunAs (s.begins j 3 b) j 3 fid b .stays) ∧
      (∀ (x : ColPlan), s.channelBusy j b = false → (∀ l : LIx, s.ldies[l].held = false) →
        x = colOf ((s.begins j 3 b).ctx j) b ds →
        s.Passes j 3 op b [] (colUses ((s.begins j 3 b).ctx j) b) (fun _ ds => colChecks ((s.begins j 3 b).ctx j)
          (colOf ((s.begins j 3 b).ctx j) b ds) (ds.map Option.isSome)) ds u → u.fixRow j (cmdStep b) = (row, r) →
        (x.idle b = true → ∃ t, exec c s = .next t ∧ t.BegunAs (s.begins j 3 b) j 3 fid b (.done r)) ∧
        (∀ (ops : List (Option Scaled)) (q : ColRun) (v : Env), x.idle b = false →
          (Eng.colPrep ((s.begins j 3 b).ctx j) b ds row (x.fresh j b fid r.tick)).run
            (envOf (r.colLease j fid x (x.fresh j b fid r.tick)) j b fid) = ((ops, q), v) → v.settled →
          ∃ t, exec c s = .next t ∧
            t.Started (State.modCtx { v.s with cols := v.s.cols ++ [q] } j
              (fun y => { y with colBusy := y.colBusy.setField q.ch q.ch 1 })) j 3 fid b
              { shares := if q.finished then 0 else 1, amax := v.amax, ops := ops })))

/-- COOPER_PHASE_ADVANCE: when every S-die has finished a phase of a factored update of a running context and the next one
runs without a wait or a fault, the phase counts up by one, and the last phase leaves no share open; memory, S-dies and
C-dies are as the phase has left them. With no update in execution, or after the last phase, it changes nothing. -/
def Obligations.CooperPhasesAdvance : Prop :=
  ∀ (j : JobIx) (s : State),
    (∀ (r : CprRun) (f : Flight) (v : Env), s.cpr = some r → s.flight j 4 r.fid = some f →
      r.job = j.val → r.opcode = 0x52 → r.phase < 3 → s.runs j = true →
      s.sdies.all (fun d => !d.held && d.cprEng.goes) = true →
      ((Eng.updPhase (Upd.of f.bytes f.ops) (r.phase + 1)).run (envOf s j f.bytes r.fid)).2 = v → v.settled →
      ∃ t, exec (.cooperPhaseAdvance j) s = .next t ∧ t.cpr = some { r with phase := r.phase + 1 } ∧ t.mem = v.s.mem ∧
        t.sdies = v.s.sdies ∧ t.cdies = v.s.cdies ∧ (t.ctx j).sb = (v.s.ctx j).sb ∧
        (∀ k, k ≠ j → t.ctx k = v.s.ctx k) ∧ (∀ k, k ≠ 4 → t.queue j k = v.s.queue j k) ∧
        (t.queue j 4).inflight = modFirst (fun x => x.fid == r.fid)
          (fun x => { x with shares := if r.phase = 2 then 0 else 1 }) (v.s.queue j 4).inflight ∧
        t.evc = v.s.evc ∧ t.blocks = v.s.blocks) ∧
    ((s.cpr = none ∨ ∃ r, s.cpr = some r ∧ (r.job ≠ j.val ∨ 3 ≤ r.phase)) → exec (.cooperPhaseAdvance j) s = .next s)

/-! ### Tiles -/

/-- A pass, or a queued repeat, that a service tile takes in its turn (R85, R95, R146, R147, R305). The tile reports it, and
memory is as the pass left it. One that adds its sums into P is counted and its block has one pass more in P; one that
trouble drops leaves its repeats, one level up, before every other pass. Groups skipped, trouble and stalls are counted
either way; no other die, no S-die, no other context and no other queue changes. A pass that only a gated tile can take
binds to it and wakes it (R114); a waking tile runs nothing. -/
def Obligations.PassesAddIntoP : Prop :=
  ∀ (c : Instr) (d : CIx) (t : TileIx) (k : Nat) (s : State) (p : PassWork),
    (c = .loomPass d t k ∧ nthWhere (fun q => q.die == d.val && q.repeats == 0) k s.passes = some p ∨
     c = .passRepeat d t k ∧ nthWhere (fun q => q.die == d.val && q.repeats != 0) k s.passes = some p) →
    s.runs (Fin.ofNat 64 p.job) = true → (s.cdies[d]).loomRuns = true → (s.cdies[d]).tiles[t].role = .service →
    (p.tile = some t.val ∨ p.tile = none ∧ (p.repeats ≠ 0 ∨ s.isNext p = true)) → s.inOrder p = true →
    s.tileFree d t p = true → s.partialRevoked p = false → s.placeFree p = true →
    (∀ (j : JobIx) (f : Flight) (m : Mat) (x : BlockWork) (a : Attempt) (v : Env), j = Fin.ofNat 64 p.job →
      m = Mat.of f.bytes f.ops → (s.cdies[d]).tiles[t].state.takes = true →
      s.flight j 0 p.fid = some f → s.blockOf p = some x →
      (Eng.pass m d t x p ((s.cdies[d]).loomCtrl.bit 1)).run
        { envOf s j f.bytes p.fid with gen := f.genOf (s.ctx j).seed (unitId 1 d.val 1 t.val), die := d.val } = (a, v) →
      v.settled →
      ∃ u, exec c s = .next u ∧ u.mem = v.s.mem ∧ u.sdies = v.s.sdies ∧ u.tick = v.s.tick ∧
        (∀ i : CIx, i ≠ d → u.cdies[i] = v.s.cdies[i]) ∧ (∀ i, i ≠ j → u.ctx i = v.s.ctx i) ∧
        (∀ e, e ≠ 0 → u.queue j e = v.s.queue j e) ∧
        (u.cdies[d]).tiles[t].cmd = cmdId f.bytes ∧ (u.cdies[d]).tiles[t].step = cmdStep f.bytes ∧
        (u.cdies[d]).tiles[t].job = some j.val ∧ (u.cdies[d]).tiles[t].level = p.level ∧
        (u.cdies[d]).passCnt = ((v.s.cdies[d]).passCnt + if a.added then 1 else 0) % 2 ^ 64 ∧
        (u.cdies[d]).stallCnt = ((v.s.cdies[d]).stallCnt + a.stall) % 2 ^ 64 ∧
        (u.cdies[d]).skipCnt = (v.s.cdies[d]).skipCnt + BitVec.ofNat 32 a.skips ∧
        (u.cdies[d]).troubleCnt = ((v.s.cdies[d]).countTrouble a).troubleCnt ∧
        (a.added = true → u.blocks = modFirst (fun y => y.job == x.job && y.fid == x.fid && y.idx == x.idx)
          (fun y => y.seen a t) v.s.blocks) ∧
        (a.added = false → ∃ rest, u.passes = p.again t m.unit (!a.nonfinite) ++ rest)) ∧
    ((s.cdies[d]).tiles[t].state = .off → s.awakeFor d p = false →
      ∃ u, exec c s = .next u ∧ (u.cdies[d]).tiles[t] = { (s.cdies[d]).tiles[t] with state := .waking } ∧
        (∀ i : TileIx, i ≠ t → (u.cdies[d]).tiles[i] = (s.cdies[d]).tiles[i]) ∧
        (∀ q ∈ u.passes, q = { p with tile := q.tile } → q.tile = some t.val) ∧
        (∀ i : CIx, i ≠ d → u.cdies[i] = s.cdies[i]) ∧ { u with cdies := s.cdies, passes := s.passes } = s) ∧
    (((s.cdies[d]).tiles[t].state = .waking ∨ (s.cdies[d]).tiles[t].state = .off ∧ s.awakeFor d p = true) →
      exec c s = .next s)

/-- BLOCK_FINISH of a block whose every pass has reached P, on a tile that may take it. In a command that writes whole bands
of rows, the block waits, finished, while another of its band is not; else the blocks of the band, or the one block, are
written: they leave the list of blocks, their command has as many shares fewer to run, the clocks of second
quantisations come off its reserve, FLAG_CNT counts their NAN and OVF flags, and memory is as the finish left it; no
pass, no S-die, no other C-die and no other context changes (R96, R120, R172; the bands are log 47). -/
def Obligations.BlockFinishWritesBlock : Prop :=
  ∀ (d : CIx) (t : TileIx) (k : Nat) (s : State) (x : BlockWork) (f : Flight) (j : JobIx) (m : Mat),
    j = Fin.ofNat 64 x.job → m = Mat.of f.bytes f.ops →
    nthWhere (fun y => y.die == d.val && y.arrived == y.passes && !y.finished) k s.blocks = some x →
    s.runs j = true → (s.cdies[d]).loomRuns = true → (s.cdies[d]).tiles[t].role = .service →
    (s.cdies[d]).tiles[t].state.takes = true → (x.tile = some t.val ∨ x.tile = none) → s.flight j 0 x.fid = some f →
    (m.banded = true → (∃ y ∈ s.bandOf x, y.idx ≠ x.idx ∧ y.finished = false) →
      exec (.blockFinish d t k) s = .next ((s.modBlock x (fun y => { y with finished := true })).settleTile d t false)) ∧
    (∀ (bs : List BlockWork) (fs : List LoomFlags) (n : Nat) (v : Env),
      (m.banded = true ∧ (∀ y ∈ s.bandOf x, y.idx = x.idx ∨ y.finished = true) ∧ bs = s.bandOf x ∨
        m.banded = false ∧ bs = [x]) →
      (Eng.finish m d.val bs).run { envOf s j f.bytes x.fid with
          gen := f.genOf (s.ctx j).seed (unitId 1 d.val 1 t.val), die := d.val, amax := f.amax } = ((fs, n), v) →
      v.settled →
      ∃ u, exec (.blockFinish d t k) s = .next u ∧ u.mem = v.s.mem ∧
        u.blocks = v.s.blocks.filter (fun y => !bs.any (fun z => z.job == y.job && z.fid == y.fid && z.idx == y.idx)) ∧
        (u.queue j 0).inflight = modFirst (fun y => y.fid == x.fid) (fun y =>
          { y.putGen (unitId 1 d.val 1 t.val) v.gen with shares := y.shares - bs.length, amax := v.amax })
          (v.s.queue j 0).inflight ∧
        (u.queue j 0).lists = ((v.s.queue j 0).fallback f.list n n).lists ∧
        (u.cdies[d]).flagCnt = ((v.s.cdies[d]).flagCnt.bump 31 16 (fs.filter (·.nan)).length).bump 15 0
          (fs.filter (·.ovf)).length ∧
        u.passes = v.s.passes ∧ u.sdies = v.s.sdies ∧ u.tick = v.s.tick ∧
        (∀ i : CIx, i ≠ d → u.cdies[i] = v.s.cdies[i]) ∧ (∀ i, i ≠ j → u.ctx i = v.s.ctx i))

/-- A tile that wakes is IDLE, and TILE_WAKE_DONE acts on no other; a tile IDLE for HYST ticks with GATE_EN set is gated OFF,
and no other; each changes that tile alone (R112, R115). STORM_TRIP acts when a window's count exceeds LIMIT, once per window
and with EXTRA not 0: the storm is ACTIVE and counted, its end covers the step of the repeat plus EXTRA, the job status
and event 192 + j say so; else it changes nothing. STORM_WINDOW_END starts the count of a window that has passed anew, and
leaves the one under way (R153, R154). -/
def Obligations.TilesAndStormsFollowTheirRules : Prop :=
  ∀ (d : CIx) (t : TileIx) (j : JobIx) (s : State),
    ((s.cdies[d]).tiles[t].state = .waking →
      exec (.tileWakeDone d t) s =
        .next (s.modTile d t (fun _ => { (s.cdies[d]).tiles[t] with state := .idle, idleSince := s.tick }))) ∧
    ((s.cdies[d]).tiles[t].state ≠ .waking → exec (.tileWakeDone d t) s = .next s) ∧
    ((s.cdies[d]).tiles[t].state = .idle → (s.cdies[d]).loomCtrl.bit 0 = true →
      (s.cdies[d]).tiles[t].idleSince + (s.cdies[d]).loomCtrl.field 23 8 ≤ s.tick →
      exec (.tileGate d t) s = .next (s.modTile d t (fun _ => { (s.cdies[d]).tiles[t] with state := .off }))) ∧
    (((s.cdies[d]).tiles[t].state ≠ .idle ∨ (s.cdies[d]).loomCtrl.bit 0 = false ∨
        s.tick < (s.cdies[d]).tiles[t].idleSince + (s.cdies[d]).loomCtrl.field 23 8) →
      exec (.tileGate d t) s = .next s) ∧
    ((s.ctx j).stormCfg.field 31 24 ≠ 0 → (s.cdies[d]).ctxs[j].tripped = false →
      (s.ctx j).stormCfg.field 15 0 < (s.cdies[d]).ctxs[j].winCount →
      ∃ u, exec (.stormTrip d j) s = .next u ∧ 192 + j.val ∈ u.evc.pend ∧
        State.Reports ((s.modCDie d (fun c => { c with ctxs := upd c.ctxs j (fun x => { x with tripped := true }) })).modCtx
          j (fun x => { x with
            stormStat := (x.stormStat.setField 31 31 1).bump 30 16 1
            stormEnd := BitVec.ofNat 32 (max x.stormEnd.toNat
              (min ((s.cdies[d]).ctxs[j].winStep.toNat + x.stormCfg.field 31 24) 0xFFFFFFFF))
            jobStatus := x.jobStatus ||| Word.at' 1 jsStorm })) u) ∧
    (((s.ctx j).stormCfg.field 31 24 = 0 ∨ (s.cdies[d]).ctxs[j].tripped = true ∨
        (s.cdies[d]).ctxs[j].winCount ≤ (s.ctx j).stormCfg.field 15 0) → exec (.stormTrip d j) s = .next s) ∧
    ((s.cdies[d]).ctxs[j].winStart / 2 ^ (s.ctx j).stormCfg.field 20 16 < s.tick / 2 ^ (s.ctx j).stormCfg.field 20 16 →
      exec (.stormWindowEnd d j) s = .next (s.modCDie d (fun c => { c with
        ctxs := upd c.ctxs j (fun x => { x with winCount := 0, winStart := s.tick, tripped := false }) }))) ∧
    (s.tick / 2 ^ (s.ctx j).stormCfg.field 20 16 ≤ (s.cdies[d]).ctxs[j].winStart / 2 ^ (s.ctx j).stormCfg.field 20 16 →
      exec (.stormWindowEnd d j) s = .next s)

/-! ### Registers and addresses -/

/-- REGISTER_WRITE: any requester writes a scoreboard entry whole and clears the job status bits it writes with 1; a
narrow or an unaligned write changes nothing but what its error record leaves. -/
def Obligations.RegisterWriteTakesEffect : Prop :=
  ∀ (rq : Requester) (addr : Nat) (v : Word) (s : State),
    (∀ (j : JobIx) (k : Fin 64), regBase ≤ addr → addr % 4 = 0 → s.pageHeld (addr - regBase) = false →
      regAt (addr - regBase) = some (.sb j k, false) →
      exec (.registerWrite rq addr 4 v) s =
        .next { s with ctxs := s.ctxs.set j { s.ctx j with sb := (s.ctx j).sb.set k v } }) ∧
    (∀ (j : JobIx), regBase ≤ addr → addr % 4 = 0 → s.pageHeld (addr - regBase) = false →
      regAt (addr - regBase) = some (.jobStatus j, false) →
      exec (.registerWrite rq addr 4 v) s =
        .next { s with ctxs := s.ctxs.set j { s.ctx j with jobStatus := (s.ctx j).jobStatus &&& ~~~v } }) ∧
    (∀ (size : Nat), size < 4 ∨ addr % 4 ≠ 0 →
      ∃ t, exec (.registerWrite rq addr size v) s = .next t ∧ s.Reports t)

/-- A write that needs the operator's role waits, last, for its audit record and changes nothing else; AUDIT_COMMIT of the
record at the head of the pending ones puts it into the log and gives the write its effect, here a row configuration.
Where the record cannot commit, no effect comes and the log has failed; with no record pending it changes nothing (R531,
R534). -/
def Obligations.PrivilegedWriteWaitsForRecord : Prop :=
  ∀ (rq : Requester) (addr : Nat) (v : Word) (j : JobIx) (s : State), regBase ≤ addr → addr % 4 = 0 →
    s.pageHeld (addr - regBase) = false → regAt (addr - regBase) = some (.rowCfg j, false) →
    (s.access rq .operator = .audited → s.sec.auditFail = false → s.sec.pending.length < 64 →
      exec (.registerWrite rq addr 4 v) s = .next { s with sec := { s.sec with pending :=
        s.sec.pending ++ [⟨s.writeRec rq addr (.rowCfg j) false v, .regWrite addr v⟩] } }) ∧
    (∀ (r : AuditRec) (rest : List PendingRec), s.sec.pending = ⟨r, .regWrite addr v⟩ :: rest → s.flashOk = true →
      exec (.auditCommit .pass) s = .next { s with
        sec := { s.sec.commit r with pending := rest }
        ctxs := s.ctxs.set j { s.ctx j with rowCfg := v &&& 0x8000FFFF#32 } } ∧
      exec (.auditCommit .fail) s = .next { s with
        sec := { s.sec with auditFail := true, pending := [] }
        cfg := { s.cfg with adopting := false } }) ∧
    (s.sec.pending = [] → ∀ ok, exec (.auditCommit ok) s = .next s)

/-- Register pairs and counters (R5, R7). READ_LOW_WORD of a pair answers its low word and keeps the high word for the
requester; the next read of the high word answers what was kept, whatever the register holds by then, and forgets it;
neither changes anything else. A write of the low word of FLT_TALLY_BASE is kept for its requester and changes no register;
WRITE_HIGH_WORD then takes effect with both words, bits 47 to 12 kept. READ_CLEAR of a counter answers its value and leaves
it 0, and nothing else changes. -/
def Obligations.PairsLatchAndCountersClear : Prop :=
  ∀ (rq : Requester) (addr : Nat) (v low : Word) (s : State), regBase ≤ addr → addr % 4 = 0 →
    (∀ (r : Reg), r.wide = true →
      (regAt (addr - regBase) = some (r, false) → s.pageHeld (addr - regBase) = false →
        ∃ t, exec (.readLowWord rq addr) s = .next t ∧ t.rsp = .word (lowWord (s.regValue rq r)) ∧
          latched (t.reqOf rq).readLatch (latchKey r (addr - regBase)) = some (highWord (s.regValue rq r)) ∧
          (∀ q, q ≠ rq → t.reqOf q = s.reqOf q) ∧ { t with req := s.req, rsp := s.rsp } = s) ∧
      (∀ (w : Word), regAt (addr + 4 - regBase) = some (r, true) → s.pageHeld (addr + 4 - regBase) = false →
        latched (s.reqOf rq).readLatch (latchKey r (addr - regBase)) = some w →
        ∃ t, exec (.readLowWord rq (addr + 4)) s = .next t ∧ t.rsp = .word w ∧
          latched (t.reqOf rq).readLatch (latchKey r (addr - regBase)) = none ∧
          (∀ q, q ≠ rq → t.reqOf q = s.reqOf q) ∧ { t with req := s.req, rsp := s.rsp } = s)) ∧
    (regAt (addr - regBase) = some (.tallyBase, false) → s.pageHeld (addr - regBase) = false →
      exec (.registerWrite rq addr 4 v) s = .next (s.modReq rq (fun q =>
        { q with writeLatch := relatch q.writeLatch (latchKey .tallyBase (addr - regBase)) v }))) ∧
    (regAt (addr + 4 - regBase) = some (.tallyBase, true) → s.pageHeld (addr + 4 - regBase) = false →
      latched (s.reqOf rq).writeLatch (latchKey .tallyBase (addr - regBase)) = some low →
      exec (.writeHighWord rq (addr + 4) v) s = .next ((s.modReq rq (fun q =>
        { q with writeLatch := unlatch q.writeLatch (latchKey .tallyBase (addr - regBase)) })).setFlt (fun f =>
        { f with tallyBase := (v.field 15 0 * 2 ^ 32 + low.toNat) / 4096 * 4096 }))) ∧
    (s.pageHeld (addr - regBase) = false →
      (∀ st : SIx, regAt (addr - regBase) = some (.eccCnt st, false) →
        exec (.readClear rq addr) s = .next { s with
          sdies := s.sdies.set st { s.sdies[st] with eccCnt := 0 }
          rsp := .word (s.sdies[st]).eccCnt }) ∧
      (∀ st : SIx, regAt (addr - regBase) = some (.thermCnt st, false) →
        exec (.readClear rq addr) s = .next { s with
          sdies := s.sdies.set st { s.sdies[st] with thermCnt := 0 }
          rsp := .word (s.sdies[st]).thermCnt }) ∧
      (∀ l : LIx, regAt (addr - regBase) = some (.dropCnt l, false) →
        exec (.readClear rq addr) s = .next { s with
          ldies := s.ldies.set l { s.ldies[l] with drop := 0 }
          rsp := .word (s.ldies[l]).drop }) ∧
      (∀ h : HIx, regAt (addr - regBase) = some (.errCnt h, false) →
        exec (.readClear rq addr) s = .next { s with
          hdies := s.hdies.set h { s.hdies[h] with errCnt := 0 }
          rsp := .word (s.hdies[h]).errCnt }) ∧
      (regAt (addr - regBase) = some (.leaseCnt, false) →
        exec (.readClear rq addr) s = .next { s with
          flt := { s.flt with leaseCnt := 0 }
          rsp := .word s.flt.leaseCnt }))

/-- An offset of the register space that no register takes: a read returns zero and changes nothing but the answer, a
write is ignored and records nothing (R10). -/
def Obligations.UnpopulatedOffsetsIgnored : Prop :=
  ∀ (rq : Requester) (addr : Nat) (v : Word) (s : State), regBase ≤ addr → addr % 4 = 0 → regAt (addr - regBase) = none →
    exec (.readLowWord rq addr) s = .next { s with rsp := .word 0 } ∧ exec (.registerWrite rq addr 4 v) s = .next s

/-- The address map: every stack address belongs to one stack and one offset below 96 GiB, and every such place to one
address, whatever the split; every offset belongs to one row and slot, and every such place to one offset (R327). -/
def Obligations.AddressMapsInvert : Prop :=
  (∀ (split a : Nat), split ≤ 96 → a < 12 * 96 * gib →
    (stackOf split a).1 < 12 ∧ (stackOf split a).2 < 96 * gib ∧
      deviceOf split (stackOf split a).1 (stackOf split a).2 = a) ∧
  (∀ (split st off : Nat), split ≤ 96 → st < 12 → off < 96 * gib →
    deviceOf split st off < 12 * 96 * gib ∧ stackOf split (deviceOf split st off) = (st, off)) ∧
  (∀ (off : Nat), slotOffset (rowOf off) (off / 2 ^ 14 % 4) + off % 256 = off) ∧
  (∀ (r : RowId) (k x : Nat), r.pc < 64 → r.sid < 4 → r.bank < 16 → k < 4 → x < 256 →
    rowOf (slotOffset r k + x) = r ∧ (slotOffset r k + x) / 2 ^ 14 % 4 = k)

/-! ### Numbers -/

/-- A finite value of any element format rounds to its own code, in either rounding mode and with no draw, both where
overflow saturates and where it gives an infinity (R38, R55 to R57). An E8M0 scale byte up to 254 is a power of two and
byte 255 is NaN (R41). -/
def Obligations.ExactValuesKeepTheirCode : Prop :=
  (∀ f ∈ [Fp.e2m1, Fp.e2m3, Fp.e3m2, Fp.e4m3, Fp.e5m2, Fp.bf16, Fp.fp32],
    ∀ (mode : Rnd) (g : Gen) (code m : Nat) (neg : Bool) (e : Int), code < 2 * f.signAt → f.decode code = .fin neg m e →
      (f.roundSat mode g (m * pow2num e) (pow2den e)).2 = g ∧
      f.signed neg (f.roundSat mode g (m * pow2num e) (pow2den e)).1 = code ∧
      (f.special = .ieee → f.encode mode g (.fin neg m e) = (code, g))) ∧
  (∀ c b, isMx c = true →
    (b ≤ 254 → scaleValue c b = .fin false 1 ((b : Int) - 127)) ∧ scaleValue c 255 = .nan)

/-! ### The Reckoner -/

/-- LIST_ADMISSION (R298 to R304) in a queue that is ADMITTING, or that was disabled meanwhile and keeps a list in admission,
with a whole command at its front. A command other than LIST_HEAD is rejected with OPCODE, or ends the admission of a
disabled queue. A list read whole and charged is rejected for the first reason that holds of: more than 4,096 commands,
a bad field, a command too long or not sized, a deadline before that of an earlier list, an engine that could not keep
every deadline; else it is accepted with the deadline tick of its LIST_HEAD and the admitted time of its charges, its
reserve that of the list or of the context, and its queue runs. A rejected list leaves the queue HALTED with what it
holds, REASON and queue in the admission status and event 64 + j. -/
def Obligations.AdmissionKeepsDeadlines : Prop :=
  ∀ (j : JobIx) (e : EngIx) (s u v w : State) (h : HeldCmd) (l : List Planned) (a : Charges) (b : List Byte)
    (rsv adm dl : Nat) (eng : List Nat),
    s.runs j = true → ((s.queue j e).state = .admitting ∨ (s.queue j e).admitPend = true) → (s.reckoner j).isSome = true →
    (s.queue j e).held.head? = some h → h.whole = true →
    let rejected := fun (v : State) (reason : Nat) => ∃ t, exec (.listAdmission j e) s = .next t ∧
      (t.queue j e).state = (if (v.queue j e).admitPend then (v.queue j e).state else .halted) ∧
      (t.queue j e).cause = 0x11 ∧ (t.queue j e).lists = (v.queue j e).lists ∧ (t.queue j e).held = (v.queue j e).held ∧
      (t.ctx j).admitStat.field 3 0 = reason ∧ (t.ctx j).admitStat.field 6 4 = e.val ∧ 64 + j.val ∈ t.evc.pend ∧
      (∀ k, k ≠ j → t.ctx k = v.ctx k) ∧ (∀ k, k ≠ e → t.queue j k = v.queue j k) ∧ t.cdies = v.cdies
    (h.isHead = false →
      ((s.queue j e).admitPend = true →
        exec (.listAdmission j e) s = .next (s.modQ j e (fun _ => { s.queue j e with admitPend := false }))) ∧
      ((s.queue j e).admitPend = false → ∃ t, exec (.listAdmission j e) s = .next t ∧ (t.queue j e).state = .halted ∧
        (t.queue j e).cause = 1 ∧ (t.queue j e).faultCmd = cmdId h.bytes ∧ (t.queue j e).held = (s.queue j e).held ∧
        64 + j.val ∈ t.evc.pend ∧ (∀ k, k ≠ j → t.ctx k = s.ctx k))) ∧
    (h.isHead = true → State.walk j e walkFuel 0 0 [] s = .length w l → rejected w 2) ∧
    (h.isHead = true → State.walk j e walkFuel 0 0 [] s = .whole u l → l.head?.map (fun p => p.cmd.bytes) = some b →
      (4096 < l.length → rejected u 2) ∧
      (l.length ≤ 4096 →
        ((List.range l.length).zip l).foldl (fun r p => Charges.add j e r p.1 p.2)
          ((⟨false, [], 0, 0, [], none, false, none⟩ : Charges), u) = (a, v) → a.waits = false →
        ((headRefused b = true ∨ a.field = true) → rejected v 4) ∧
        (headRefused b = false → a.field = false →
          (∀ pos reason, a.bad = some (pos, reason) → rejected v (BitVec.ofNat 4 reason).toNat) ∧
          (a.bad = none → dl = v.tick + headDeadline b →
            ((∃ x ∈ (v.queue j e).lists, dl < x.deadlineTick) → rejected v 5) ∧
            ((∀ x ∈ (v.queue j e).lists, x.deadlineTick ≤ dl) →
              rsv = (if headReserve b = 0xFFFF then min 100 ((v.ctx j).rknCfg.field 7 0) else headReserve b) →
              eng = (if a.engines = [] then [4 * e.val + (homeOf (v.ctx j)).val] else a.engines) →
              adm = ceilDiv (ceilDiv a.clocks 44 * (100 + rsv)) 100 + a.colls * (v.ctx j).rknCfg.field 31 12 →
              ((∃ k ∈ eng, v.feasibleOn (v.admitTick eng) k dl adm = false) → rejected v 1) ∧
              ((∀ k ∈ eng, v.feasibleOn (v.admitTick eng) k dl adm = true) →
                ∃ t x, exec (.listAdmission j e) s = .next t ∧ (t.queue j e).lists = (v.queue j e).lists ++ [x] ∧
                  x.acceptTick = v.tick ∧ x.deadlineTick = dl ∧ x.adm = adm ∧ x.engines = eng ∧ x.plan = a.plan ∧
                  x.spent = [] ∧ x.missed = false ∧ x.late = false ∧ x.accounts = List.replicate 6 0 ∧
                  (t.queue j e).curList = some x.lid ∧
                  (t.queue j e).state = (if (v.queue j e).admitPend then (v.queue j e).state else .active) ∧
                  (t.queue j e).held = (v.queue j e).held ∧ (∀ k, k ≠ j → t.ctx k = v.ctx k) ∧
                  (∀ k, k ≠ e → t.queue j k = v.queue j k) ∧ t.mem = v.mem ∧ t.cdies = v.cdies ∧ t.flt = v.flt))))))

/-- DEADLINE_MISS of the first list past its deadline tick that has not missed, of an OPEN context: the list is marked missed
and event 128 + j is raised. With ABANDON 0 its commands run on late; with ABANDON 1 the job faults, every queue halts and
event 64 + j is raised too (R307, R310, R311). With no such list, or in a context that is not OPEN, it changes nothing. -/
def Obligations.MissedListRunsLateOrFaults : Prop :=
  ∀ (j : JobIx) (e : EngIx) (s : State),
    (((s.ctx j).state ≠ .opened ∨ ∀ x ∈ (s.queue j e).lists, x.missed = true ∨ s.tick < x.deadlineTick) →
      exec (.deadlineMiss j e) s = .next s) ∧
    (∀ (l : AdmList), (s.queue j e).lists.find? (fun x => !x.missed && decide (x.deadlineTick ≤ s.tick)) = some l →
      (s.ctx j).state = .opened →
      ((s.ctx j).rknCfg.bit 8 = false →
        ∃ t, exec (.deadlineMiss j e) s = .next t ∧ (t.ctx j).state = .opened ∧ (t.ctx j).jobStatus.bit jsLate = true ∧
          (t.ctx j).miss.bit 7 = true ∧ (∃ x ∈ (t.queue j e).lists, x.lid = l.lid ∧ x.missed = true ∧ x.late = true) ∧
          (t.queue j e).held = (s.queue j e).held ∧ (t.queue j e).inflight = (s.queue j e).inflight ∧
          (t.queue j e).state = (s.queue j e).state ∧ (∀ k, k ≠ e → t.queue j k = s.queue j k) ∧
          128 + j.val ∈ t.evc.pend ∧ (∀ k, k ≠ j → t.ctx k = s.ctx k) ∧ t.blocks = s.blocks ∧ t.cdies = s.cdies) ∧
      ((s.ctx j).rknCfg.bit 8 = true →
        ∃ t, exec (.deadlineMiss j e) s = .next t ∧ (t.ctx j).state = .faulted ∧ (t.ctx j).miss.bit 7 = true ∧
          (t.ctx j).miss.bit 8 = true ∧
          (∀ k, (t.queue j k).state = .halted ∧ (t.queue j k).cause = 0x2C ∧ (t.queue j k).inflight = []) ∧
          128 + j.val ∈ t.evc.pend ∧ 64 + j.val ∈ t.evc.pend ∧ (∀ k, k ≠ j → t.ctx k = s.ctx k) ∧
          (∀ b ∈ t.blocks, b.job ≠ j.val) ∧ t.sdies = s.sdies))

/-- ENGINE_RESET (R277): on a Loom every pass and block of its C-die stands without a tile and every tile that ran one is
IDLE; on a vector engine nothing changes, its items being reissued with no add applied; on a copy engine that runs no
command and on a Cooper or a collective engine with no work of its own nothing changes. A copy command in flight there
goes on, or faults its job with ENGINE_RESET where it is a SCATTER_ADD or a SEGMENT_SUM that does not wait for remote
rows; a Cooper's tile likewise is reissued or faults the job (which of the two is a free value, log 134); a collective
that has applied adds faults its job and another goes on. -/
def Obligations.EngineResetUnbindsWork : Prop :=
  ∀ (s : State),
    let faults := fun (t : State) (j : JobIx) => (t.ctx j).state = .faulted ∧
      ∀ k, (t.queue j k).state = .halted ∧ (t.queue j k).cause = 0x2B ∧ (t.queue j k).inflight = []
    (∀ d : CIx, ∃ t, exec (.engineReset (.loom d)) s = .next t ∧
      (∀ p ∈ t.passes, p.die = d.val → p.tile = none ∨ 136 ≤ p.tile.getD 0) ∧ t.passes.length = s.passes.length ∧
      (∀ i : TileIx, (t.cdies[d]).tiles[i].state ≠ .running ∧ (t.cdies[d]).tiles[i].state ≠ .finishing) ∧
      (∀ i : TileIx, (s.cdies[d]).tiles[i].state ≠ .running → (s.cdies[d]).tiles[i].state ≠ .finishing →
        (t.cdies[d]).tiles[i] = (s.cdies[d]).tiles[i]) ∧
      (∀ i : CIx, i ≠ d → t.cdies[i] = s.cdies[i]) ∧ t.ctxs = s.ctxs ∧ t.mem = s.mem ∧ t.cpr = s.cpr ∧ t.flt = s.flt) ∧
    (∀ d, exec (.engineReset (.vec d)) s = .next s) ∧
    (∀ d : CIx, (∀ j, ∀ f ∈ (s.queue j 2).inflight, (s.diesOf j 2 f.bytes).contains d = false) →
      exec (.engineReset (.cpy d)) s = .next s) ∧
    (∀ (d : CIx) (j : JobIx) (f : Flight), (∀ k, k ≠ j → (s.queue k 2).inflight = []) → (s.queue j 2).inflight = [f] →
      (s.diesOf j 2 f.bytes).contains d = true → (s.ctx j).state = .opened →
      ∃ t, exec (.engineReset (.cpy d)) s = .next t ∧ (∀ k, k ≠ j → t.ctx k = s.ctx k) ∧
        ((t.ctx j).state = .opened ∧ (t.queue j 2).inflight = [f] ∧ t.far = s.far ∧ t.mem = s.mem ∧ t.cdies = s.cdies ∨
         faults t j ∧ (opcodeOf f.bytes = 0x34 ∨ opcodeOf f.bytes = 0x35) ∧
           ∀ r ∈ s.far, ¬(r.job = j.val ∧ r.fid = f.fid ∧ r.die = d.val))) ∧
    (∀ st : SIx, (s.cpr = none ∨ ∃ r, s.cpr = some r ∧ s.flight (Fin.ofNat 64 r.job) 4 r.fid = none ∨
        ∃ r, s.cpr = some r ∧ ∃ x ∈ r.left, x.1 = st.val) → exec (.engineReset (.cooper st)) s = .next s) ∧
    (∀ (st : SIx) (r : CprRun) (j : JobIx) (f : Flight), s.cpr = some r → j = Fin.ofNat 64 r.job →
      s.flight j 4 r.fid = some f → (∀ x ∈ r.left, x.1 ≠ st.val) → (s.ctx j).state = .opened →
      ∃ t, exec (.engineReset (.cooper st)) s = .next t ∧ (∀ k, k ≠ j → t.ctx k = s.ctx k) ∧
        ((t.ctx j).state = .opened ∧ t.cpr = some r ∧ (t.queue j 4).inflight = (s.queue j 4).inflight ∧ t.mem = s.mem ∨
         faults t j)) ∧
    ((∀ r ∈ s.cols, (r.opcode ≠ 0x40 ∧ r.opcode ≠ 0x41) ∨ r.phase = 0 ∧ r.recv = [] ∧ r.hops = (0, 0)) →
      exec (.engineReset .coll) s = .next s) ∧
    (∀ (r : ColRun) (j : JobIx), s.cols = [r] → j = Fin.ofNat 64 r.job → r.job < 64 → (r.opcode = 0x40 ∨ r.opcode = 0x41) →
      (r.phase ≠ 0 ∨ r.recv ≠ [] ∨ r.hops ≠ (0, 0)) → (s.ctx j).state = .opened →
      ∃ t, exec (.engineReset .coll) s = .next t ∧ faults t j ∧ t.cols = [] ∧ 64 + j.val ∈ t.evc.pend ∧
        ∀ k, k ≠ j → t.ctx k = s.ctx k)

/-! ### Stacks -/

/-- The temperature steps of a stack (Table 10-1). A sample is taken at ticks that are multiples of 25, of a stack that is not
OFF, and changes nothing otherwise. One that reaches no step above the stack's is only taken, and notes since when the
stack stands 3 °C below its threshold. One that reaches a higher step moves a stack to the highest step reached at once
and asserts its event; one at TCRIT fences it, which fails a collective with an operand there, and one 5 °C above takes it
OFFLINE with its contents lost. STACK_STEP_DOWN moves down one step after 25,000 ticks 3 °C below the threshold, and not
before nor below the step that the phases hold; STACK_FENCE_LIMIT takes a stack OFFLINE after its limit of ticks in
FENCED, and not before. -/
def Obligations.StackFollowsTemperature : Prop :=
  ∀ (st : SIx) (temp : Int) (s : State) (n m : Nat) (d d' : SDie), d = s.sdies[st] →
    d' = { d with temp := temp, sampled := true } →
    let cool := fun (x : StackState) => if d'.coolNow x then some s.tick else none
    ((d.state = .off ∨ s.tick % 25 ≠ 0) → exec (.stackTempSample st temp) s = .next s) ∧
    (d.state ≠ .off → s.tick % 25 = 0 →
      ((d.state.level = none ∨ d.state.level = some n ∧ d'.level ≤ n ∧ temp < ((d.tcrit + 5 : Nat) * 16 : Int)) →
        exec (.stackTempSample st temp) s = .next (s.modSDie st (fun _ => { d' with
          coolSince := if d'.coolNow d.state then some (d.coolSince.getD s.tick) else none }))) ∧
      (d.state.level = some n → n < m → m < 4 → d'.level = m →
        ∃ t, exec (.stackTempSample st temp) s = .next t ∧ 280 + st.val ∈ t.evc.cond ∧
          State.Reports (s.noteSlow.modSDie st (fun _ => { d' with
            state := stateOfLevel m, coolSince := cool (stateOfLevel m), thermCnt := d.thermCnt.bump 15 0 1 })) t) ∧
      (d.state.level = some n → n < 4 → d.levelAt temp = 4 → temp < ((d.tcrit + 5 : Nat) * 16 : Int) →
        ((∀ r ∈ s.cols, s.colOnStack st r = false) →
          ∃ t, exec (.stackTempSample st temp) s = .next t ∧ 280 + st.val ∈ t.evc.cond ∧
            State.Reports (s.noteSlow.modSDie st (fun _ => { d' with
              state := .fenced, coolSince := none, fencedSince := s.tick, thermCnt := d.thermCnt.bump 31 16 1 })) t) ∧
        (∀ (r : ColRun) (j : JobIx), s.cols = [r] → j.val = r.job → s.colOnStack st r = true → (s.ctx j).state = .opened →
          (s.ctx j).colFlt.bit 8 = false →
          ∃ t, exec (.stackTempSample st temp) s = .next t ∧ (t.sdies[st]).state = .fenced ∧ (t.ctx j).state = .faulted ∧
            (t.ctx j).colFlt.field 3 0 = 3 ∧ t.cols = [] ∧ ∀ k, k ≠ j → t.ctx k = s.ctx k)) ∧
      (d.state.level = some n → d.powerHold ≤ 4 → ((d.tcrit + 5 : Nat) * 16 : Int) ≤ temp →
        (∀ r ∈ s.cols, s.colOnStack st r = false) →
        s.mem.waiting = [] →
        ∃ t, exec (.stackTempSample st temp) s = .next t ∧ (t.sdies[st]).state = .offline ∧
          (t.sdies[st]).retained = false ∧ 280 + st.val ∉ t.evc.cond ∧ t.ctxs = s.ctxs ∧
          (∀ k : SIx, k ≠ st → t.sdies[k] = s.sdies[k]))) ∧
    (d.state.level = some (n + 1) → (∃ t0, d.coolSince = some t0 ∧ t0 + 25000 ≤ s.tick) → d.powerHold ≤ n →
      (n < 3 ∨ s.mem.waiting = []) →
      ∃ t, exec (.stackStepDown st) s = .next t ∧ (280 + st.val ∈ t.evc.cond ↔ n ≠ 0) ∧
        State.Reports (s.noteSlow.modSDie st (fun _ => { d with
          state := stateOfLevel n
          coolSince := if d.coolNow (stateOfLevel n) then some s.tick else none })) t) ∧
    ((d.state.level = none ∨ d.state.level = some 0 ∨ (∀ t0, d.coolSince = some t0 → s.tick < t0 + 25000) ∨
        d.state.level = some (n + 1) ∧ n < d.powerHold) → exec (.stackStepDown st) s = .next s) ∧
    (d.state = .fenced → d.fencedSince + d.fenceLimit ≤ s.tick → s.mem.waiting = [] →
      ∃ t, exec (.stackFenceLimit st) s = .next t ∧ 280 + st.val ∉ t.evc.cond ∧
        State.Reports (s.noteSlow.modSDie st (fun _ => { d with state := .offline })) t) ∧
    ((d.state ≠ .fenced ∨ s.tick < d.fencedSince + d.fenceLimit) → exec (.stackFenceLimit st) s = .next s)

/-- A stack that trains serves, at the step its latest sample selects, with its contents when it kept them, else with every
unit poisoned and nothing of it cached; one that fails its training goes OFFLINE; SELF_REFRESH ends at the step its
temperature selects; none of them acts in another state. The repair tables that stand are the committed ones after a
commit, none starting in an emergency off. A clean or a corrected scrub in NORMAL of the unit that is next moves to the
next unit, or begins the next pass, and any other scrub changes nothing. A page test leaves every register and only stack
contents of its own pages changed, and of a page that is not presented changes nothing (R320, R322, R324, R337, R340, R440). -/
def Obligations.StackServiceCommands : Prop :=
  ∀ (st : SIx) (s : State) (d : SDie), d = s.sdies[st] →
    let back := { d with
      state := stateOfLevel d.level
      coolSince := if d.coolNow (stateOfLevel d.level) then some s.tick else none }
    (d.state = .training → s.mem.waiting = [] → d.level < 4 →
      (d.retained = true → (∀ l ∈ s.mem.cache, l.stack ≠ st.val) →
        ∃ t, exec (.stackTrainingDone st .pass) s = .next t ∧ State.Reports (s.noteSlow.modSDie st (fun _ => back)) t) ∧
      (d.retained = false →
        ∃ t, exec (.stackTrainingDone st .pass) s = .next t ∧ (t.sdies[st]).state = stateOfLevel d.level ∧
          (t.sdies[st]).retained = true ∧ t.mem.cache = s.mem.cache.filter (fun l => l.stack != st.val) ∧
          t.mem.dramPoison =
            Ranges.put s.mem.dramPoison (dramKey st.val 0 / 64) (dramKey (st.val + 1) 0 / 64) ∧ t.ctxs = s.ctxs)) ∧
    (d.state = .training → s.mem.waiting = [] →
      ∃ t, exec (.stackTrainingDone st .fail) s = .next t ∧
        State.Reports (s.noteSlow.modSDie st (fun _ => { d with state := .offline })) t) ∧
    (∀ ok, d.state ≠ .training → exec (.stackTrainingDone st ok) s = .next s) ∧
    (d.state = .selfRefresh → s.mem.waiting = [] → d.level < 4 →
      ∃ t, exec (.selfRefreshExit st) s = .next t ∧ State.Reports (s.noteSlow.modSDie st (fun _ => back)) t) ∧
    (d.state ≠ .selfRefresh → exec (.selfRefreshExit st) s = .next s) ∧
    (s.flashOk = true → exec (.repairTableCommit st) s =
      .next (s.modSDie st (fun _ => { d with committed := d.tables, commitGen := d.commitGen + 1 }))) ∧
    (s.flashOk = false → exec (.repairTableCommit st) s = .next s) ∧
    (d.state = .normal →
      (d.scrubUnit + 1 < d.scrubUnits →
        exec (.patrolScrub st d.scrubUnit .clean) s =
          .next (s.modSDie st (fun _ => { d with scrubUnit := d.scrubUnit + 1 })) ∧
        ∀ syn sym, d.tracker = [] → 1 < d.ceLimit →
          ∃ t, exec (.patrolScrub st d.scrubUnit (.corrected syn sym)) s = .next t ∧
            (t.sdies[st]).eccCnt = d.eccCnt.bump 15 0 1 ∧ (t.sdies[st]).scrubUnit = d.scrubUnit + 1 ∧
            (t.sdies[st]).tracker.map (fun x => x.count) = [1] ∧ t.ctxs = s.ctxs ∧ t.cdies = s.cdies) ∧
      (d.scrubUnits ≤ d.scrubUnit + 1 → exec (.patrolScrub st d.scrubUnit .clean) s =
        .next (s.modSDie st (fun _ => { d with scrubUnit := 0, scrubPasses := satAdd 0xFFFF d.scrubPasses 1 })))) ∧
    (∀ (unit : Nat) (ecc : EccOutcome), d.state ≠ .normal ∨ unit ≠ d.scrubUnit →
      exec (.patrolScrub st unit ecc) s = .next s) ∧
    (∀ page k, page < firstPool → d.state.access = .serves → k ≤ d.tables.retired.length →
      (∀ p ∈ d.tables.retired, firstPool ≤ p.2 ∧ p.2 ≠ firstPool + k) →
      ∃ t, exec (.stackPageTest st page) s = .next t ∧ t.asy = { s.asy with cnt := s.asy.cnt.bump 31 16 1 } ∧
        t.mem = { s.mem with dram := t.mem.dram, dramPoison := t.mem.dramPoison } ∧
        { t with asy := s.asy, mem := s.mem } = s) ∧
    (∀ page, firstPool ≤ page ∨ d.state.access ≠ .serves → exec (.stackPageTest st page) s = .next s)

/-- Accesses of one line: MEM_READ of a scratchpad answers its bytes and their poison, of a stack that serves what the stack
reads once its parity and ECC outcome are noted, of a stack that is gone zeros that are poisoned, and it waits, changing
nothing else, at a stack that sleeps or is fenced. MEM_WRITE into a scratchpad whose bank serves stores its bytes and no
other, and into a stack what the stack then writes. MEM_ADD of one INT32 in a scratchpad adds modulo 2^32; an add that
meets poison faults an OPEN job and any other does not; an address or a length that is not whole elements adds nothing
(R322, R323, R325, R328, R331, R334, R335). -/
def Obligations.MemoryCommandsAccessBytes : Prop :=
  ∀ (j : JobIx) (addr n : Nat) (hint : Hint) (ecc : EccOutcome) (s : State),
    (∀ (die off : Nat) (par : Bool), placeOf s addr = .pad die off → 0 < n → n ≤ 256 - addr % 256 →
      exec (.memRead j addr n hint ecc par) s = .next { s with
        rsp := .bytes (s.mem.pad.readN (padKey die off) n) (padGone s die off || padPoisoned s die off n) }) ∧
    (∀ (st off : Nat) (par : Bool), placeOf s addr = .stack st off →
      (slotAccess s st off = .gone → 0 < n → n ≤ 256 - addr % 256 →
        exec (.memRead j addr n hint ecc par) s = .next { s with rsp := .bytes (List.replicate n 0) true }) ∧
      (slotAccess s st off = .waits → exec (.memRead j addr n hint ecc par) s = .next { s with mem := { s.mem with
        waiting := s.mem.waiting ++ [.read j.val addr n hint] } }) ∧
      (∀ (u t : State) (g : Got), slotAccess s st off = .serves →
        u = (if par then s.parityError (Fin.ofNat 12 st) addr off else s).eccOnRead (Fin.ofNat 12 st) addr off ecc →
        readMem u (some j.val) addr n hint = (g, t) →
        exec (.memRead j addr n hint ecc par) s = .next { t with rsp := .bytes g.data g.poison })) ∧
    (∀ (die off : Nat) (data : List Byte) (par : Bool), placeOf s addr = .pad die off → padGone s die off = false →
      data ≠ [] → data.length ≤ 64 - addr % 64 → s.mem.pad.wf = true →
      ∃ t, exec (.memWrite j addr data hint par) s = .next t ∧ t.mem.pad.readN (padKey die off) data.length = data ∧
        (∀ a, ¬(padKey die off ≤ a ∧ a < padKey die off + data.length) → t.mem.pad.read a = s.mem.pad.read a) ∧
        t = { s with mem := { s.mem with pad := t.mem.pad, padPoison := t.mem.padPoison } }) ∧
    (∀ (st off : Nat) (data : List Byte) (par : Bool), placeOf s addr = .stack st off →
      exec (.memWrite j addr data hint par) s = .next (writeMem
        (if par = true ∧ slotAccess s st off = .serves then s.parityError (Fin.ofNat 12 st) addr off else s)
        (some j.val) addr data hint false)) ∧
    (∀ (die off : Nat) (data : List Byte) (sr : Bool), placeOf s addr = .pad die off → padGone s die off = false →
      addr % 4 = 0 → data.length = 4 → s.mem.padPoison = [] →
      ∀ sum, sum = leBytes 4 ((leNat (s.mem.pad.readN (padKey die off) 4) + leNat data) % 2 ^ 32) →
      exec (.memAdd j addr dtInt32 data sr) s =
        .next { s with mem := { s.mem with pad := s.mem.pad.writeN (padKey die off) sum } }) ∧
    (∀ (fmt : Nat) (data : List Byte) (sr : Bool) (st : Nat) (r : Added) (t : State), st = stackAt s addr →
      addFormat fmt = true → addr % addWidth fmt = 0 → data.length % addWidth fmt = 0 →
      addMem s j.val addr fmt (if sr && fmt == dtBf16 then .sr else .rne) ((s.ctx j).cfg.bit 2) false .stream
        (genSeed (s.ctx j).seed (unitId 2 st 0x12 0) 0 0) data = (r, t) →
      (r.consumed = false →
        exec (.memAdd j addr fmt data sr) s = .next (if r.flushed then t.setStatus j jsSubnFlush else t)) ∧
      (r.consumed = true → (t.ctx j).state = .opened →
        ∃ u, exec (.memAdd j addr fmt data sr) s = .next u ∧ (u.ctx j).state = .faulted ∧
          (∀ k, (u.queue j k).state = .halted ∧ (u.queue j k).cause = 0x29) ∧ 64 + j.val ∈ u.evc.pend ∧
          ∀ k, k ≠ j → u.ctx k = t.ctx k)) ∧
    (∀ (fmt : Nat) (data : List Byte) (sr : Bool),
      addFormat fmt = false ∨ addr % addWidth fmt ≠ 0 ∨ data.length % addWidth fmt ≠ 0 →
      exec (.memAdd j addr fmt data sr) s = .next s)

/-! ### The fabric -/

/-- The port commands move a port as Table 12-2 says, each move raising the port's event and, but for packets that go back
to the router, changing that port alone. ENABLE trains a port that is OFF or DEAD, of a dimension wider than 1, and arms a
draining one; DISABLE drains one that is UP or ARMED; each acts at once for a core, with its record for an installer,
changes nothing in other states or on a held die, and is refused to others. Training that finds 8 good lanes in time
brings the port UP, training that takes 250,000,000 ticks makes it DEAD; an ended drain is FENCED, OFF, or training again;
a retrain ends UP, its frames sent again, or DEAD after 250,000 ticks. Before its time none of them acts. -/
def Obligations.PortsFollowTable : Prop :=
  ∀ (rq : Requester) (l : LIx) (p : PortIx) (lanes rtt : Nat) (s u : State) (x : Port), x = s.port l p →
    let moves := fun (c : Instr) (v : State) (f : Port → Port) => ∃ t, exec c s = .next t ∧
      296 + 2 * l.val + p.val ∈ t.evc.pend ∧ State.Reports (v.modPort l p f) t
    let trains := fun (y : Port) => { y with
      state := .training, stateSince := s.tick, txLseq := 0, rxLseq := 0, nakSent := false, fencing := false
      neighbourDrain := false }
    let rec' := fun (op : Nat) => s.auditRec rq .regWrite 0 (portCtrlAddr l p) 0 op
    (s.reroute l p = s.modLDie l (fun d => { d with
      inputs := d.inputs ++ x.retry.map (fun f => (p.val, f.pkt)), ports := upd d.ports p (fun y => { y with retry := [] }) })) ∧
    (s.Acts rq .installerOrCore (rec' 1) u →
      ((s.ldies[l]).held = true ∨ (x.state ≠ .off ∧ x.state ≠ .dead ∧ x.state ≠ .draining) ∨
        x.state = .off ∧ s.extentOf l = 1 → exec (.portEnable rq l p) s = .next u) ∧
      ((s.ldies[l]).held = false →
        ((x.state = .off ∨ x.state = .dead) → s.extentOf l ≠ 1 → moves (.portEnable rq l p) u trains) ∧
        (x.state = .dead → s.extentOf l = 1 →
          moves (.portEnable rq l p) u (fun y => { y with state := .off, stateSince := s.tick })) ∧
        (x.state = .draining →
          moves (.portEnable rq l p) u (fun y => { y with state := .armed, stateSince := s.tick })))) ∧
    (s.Acts rq .installerOrCore (rec' 2) u →
      ((s.ldies[l]).held = true ∨ (x.state ≠ .up ∧ x.state ≠ .armed) → exec (.portDisable rq l p) s = .next u) ∧
      ((s.ldies[l]).held = false → (x.state = .up ∨ x.state = .armed) →
        moves (.portDisable rq l p) u (fun y => { y with state := .draining, stateSince := s.tick }))) ∧
    (s.access rq .installerOrCore = .refused →
      ∀ c ∈ [Instr.portEnable rq l p, .portDisable rq l p], ∃ t, exec c s = .next t ∧ s.Reports t) ∧
    (x.state = .training →
      let others := (s.ldies[l]).router != .training || (List.finRange 2).any (fun q => q != p && (s.port l q).state == .training)
      (8 ≤ ((trainedLanes lanes).toList.filter (·.inService)).length → rtt ≤ 160 →
        moves (.portTrainingDone l p lanes rtt)
          (s.modLDie l (fun d => { d with router := if others then d.router else .forwarding }))
          (fun y => { y with lanes := trainedLanes lanes, rtt := rtt, state := .up, stateSince := s.tick })) ∧
      (x.stateSince + 250000000 ≤ s.tick →
        moves (.portTrainingTimeout l p)
          ((s.reroute l p).modLDie l (fun d => { d with router := if others then d.router else .forwarding }))
          (fun y => { y with state := .dead, stateSince := s.tick }))) ∧
    ((x.state ≠ .training ∨ ((trainedLanes lanes).toList.filter (·.inService)).length < 8 ∨ 160 < rtt) →
      exec (.portTrainingDone l p lanes rtt) s = .next s) ∧
    ((x.state ≠ .training ∨ s.tick < x.stateSince + 250000000) → exec (.portTrainingTimeout l p) s = .next s) ∧
    (∀ confirmed : Bool,
      (confirmed = true ∨ x.stateSince + 500 ≤ s.tick →
        (x.state = .draining → moves (.portDrainDone l p confirmed) (s.reroute l p) (fun y => { y with
          state := if x.fencing then .fenced else .off, stateSince := s.tick })) ∧
        (x.state = .armed → s.extentOf l ≠ 1 → moves (.portDrainDone l p confirmed) (s.reroute l p) trains) ∧
        (x.state = .armed → s.extentOf l = 1 → moves (.portDrainDone l p confirmed) (s.reroute l p) (fun y => { y with
          state := .off, stateSince := s.tick }))) ∧
      ((x.state ≠ .draining ∧ x.state ≠ .armed ∨ confirmed = false ∧ s.tick < x.stateSince + 500) →
        exec (.portDrainDone l p confirmed) s = .next s)) ∧
    (x.state = .retrain → s.tick ≤ x.stateSince + 250000 →
      moves (.retrainDone l p) s (fun y => { y with
        state := .up, stateSince := s.tick, retry := y.retry.map (fun f => { f with sends := 1 }) }) ∧
      ∀ f ∈ x.retry, ∃ t g, exec (.retrainDone l p) s = .next t ∧ .frame l.val p.val g ∈ t.outs ∧ g.pkt = some f.pkt ∧
        g.lseq = f.lseq) ∧
    (x.state = .retrain → x.stateSince + 250000 < s.tick →
      moves (.retrainTimeout l p) (s.reroute l p) (fun y => { y with state := .dead, stateSince := s.tick })) ∧
    ((x.state ≠ .retrain ∨ x.stateSince + 250000 < s.tick) → exec (.retrainDone l p) s = .next s) ∧
    ((x.state ≠ .retrain ∨ s.tick ≤ x.stateSince + 250000) → exec (.retrainTimeout l p) s = .next s)

/-- LANE_FAIL takes the lane out of a trained port with a spare in its place, and the port is DEAD below 8 lanes; LANE_TEST
takes a lane out for its test where the port can do without, a passing one puts it back and a failing one leaves it bad;
both leave a bad lane and an untrained port as they are. A frame that passes its CRC frees the frames that it reports
received; in LSEQ order it hands its packet to the router, once, and is acknowledged; out of order, or with a CRC that
fails, it hands nothing on and is answered with a NAK. A NAK has the frame that it names and those behind it sent again,
or retrains the port where that one has been sent 16 times (R388, R389, R392, R393). -/
def Obligations.LanesAndFramesKeepPackets : Prop :=
  ∀ (l : LIx) (p : PortIx) (k : Fin 18) (s : State) (x : Port), x = s.port l p →
    (x.trained = true → (x.lane k.val).bad = false →
      (∀ reason, 8 ≤ (x.takeOut k.val true).width ∨ x.state ≠ .up ∧ x.state ≠ .retrain →
        ∃ t, exec (.laneFail l p k.val reason) s = .next t ∧ ((t.port l p).lane k.val).bad = true ∧
          ((t.port l p).lane k.val).inService = false ∧ State.Reports (s.modPort l p (fun y => y.takeOut k.val true)) t) ∧
      (∀ reason, (x.takeOut k.val true).width < 8 → (x.state = .up ∨ x.state = .retrain) →
        ∃ t, exec (.laneFail l p k.val reason) s = .next t ∧ 296 + 2 * l.val + p.val ∈ t.evc.pend ∧
          State.Reports (((s.modPort l p (fun y => y.takeOut k.val true)).reroute l p).modPort l p (fun y => { y with
            state := .dead, stateSince := s.tick })) t) ∧
      (∀ eye, (∀ i, i < 18 → (x.lane i).underTest = false) →
        (((x.lane k.val).inService = false ∨ x.spare.isSome = true ∨ 8 < x.width) →
          exec (.laneTest l p k eye) s = .next (s.modPort l p (fun y => y.takeOut k.val false))) ∧
        ((x.lane k.val).inService = true → x.spare = none → x.width ≤ 8 → exec (.laneTest l p k eye) s = .next s)) ∧
      (∀ eye i, i < 18 → (x.lane i).underTest = true → (x.lane k.val).underTest = false →
        exec (.laneTest l p k eye) s = .next s)) ∧
    (x.trained = true → (x.lane k.val).underTest = true →
      exec (.laneTest l p k .pass) s =
        .next { s.modPort l p (fun y => y.putBack k.val) with asy := { s.asy with cnt := s.asy.cnt.bump 31 16 1 } } ∧
      (8 ≤ (x.takeOut k.val true).width →
        ∃ t, exec (.laneTest l p k .fail) s = .next t ∧
          State.Reports (s.modPort l p (fun y => y.takeOut k.val true)) t)) ∧
    ((x.trained = false ∨ (x.lane k.val).bad = true) →
      (∀ reason, exec (.laneFail l p k.val reason) s = .next s) ∧
      ((x.trained = false ∨ (x.lane k.val).underTest = false) → ∀ eye, exec (.laneTest l p k eye) s = .next s)) ∧
    (∀ (f : LinkFrame) (y : Port), x.state = .up ∨ x.state = .draining ∨ x.state = .armed → y = x.acked f.rack →
      let alone := fun (t : State) => (∀ q, q ≠ p → t.port l q = s.port l q) ∧
        (∀ i : LIx, i ≠ l → t.ldies[i] = s.ldies[i]) ∧ { t with ldies := s.ldies, outs := s.outs } = s
      let answers := fun (c : State) (nak : Bool) (rack : Nat) => ∃ a, c.outs = .frame l.val p.val a :: s.outs ∧
        a.nak = nak ∧ a.rack = rack ∧ a.pkt = none
      (crc32 f.covered = f.crc → f.nak = false →
        (f.pkt = none → exec (.linkFrameReceive l p f) s = .next (s.modPort l p (fun _ => y))) ∧
        (∀ pkt, f.pkt = some pkt → f.lseq = x.rxLseq →
          ∃ t, exec (.linkFrameReceive l p f) s = .next t ∧ (t.ldies[l]).inputs = (s.ldies[l]).inputs ++ [(p.val, pkt)] ∧
            t.port l p = { y with rxLseq := (x.rxLseq + 1) % 4096, nakSent := false } ∧
            answers t false ((x.rxLseq + 1) % 4096) ∧ alone t) ∧
        (∀ pkt, f.pkt = some pkt → f.lseq ≠ x.rxLseq →
          (x.nakSent = true → exec (.linkFrameReceive l p f) s = .next (s.modPort l p (fun _ => y))) ∧
          (x.nakSent = false →
            ∃ t, exec (.linkFrameReceive l p f) s = .next t ∧ (t.ldies[l]).inputs = (s.ldies[l]).inputs ∧
              t.port l p = { y with nakSent := true } ∧ answers t true x.rxLseq ∧ alone t))) ∧
      (crc32 f.covered ≠ f.crc →
        ∃ t, exec (.linkFrameReceive l p f) s = .next t ∧ (t.ldies[l]).inputs = (s.ldies[l]).inputs ∧
          t.port l p = { x with retryCnt := x.retryCnt.bump 31 16 1, nakSent := true } ∧ answers t true x.rxLseq ∧ alone t) ∧
      (∀ (n : Nat) (r : SentFrame), crc32 f.covered = f.crc → f.nak = true → f.pkt = none →
        x.retry.findIdx? (fun r => r.lseq == f.rack) = some n → x.retry[n]? = some r →
        (r.sends < 16 → ∃ t, exec (.linkFrameReceive l p f) s = .next t ∧ t.port l p = { x with
          retryCnt := x.retryCnt.bump 15 0 1
          retry := x.retry.take n ++ (x.retry.drop n).map (fun r => { r with sends := r.sends + 1 }) } ∧ alone t ∧
          ∀ q ∈ x.retry.drop n, ∃ a, .frame l.val p.val a ∈ t.outs ∧ a.pkt = some q.pkt ∧ a.lseq = q.lseq) ∧
        (16 ≤ r.sends → ∃ t, exec (.linkFrameReceive l p f) s = .next t ∧ 296 + 2 * l.val + p.val ∈ t.evc.pend ∧
          State.Reports (s.modPort l p (fun z => { z with state := .retrain, stateSince := s.tick })) t))) ∧
    (∀ f, x.state ≠ .up → x.state ≠ .draining → x.state ≠ .armed → exec (.linkFrameReceive l p f) s = .next s)

/-- A packet is delivered when it is the next of its stream by SEQ: its lease then expects the next SEQ, the 16th delivery
since the last ACK sends one, and the rest is what its kind does. A lease that is closed, or holds no next packet, or one
of another kind or that may not go yet, delivers nothing; a packet whose FORMAT no table gives is refused with a record and
event 64 + its job (log 137). A WRITE or an ADD outside the regions that its context may write changes nothing and is
refused, one for a stack that sleeps waits; a WRITE of one 64-byte unit inside them writes its payload with its poison. -/
def Obligations.PacketsDeliverInOrder : Prop :=
  ∀ (l : LIx) (k : Nat) (s : State) (c : Instr) (kind : PktKind) (f : State → Reorder → Packet → Option (State × Bool)),
    (c, kind, f) ∈ packetDeliveries l k →
    (s.leaseAt l k = none → exec c s = .next s) ∧
    (∀ (r : Reorder), s.leaseAt l k = some r → (r.ready = none ∨ ∃ p, r.ready = some p ∧ p.kind ≠ kind) →
      exec c s = .next s) ∧
    (∀ (r : Reorder) (p : Packet), s.leaseAt l k = some r → r.ready = some p → p.kind = kind →
      let stepped := fun (u : State) (err : Bool) => u.modLDie l (fun d => { d with
        leases := modFirst (fun x => x.same r) (fun x => x.step p err u.tick) d.leases })
      ((p.format = 0 ∨ dtypeKnown p.format = true) →
        (f s r p = none → exec c s = .next s) ∧
        (∀ (u : State) (err : Bool) (x : Reorder), f s r p = some (u, err) →
          ((stepped u err).ldies[l]).leases.find? (fun y => y.same r) = some x →
          (x.sinceAck < 16 → exec c s = .next (stepped u err)) ∧
          (16 ≤ x.sinceAck → exec c s = .next ((stepped u err).modLDie l (fun d => { d with
            acksOut := d.acksOut ++ [u.ackPacket x]
            leases := modFirst (fun y => y.same x) Reorder.acked d.leases }))))) ∧
      (p.format ≠ 0 → dtypeKnown p.format = false → p.job < 64 →
        (∀ x, ((stepped s true).ldies[l]).leases.find? (fun y => y.same r) = some x → x.sinceAck < 16) →
        ∃ t, exec c s = .next t ∧ 64 + p.job ∈ t.evc.pend ∧ State.Reports (stepped s true) t)) ∧
    (∀ (r : Reorder) (p : Packet),
      (writable s p false = false → deliverWrite s r p = some (s, true)) ∧
      (writable s p true = false ∨ addFormat p.format = false → deliverAdd l s r p = some (s, true)) ∧
      (writable s p false = true → stackWaits s p.addr = true → deliverWrite s r p = none) ∧
      (writable s p true = true → addFormat p.format = true → stackWaits s p.addr = true → deliverAdd l s r p = none) ∧
      (writable s p false = true → stackWaits s p.addr = false → 0 < p.length → p.length ≤ 64 →
        p.length ≤ p.payload.length → deliverWrite s r p =
          some (writeMem s (some p.job) p.addr (p.payload.take p.length) .stream (p.poison.testBit 0), false)))

/-- A router slot gives a packet alone at its inputs to the fabric port that leads on, one hop older, to its ejection, or,
where both ports refuse it, deflected over a cross link; of two that want one port, the contest's first gets it; a reserved
KIND is dropped and counted. Injection sends the next packet of this module into a router with no transit packet, as new.
An ACK moves its stream's window, and with ERR faults the copy command that sent; the ACK timer, after 25 ticks and not
before, sends the lease's ACK; an idle lease is given back after 25,000 ticks; a stream times out, or a gap does, only at
its limit, and closes (R398, R400, R402 to R404, R409). -/
def Obligations.RoutersMovePackets : Prop :=
  ∀ (l : LIx) (k : Nat) (q : PortIx) (s : State) (p : Packet) (os : List RouteOut),
    (∀ i, (s.ldies[l]).held = false → (s.ldies[l]).inputs = [(i, p)] → i < 4 →
      (PktKindKnown p.kind = true → productive s l p = .port q :: os → (s.port l q).sends p = true →
        ∃ t f, exec (.packetArrive l) s = .next t ∧ (t.ldies[l]).inputs = [] ∧ t.outs = .frame l.val q.val f :: s.outs ∧
          f.pkt = some { p with age := min 255 (p.age + 1) } ∧ f.lseq = (s.port l q).txLseq ∧
          (t.port l q).retry = (s.port l q).retry ++ [⟨(s.port l q).txLseq, { p with age := min 255 (p.age + 1) }, 1⟩] ∧
          { t with ldies := s.ldies, outs := s.outs } = s) ∧
      (∀ u, PktKindKnown p.kind = true → productive s l p = .eject :: os →
        (s.modLDie l (fun d => { d with inputs := [] })).eject l p = some u → exec (.packetArrive l) s = .next u) ∧
      (∀ l' : LIx, PktKindKnown p.kind = true → productive s l p = [.port q] → (∀ x, (s.port l x).sends p = false) →
        (l' = if l.val = 0 then 1 else 0) →
        ∃ t, exec (.packetArrive l) s = .next t ∧ (t.ldies[l]).inputs = [] ∧
          (t.ldies[l]).deflects = ((s.ldies[l]).deflects + 1) % 2 ^ 64 ∧
          (t.ldies[l']).inputs = (s.ldies[l']).inputs ++ [(crossInput l l',
            { Packet.deflected p with age := min 255 (p.age + 1) })] ∧ { t with ldies := s.ldies } = s) ∧
      (PktKindKnown p.kind = false →
        ∃ t, exec (.packetArrive l) s = .next t ∧ State.Reports (s.modLDie l (fun d => { d with
          inputs := [], drop := d.drop.bump 15 0 1 })) t)) ∧
    (∀ (i n : Nat) (r : Packet), (s.ldies[l]).held = false → i < 4 → n < 4 → i ≠ n →
      (s.ldies[l]).inputs = [(i, p), (n, r)] ∨ (s.ldies[l]).inputs = [(n, r), (i, p)] → PktKindKnown p.kind = true →
      PktKindKnown r.kind = true → before p r = true → productive s l p = .port q :: os → (s.port l q).sends p = true →
      ∃ t f, exec (.packetArrive l) s = .next t ∧ .frame l.val q.val f ∈ t.outs ∧
        f.pkt = some { p with age := min 255 (p.age + 1) } ∧ (∀ x ∈ (t.ldies[l]).inputs, x = (n, r))) ∧
    (((s.ldies[l]).held = true ∨ (s.ldies[l]).inputs = []) → exec (.packetArrive l) s = .next s) ∧
    (∀ (n : Option Nat) (new : Packet), (s.ldies[l]).held = false → (s.ldies[l]).router = .forwarding →
      (s.ldies[l]).inputs = [] → (s.ldies[l]).toInject = some (p, n) →
      new = { p with age := 0, deflect := 0, golden := false, src := s.cfg.inForce.coord } →
      (PktKindKnown p.kind = true → productive s l new = .port q :: os → (s.port l q).sends new = true →
        ∃ t f, exec (.packetInject l) s = .next t ∧ t.outs = .frame l.val q.val f :: s.outs ∧
          f.pkt = some { new with age := 1 } ∧ (t.ldies[l]).streams = ((s.ldies[l]).injected n s.tick).streams ∧
          (t.ldies[l]).acksOut = ((s.ldies[l]).injected n s.tick).acksOut ∧
          { t with ldies := s.ldies, outs := s.outs } = s) ∧
      (PktKindKnown p.kind = false →
        ∃ t, exec (.packetInject l) s = .next t ∧ State.Reports (s.modLDie l (fun d =>
          { d.injected n s.tick with drop := d.drop.bump 15 0 1 })) t)) ∧
    (((s.ldies[l]).toInject = none ∨ (s.ldies[l]).held = true ∨ (s.ldies[l]).router ≠ .forwarding ∨
        (s.ldies[l]).inputs ≠ []) → exec (.packetInject l) s = .next s) ∧
    (∀ (sel : SrcStream → Bool) (gone : State), (s.ldies[l]).acksIn[k]? = some p →
      sel = (fun y => y.sys == p.sys && (y.sys || y.job == p.job) && y.dstRank == p.srcRank && y.channel == p.channel) →
      gone = s.modLDie l (fun d => { d with acksIn := d.acksIn.eraseIdx k }) →
      ((s.ldies[l]).streams.find? sel = none → exec (.ack l k) s = .next gone) ∧
      (∀ (x : SrcStream) (n : Nat), (s.ldies[l]).streams.find? sel = some x → n = (p.seq + 65536 - x.acked) % 65536 →
        let moved := gone.modLDie l (fun d => { d with
          streams := modFirst sel (fun y => { y with
            acked := p.seq, sent := y.sent.drop n, lastAck := if n = 0 then y.lastAck else s.tick }) d.streams })
        ((x.closed = true ∨ x.sent.length - x.waiting.length < n) → exec (.ack l k) s = .next gone) ∧
        (x.closed = false → n ≤ x.sent.length - x.waiting.length →
          (p.err = false → exec (.ack l k) s = .next moved) ∧
          (∀ (j : JobIx) (f : Flight), p.err = true → j = Fin.ofNat 64 x.job → (s.ctx j).state = .opened →
            (x.sent.take (max n 1)).getLast? = some (2, f.fid) → s.flight j 2 f.fid = some f →
            ∃ t, exec (.ack l k) s = .next t ∧ (t.ctx j).state = .faulted ∧
              (∀ e, (t.queue j e).state = .halted ∧ (t.queue j e).cause = 0x28) ∧ ∀ i, i ≠ j → t.ctx i = s.ctx i)))) ∧
    ((s.ldies[l]).acksIn[k]? = none → exec (.ack l k) s = .next s) ∧
    (s.leaseAt l k = none → ∀ c ∈ [Instr.ackTimer l k, .reorderLeaseIdle l k, .gapTimeout l k], exec c s = .next s) ∧
    (∀ r, s.leaseAt l k = some r →
      let becomes := fun (f : Reorder → Reorder) => s.modLDie l (fun d => { d with
        leases := modFirst (fun x => x.same r) f d.leases })
      let limit := if r.sys then 2500 else (s.ctx (Fin.ofNat 64 r.job)).streamCfg.field 15 0
      ((∃ t0, r.unackedSince = some t0 ∧ t0 + 25 ≤ s.tick) → exec (.ackTimer l k) s = .next (s.modLDie l (fun d => { d with
        acksOut := d.acksOut ++ [s.ackPacket r]
        leases := modFirst (fun x => x.same r) Reorder.acked d.leases }))) ∧
      ((∀ t0, r.unackedSince = some t0 → s.tick < t0 + 25) → exec (.ackTimer l k) s = .next s) ∧
      (r.leased = true → r.held = [] → r.lastArrival + 25000 ≤ s.tick →
        (r.sys = true → exec (.reorderLeaseIdle l k) s = .next (becomes (fun x => { x with leased := false }))) ∧
        (r.sys = false → exec (.reorderLeaseIdle l k) s = .next ((becomes (fun x => { x with leased := false })).setFlt
          (fun f => { f with leases := f.leases.filter (fun x => !([2].contains x.kind && x.job == r.job &&
            x.fid == r.srcRank * 16 + r.channel && x.revoking.isNone)) })))) ∧
      ((r.leased = false ∨ r.held ≠ [] ∨ s.tick < r.lastArrival + 25000) → exec (.reorderLeaseIdle l k) s = .next s) ∧
      (∀ t0, r.closed = false → r.gapSince = some t0 → t0 + limit ≤ s.tick →
        let shut := becomes (fun x => { x with held := [], closed := true, gapSince := none })
        (r.sys = true → s.isMember = false → exec (.gapTimeout l k) s = .next shut) ∧
        (r.sys = true → s.isMember = true → ∃ t, exec (.gapTimeout l k) s = .next t ∧ 302 ∈ t.evc.cond ∧
          State.Reports shut t) ∧
        (r.sys = false → (∀ x ∈ s.cols, ¬(x.job = r.job % 64 ∧ x.ch = r.channel)) →
          ∃ t, exec (.gapTimeout l k) s = .next t ∧ State.Reports shut t)) ∧
      ((r.closed = true ∨ ∀ t0, r.gapSince = some t0 → s.tick < t0 + limit) → exec (.gapTimeout l k) s = .next s)) ∧
    ((s.ldies[l]).streams[k]? = none → exec (.streamTimeout l k) s = .next s) ∧
    (∀ x, (s.ldies[l]).streams[k]? = some x →
      let limit := if x.sys then 2500 else (s.ctx (Fin.ofNat 64 x.job)).streamCfg.field 31 16
      (x.closed = false → x.waiting.length < x.sent.length → x.lastAck + limit ≤ s.tick →
        let shut := s.modLDie l (fun d => { d with
          streams := modFirst (fun y => y.same x) (fun y => { y with closed := true, waiting := [] }) d.streams })
        (x.sys = true → s.isMember = false → exec (.streamTimeout l k) s = .next shut) ∧
        (x.sys = true → s.isMember = true → ∃ t, exec (.streamTimeout l k) s = .next t ∧ 302 ∈ t.evc.cond ∧
          State.Reports shut t) ∧
        (∀ (j : JobIx) (f : Flight), x.sys = false → j = Fin.ofNat 64 x.job → (s.ctx j).state = .opened →
          x.sent.headD nobody = (2, f.fid) → s.flight j 2 f.fid = some f →
          ∃ t, exec (.streamTimeout l k) s = .next t ∧ (t.ctx j).state = .faulted ∧
            (∀ e, (t.queue j e).state = .halted ∧ (t.queue j e).cause = 0x2D) ∧ ∀ i, i ≠ j → t.ctx i = s.ctx i) ∧
        (x.sys = false → (x.sent.headD nobody).1 ≠ 2 → (x.sent.headD nobody).1 ≠ 3 →
          exec (.streamTimeout l k) s = .next shut)) ∧
      ((x.closed = true ∨ x.sent.length ≤ x.waiting.length ∨ s.tick < x.lastAck + limit) →
        exec (.streamTimeout l k) s = .next s))

/-- Router resets and losses (R407, R408): a reset drains a forwarding router and its ports that are UP, at once for a core
and with its record for an installer, and leaves one that does not forward; a drain ended empty or after 500 ticks leaves
nothing at its inputs, its ports training again but for those FENCED or DEAD, and the router training with them or
forwarding; a loss empties the router, its retry buffers and its leases and leaves its ports DEAD; the port of a draining
neighbour drains; a collective past its timeout, and none before, faults its job with sub-cause 1 and frees its channel. -/
def Obligations.RoutersResetAndLose : Prop :=
  ∀ (rq : Requester) (l : LIx) (p : PortIx) (s u : State),
    (s.Acts rq .installerOrCore (s.auditRec rq .regWrite 0 (routerCtrlAddr l) 0 1) u →
      ((s.ldies[l]).held = false → (s.ldies[l]).router = .forwarding →
        ∃ t, exec (.routerReset rq l) s = .next t ∧ (t.ldies[l]).router = .draining ∧ (t.ldies[l]).drainStart = s.tick ∧
          (∀ q, (t.port l q).state = if (s.port l q).state = .up then .draining else (s.port l q).state) ∧
          303 + l.val ∈ t.evc.pend ∧ (∀ i : LIx, ∀ q, i ≠ l → t.port i q = s.port i q) ∧ t.ctxs = s.ctxs ∧ t.mem = s.mem ∧
          t.sec = u.sec) ∧
      (((s.ldies[l]).held = true ∨ (s.ldies[l]).router ≠ .forwarding) → exec (.routerReset rq l) s = .next u)) ∧
    (s.access rq .installerOrCore = .refused → ∃ t, exec (.routerReset rq l) s = .next t ∧ s.Reports t) ∧
    ((s.ldies[l]).router = .draining → (s.ldies[l]).clear = true ∨ (s.ldies[l]).drainStart + 500 ≤ s.tick →
      ∃ t, exec (.routerDrainEnd l) s = .next t ∧ (t.ldies[l]).inputs = [] ∧
        (∀ q, (t.port l q).retry = [] ∧ (t.port l q).state =
          if (s.port l q).state = .fenced ∨ (s.port l q).state = .dead then (s.port l q).state
          else if s.extentOf l = 1 then .off else .training) ∧
        (t.ldies[l]).router = (if ∀ q, (t.port l q).state ≠ .training then .forwarding else .training) ∧
        (∀ i : LIx, ∀ q, i ≠ l → t.port i q = s.port i q) ∧
        ((s.ldies[l]).clear = true → t.ctxs = s.ctxs ∧ t.mem = s.mem ∧ t.cols = s.cols ∧
          (t.ldies[l]).leases = (s.ldies[l]).leases)) ∧
    (((s.ldies[l]).router ≠ .draining ∨ (s.ldies[l]).clear = false ∧ s.tick < (s.ldies[l]).drainStart + 500) →
      exec (.routerDrainEnd l) s = .next s) ∧
    (∃ t, exec (.routerLoss l) s = .next t ∧ (t.ldies[l]).inputs = [] ∧ (t.ldies[l]).leases = [] ∧
      (t.ldies[l]).acksIn = [] ∧ (t.ldies[l]).acksOut = [] ∧
      (∀ q, (t.port l q).retry = [] ∧ (t.port l q).state = if (s.port l q).state = .off then .off else .dead) ∧
      (∀ i : LIx, ∀ q, i ≠ l → t.port i q = s.port i q) ∧ t.ctxs = s.ctxs ∧ t.mem = s.mem) ∧
    (∃ t, exec (.neighbourRouterDrain l p) s = .next t ∧ (t.port l p).neighbourDrain = true ∧
      (t.port l p).state = (if (s.port l p).state = .up then .draining else (s.port l p).state) ∧
      (∀ q, q ≠ p → t.port l q = s.port l q) ∧ (t.ldies[l]).router = (s.ldies[l]).router ∧ t.ctxs = s.ctxs ∧
      t.mem = s.mem) ∧
    (∀ (j : JobIx) (ch : Fin 16),
      (∀ r, s.cols.find? (fun c => c.job == j.val && c.ch == ch.val) = some r →
        (r.startTick + Slot.colTimeout r.bytes ≤ s.tick → (s.ctx j).state = .opened → (s.ctx j).colFlt.bit 8 = false →
          ∃ t, exec (.collectiveTimeout j ch) s = .next t ∧ (t.ctx j).state = .faulted ∧ (t.ctx j).colFlt.field 3 0 = 1 ∧
            (t.ctx j).colFlt.field 7 4 = ch.val ∧ (∀ c ∈ t.cols, c.job ≠ j.val) ∧ 64 + j.val ∈ t.evc.pend ∧
            (∀ i, i ≠ j → t.ctx i = s.ctx i)) ∧
        (s.tick < r.startTick + Slot.colTimeout r.bytes → exec (.collectiveTimeout j ch) s = .next s)) ∧
      (s.cols.find? (fun c => c.job == j.val && c.ch == ch.val) = none →
        exec (.collectiveTimeout j ch) s = .next s))

/-! ### Containment -/

/-- A fence (R431 to R433), here by the watchdog: a unit that is absent or FENCED is left alone; any other raises event 322,
but for a migrating tile, which the fence waits for. A service tile goes FENCED without a role and the lowest unused spare
serves in its place; a spare only leaves; a bank drains into the lowest free spare bank or, without one, is FENCED with its
units poisoned; a vector unit, a copy channel with no copy in flight and a pseudo-channel are FENCED at once; a C-die's
engines, a Cooper engine and a router drain; a stack goes OFFLINE. Every other unit of these kinds stays as it was. -/
def Obligations.FencesMoveRoles : Prop :=
  ∀ (w : Word) (s : State),
    let fences := fun (base : State) => ∃ t, exec (.unitWatchdog w) s = .next t ∧ 322 ∈ t.evc.pend ∧ State.Reports base t
    let lone := fun (t : State) (d : CIx) => (∀ k : CIx, k ≠ d → t.cdies[k] = s.cdies[k]) ∧ t.sdies = s.sdies
    ((unitExists w = false ∨ s.unitStat w = 3) → exec (.unitWatchdog w) s = .next s) ∧
    (unitExists w = true → s.unitStat w ≠ 3 → ¬((unitName w).dieType = 1 ∧ (unitName w).cls = 1 ∧ s.unitStat w = 1) →
      ∃ t, exec (.unitWatchdog w) s = .next t ∧ 322 ∈ t.evc.pend) ∧
    (∀ (d : CIx) (i : Fin 16), unitName w = ⟨1, d.val, 3, i.val⟩ → (s.cdies[d]).vus[i].state ≠ .fenced →
      fences (s.modCDie d (fun c => { c with vus := upd c.vus i SimpleUnit.fence }))) ∧
    (∀ (d : CIx) (i : Fin 16), unitName w = ⟨1, d.val, 4, i.val⟩ → (s.cdies[d]).cps[i].state ≠ .fenced →
      (∀ j, (s.queue j 2).inflight = []) →
      fences (s.modCDie d (fun c => { c with cps := upd c.cps i SimpleUnit.fence }))) ∧
    (∀ (d : CIx) (n : Nat), unitName w = ⟨1, d.val, n, 0⟩ → (n = 0 ∨ n = 5) → unitExists w = true →
      (s.cdies[d]).loomEng ≠ .fenced → fences (s.modCDie d (fun c => { c with
        loomEng := c.loomEng.drain, vecEng := c.vecEng.drain, cpyEng := c.cpyEng.drain }))) ∧
    (∀ (st : SIx) (i : Fin 64), unitName w = ⟨2, st.val, 0x10, i.val⟩ → i.val ∉ (s.sdies[st]).pcFenced →
      fences (s.modSDie st (fun d => { d with pcFenced := insertNat i.val d.pcFenced }))) ∧
    (∀ (st : SIx), unitName w = ⟨2, st.val, 0x13, 0⟩ → (s.sdies[st]).cprEng ≠ .fenced → s.cpr = none →
      fences (s.modSDie st (fun d => { d with cprEng := d.cprEng.drain }))) ∧
    (∀ (st : SIx), unitName w = ⟨2, st.val, 0x15, 0⟩ → (s.sdies[st]).state ≠ .offline → s.mem.waiting = [] →
      ∃ b : Bool, fences (s.noteSlow.modSDie st (fun d => { d with state := .offline, retained := d.retained && b }))) ∧
    (∀ (l : LIx), unitName w = ⟨3, l.val, 0x22, 0⟩ → unitExists w = true → s.unitStat w ≠ 3 →
      (s.ldies[l]).router = .forwarding → (s.ldies[l]).held = false →
      ∃ t, exec (.unitWatchdog w) s = .next t ∧ 322 ∈ t.evc.pend ∧ (t.ldies[l]).router = .draining ∧
        (t.ldies[l]).drainStart = s.tick) ∧
    (∀ (d : CIx) (i : TileIx), unitName w = ⟨1, d.val, 1, i.val⟩ → (s.cdies[d]).tiles[i].state = .migrating →
      exec (.unitWatchdog w) s = .next (s.modTile d i (fun x => { x with fencePend := some 3 }))) ∧
    (∀ (d : CIx) (i : TileIx), unitName w = ⟨1, d.val, 1, i.val⟩ → (s.cdies[d]).tiles[i].state ≠ .fenced →
      (s.cdies[d]).tiles[i].state ≠ .migrating →
      ∃ t, exec (.unitWatchdog w) s = .next t ∧ 322 ∈ t.evc.pend ∧
        (∀ q ∈ t.passes, q.die = d.val → q.tile ≠ some i.val) ∧ lone t d ∧
        (∀ h : TileIx, (s.cdies[d]).tiles[i].role = .service → (s.cdies[d]).spareTile = some h → h ≠ i →
          (t.cdies[d]).tiles[i].state = .fenced ∧ (t.cdies[d]).tiles[i].role = .none ∧
          (t.cdies[d]).tiles[h] = { (s.cdies[d]).tiles[h] with role := .service } ∧
          ∀ k : TileIx, k ≠ i → k ≠ h → (t.cdies[d]).tiles[k] = (s.cdies[d]).tiles[k]) ∧
        (((s.cdies[d]).tiles[i].role ≠ .service ∨ (s.cdies[d]).spareTile = none) →
          (t.cdies[d]).tiles[i].state = .fenced ∧ (t.cdies[d]).tiles[i].role = .none ∧
          ∀ k : TileIx, k ≠ i → (t.cdies[d]).tiles[k] = (s.cdies[d]).tiles[k])) ∧
    (∀ (d : CIx) (b : Fin 51), unitName w = ⟨1, d.val, 2, b.val⟩ → (s.cdies[d]).banks[b].state ≠ .fenced →
      ∃ t, exec (.unitWatchdog w) s = .next t ∧ 322 ∈ t.evc.pend ∧ (∀ k : CIx, k ≠ d → t.cdies[k] = s.cdies[k]) ∧
        t.passes = s.passes ∧
        (∀ (p : Nat) (h : Fin 51), (s.cdies[d]).banks[b].pos = some p → (s.cdies[d]).spareBank = some h → h ≠ b →
          t.sdies = s.sdies ∧ (t.cdies[d]).banks[b].state = .draining ∧ (t.cdies[d]).banks[b].pos = none ∧
          (t.cdies[d]).banks[h].state = .inService ∧ (t.cdies[d]).banks[h].pos = some p ∧
          ∀ k : Fin 51, k ≠ b → k ≠ h → (t.cdies[d]).banks[k] = (s.cdies[d]).banks[k]) ∧
        (∀ p, (s.cdies[d]).banks[b].pos = some p → (s.cdies[d]).spareBank = none → s.flt.leases = [] →
          s.flt.ringEn = false → t.mem = (s.losePosition d.val p).mem) ∧
        (((s.cdies[d]).banks[b].pos = none ∨ (s.cdies[d]).spareBank = none) →
          (t.cdies[d]).banks[b].state = .fenced ∧
          ∀ k : Fin 51, k ≠ b → (t.cdies[d]).banks[k] = (s.cdies[d]).banks[k]))

/-- FENCE and UNFENCE written by a requester that may: recorded in the audit log, then acting on the unit that
FLT_FENCE_UNIT names as `State.fenceUnit` and `State.unfenceUnit` do; both bits at once, or an absent unit, only leave an
error record, as every write by another requester does; neither bit changes nothing. An unfenced pseudo-channel or engine
serves again, a tile, a bank, a vector unit or a copy channel goes to its test first. UNIT_DRAIN_DONE stops a draining bank
FENCED and sends an armed one to its test, stops the engines of a C-die with no work left and a Cooper engine with no share
running, and takes a migrated tile to its test, or to the fence that waits for it (R434, R435, R444). -/
def Obligations.FenceRegisterActs : Prop :=
  ∀ (rq : Requester) (s : State) (w : Word), w = s.flt.fenceUnit →
    let done := fun (r : AuditRec) => { s with sec := s.sec.commit r }
    let rf := s.auditRec rq .fence 0 w.toNat (s.unitStat w) 1
    let ru := s.auditRec rq .unfence 0 w.toNat (s.unitStat w) 2
    let unfences := fun (base : State) => ∃ t, exec (.unfence rq) s = .next t ∧ State.Reports base t
    (s.access rq .installerOrCore = .refused →
      ∀ c ∈ [Instr.fence rq true false, .fence rq false true, .fence rq true true, .fence rq false false, .unfence rq],
        ∃ t, exec c s = .next t ∧ s.Reports t) ∧
    (s.access rq .installerOrCore ≠ .refused →
      (exec (.fence rq false false) s = .next s) ∧
      (∃ t, exec (.fence rq true true) s = .next t ∧ s.Reports t) ∧
      (unitExists w = false → ∀ c ∈ [Instr.fence rq true false, .fence rq false true, .unfence rq],
        ∃ t, exec c s = .next t ∧ s.Reports t) ∧
      exec (.fence rq false true) s = exec (.unfence rq) s ∧
      (unitExists w = true → s.sec.auditFail = false → s.sec.pending = [] → s.flashOk = true →
        exec (.fence rq true false) s = .next ((done rf).fenceUnit w 4) ∧
        exec (.unfence rq) s = .next ((done ru).unfenceUnit w) ∧
        (s.unitStat w ≠ 3 → s.unitStat w ≠ 1 → exec (.unfence rq) s = .next (done ru)) ∧
        (∀ (d : CIx) (i : Fin 16), unitName w = ⟨1, d.val, 3, i.val⟩ →
          ((s.cdies[d]).vus[i].state ≠ .fenced → ∃ t, exec (.fence rq true false) s = .next t ∧ 322 ∈ t.evc.pend ∧
            State.Reports ((done rf).modCDie d (fun c => { c with vus := upd c.vus i SimpleUnit.fence })) t) ∧
          ((s.cdies[d]).vus[i].state = .fenced → exec (.unfence rq) s = .next ((done ru).modCDie d (fun c =>
            { c with vus := upd c.vus i (fun x => { x with state := .underTest, test := x.test.unfence s.tick }) })))) ∧
        (∀ (d : CIx) (i : Fin 16), unitName w = ⟨1, d.val, 4, i.val⟩ → (s.cdies[d]).cps[i].state = .fenced →
          exec (.unfence rq) s = .next ((done ru).modCDie d (fun c =>
            { c with cps := upd c.cps i (fun x => { x with state := .underTest, test := x.test.unfence s.tick }) }))) ∧
        (∀ (d : CIx) (i : TileIx), unitName w = ⟨1, d.val, 1, i.val⟩ → (s.cdies[d]).tiles[i].state = .fenced →
          exec (.unfence rq) s = .next (if (s.cdies[d]).tiles[i].holding.isSome then done ru
            else (done ru).modTile d i (fun x => { x with state := .underTest, test := x.test.unfence s.tick }))) ∧
        (∀ (st : SIx) (i : Fin 64), unitName w = ⟨2, st.val, 0x10, i.val⟩ →
          i.val ∈ (s.sdies[st]).pcFenced → unfences ((done ru).modSDie st (fun d =>
            { d with pcFenced := eraseNat i.val d.pcFenced }))) ∧
        (∀ (d : CIx), unitName w = ⟨1, d.val, 5, 0⟩ → (s.cdies[d]).loomEng = .fenced →
          unfences ((done ru).modCDie d (fun c => { c with loomEng := .none, vecEng := .none, cpyEng := .none }))) ∧
        (∀ (st : SIx), unitName w = ⟨2, st.val, 0x13, 0⟩ → (s.sdies[st]).cprEng = .fenced →
          unfences ((done ru).modSDie st (fun d => { d with cprEng := .none }))))) ∧
    (∀ (u : Word) (d : CIx) (b : Fin 51), unitName u = ⟨1, d.val, 2, b.val⟩ → exec (.unitDrainDone u) s =
      .next (s.modCDie d (fun c => { c with banks := upd c.banks b (fun x => match x.state with
        | .draining => { x with state := .fenced }
        | .armed => { x with state := .underTest, test := x.test.unfence s.tick }
        | _ => x) }))) ∧
    (∀ (u : Word) (d : CIx), unitName u = ⟨1, d.val, 5, 0⟩ → exec (.unitDrainDone u) s = .next (if s.engIdle d then
      s.modCDie d (fun c => { c with
        loomEng := c.loomEng.drained, vecEng := c.vecEng.drained, cpyEng := c.cpyEng.drained }) else s)) ∧
    (∀ (u : Word) (d : CIx) (i : TileIx), unitName u = ⟨1, d.val, 1, i.val⟩ →
      ((s.cdies[d]).tiles[i].state ≠ .migrating → exec (.unitDrainDone u) s = .next s) ∧
      ((s.cdies[d]).tiles[i].state = .migrating → (s.cdies[d]).tiles[i].fencePend = none →
        exec (.unitDrainDone u) s = .next (s.modTile d i (fun x => { x with
          state := .underTest
          test := { x.test with testStart := s.tick, due := false, deferredSince := none } }))) ∧
      (∀ src, (s.cdies[d]).tiles[i].state = .migrating → (s.cdies[d]).tiles[i].fencePend = some src →
        exec (.unitDrainDone u) s = .next ((s.modTile d i (fun x => { x with
          state := .underTest
          fencePend := none
          test := { x.test with testStart := s.tick, due := false, deferredSince := none } })).fenceUnit u src))) ∧
    (∀ (u : Word) (st : SIx), unitName u = ⟨2, st.val, 0x13, 0⟩ → exec (.unitDrainDone u) s = .next (
      if s.cpr.any (fun r => r.left.all (fun x => x.1 != st.val)) then s
      else s.modSDie st (fun d => { d with cprEng := d.cprEng.drained })))

/-- LEASE_EXPIRY starts the revocation of a lease that is held past its expiry tick and counts it, and no other: contents of
memory stay but for the packets that a reorder lease held, which are written poisoned as its stream closes; a collective
whose lease is revoked faults its job with sub-cause 6. LEASE_REVOKE_DONE ends a revocation: the lease is gone, event 323
is raised, and no contents change where no record goes to a ring (R437, R438). -/
def Obligations.LeasesRevokeOnExpiry : Prop :=
  ∀ (k : Nat) (s : State),
    (∀ l, s.flt.leases[k]? = some l → l.revoking = none → l.expiry ≤ s.tick →
      ∃ t, exec (.leaseExpiry k) s = .next t ∧
        (l.kind ≠ 3 → t.flt = { s.flt with
          leases := s.flt.leases.set k { l with revoking := some (s.tick, 1) }
          leaseCnt := s.flt.leaseCnt.bump 31 16 1 } ∧ t.evc = s.evc ∧ t.cdies = s.cdies ∧ t.passes = s.passes ∧
          (∀ i, i.val ≠ l.job % 64 → t.ctx i = s.ctx i) ∧
          (∀ i e, (t.queue i e).held = (s.queue i e).held ∧ (t.queue i e).inflight = (s.queue i e).inflight)) ∧
        (l.kind ≠ 2 → l.kind ≠ 3 → t.ldies = s.ldies ∧ t.mem.dram = s.mem.dram ∧ t.mem.pad = s.mem.pad) ∧
        (∀ (d : LIx) (r : Reorder), l.kind = 2 → (unitName l.unit).die = d.val →
          (s.ldies[d]).leases.find? (fun r => r.job == l.job && r.srcRank * 16 + r.channel == l.fid && !r.sys) = some r →
          t.ctxs = s.ctxs ∧ (t.ldies[d]).leases = (s.ldies[d]).leases.map (fun x =>
            if x.job = l.job ∧ x.srcRank * 16 + x.channel = l.fid ∧ x.sys = false then
              { x with held := [], closed := true, gapSince := none } else x) ∧
          (r.held = [] → t.mem = s.mem)) ∧
        (∀ (c : ColRun) (j : JobIx), l.kind = 3 → l.job = j.val →
          s.cols.find? (fun c => c.job == l.job && c.fid == l.fid) = some c →
          s.cols.find? (fun x => x.job == j.val && x.ch == c.ch) = some c → (s.ctx j).state = .opened →
          (s.ctx j).colFlt.bit 8 = false → (t.ctx j).state = .faulted ∧ (t.ctx j).colFlt.field 3 0 = 6 ∧
          (∀ i, i ≠ j → t.ctx i = s.ctx i))) ∧
    ((∀ l, s.flt.leases[k]? = some l → l.revoking.isSome = true ∨ s.tick < l.expiry) → exec (.leaseExpiry k) s = .next s) ∧
    (∀ l c, s.flt.leases[k]? = some l → l.revoking = some c →
      ∃ t, exec (.leaseRevokeDone k) s = .next t ∧ t.flt.leases = s.flt.leases.eraseIdx k ∧ 323 ∈ t.evc.pend ∧
        t.ctxs = s.ctxs ∧ t.cdies = s.cdies ∧
        (∀ d : LIx, (t.ldies[d]).leases = if l.kind = 2 ∧ (unitName l.unit).die % 3 = d.val then
          (s.ldies[d]).leases.filter (fun r => !(r.job == l.job && r.srcRank * 16 + r.channel == l.fid && !r.sys))
          else (s.ldies[d]).leases) ∧
        (s.flt.ringEn = false → t.mem.dram = s.mem.dram ∧ t.mem.pad = s.mem.pad ∧ t.mem.cache.length = s.mem.cache.length)) ∧
    ((∀ l, s.flt.leases[k]? = some l → l.revoking = none) → exec (.leaseRevokeDone k) s = .next s)

/-- The Assayer: a vector unit or a copy channel in service is withdrawn for its test when it is due and the die may test
one more, noted as due when it may not, and left before it is due; a spare tile is tested as it stands, and a bank hands its
position to a spare bank; a due tile at a command boundary with slack, or past its deferral limit, migrates, and one without
slack is deferred, counted once; a passing test puts its unit back and a failing one fences it with events 322 and 324, of
units under test alone; released publication slots are free (R435, R441 to R448). -/
def Obligations.AssayerWithdrawsAndReturns : Prop :=
  ∀ (w : Word) (d : CIx) (s : State),
    ((testable w = false ∨ s.unitStat w ≠ 4) → exec (.assayerTestPass w) s = .next s ∧
      ∀ f, exec (.assayerTestFail w f) s = .next s) ∧
    ((testable w = false ∨ (s.unitStat w ≠ 0 ∧ s.unitStat w ≠ 5) ∨ s.tick < (s.testOf w).passStart + s.dueAfter (unitName w).cls) →
      exec (.assayerTestDue w) s = .next s) ∧
    (testable w = true → s.unitStat w = 4 → ∀ f, ∃ t, exec (.assayerTestFail w f) s = .next t ∧ 324 ∈ t.evc.pend ∧
      t.asy = { s.asy with cnt := if f.stress then s.asy.cnt.bump 15 8 1 else s.asy.cnt.bump 7 0 1 }) ∧
    (∀ (i : Fin 16), unitName w = ⟨1, d.val, 3, i.val⟩ →
      ((s.cdies[d]).vus[i].state = .inService → (s.cdies[d]).vus[i].test.passStart + s.dueAfter 3 ≤ s.tick →
        exec (.assayerTestDue w) s = .next (s.modCDie d (fun c => { c with vus := upd c.vus i (fun x =>
          if s.mayTest d 3 then x.begin s.tick else { x with test := { x.test with due := true } }) }))) ∧
      ((s.cdies[d]).vus[i].state = .underTest → (s.cdies[d]).vus[i].test.unfencing = false →
        exec (.assayerTestPass w) s = .next ((s.modCDie d (fun c => { c with
          vus := upd c.vus i (fun x => { x with state := .inService, test := x.test.passed s.tick }) })).modAsy
          (fun a => { a with cnt := a.cnt.bump 31 16 1 }))) ∧
      ((s.cdies[d]).vus[i].state = .underTest → (s.cdies[d]).vus[i].test.unfencing = true →
        ∃ t, exec (.assayerTestPass w) s = .next t ∧ State.Reports ((s.modCDie d (fun c => { c with
          vus := upd c.vus i (fun x => { x with state := .inService, test := x.test.passed s.tick }) })).modAsy
          (fun a => { a with cnt := a.cnt.bump 31 16 1 })) t) ∧
      (∀ f : TestFailure, (s.cdies[d]).vus[i].state = .underTest →
        ∃ t, exec (.assayerTestFail w f) s = .next t ∧ 322 ∈ t.evc.pend ∧ 324 ∈ t.evc.pend ∧
          State.Reports ((s.modAsy (fun a => { a with
            cnt := if f.stress then a.cnt.bump 15 8 1 else a.cnt.bump 7 0 1 })).modCDie d
            (fun c => { c with vus := upd c.vus i SimpleUnit.fence })) t)) ∧
    (∀ (i : Fin 16), unitName w = ⟨1, d.val, 4, i.val⟩ → (s.cdies[d]).cps[i].state = .inService →
      (s.cdies[d]).cps[i].test.passStart + s.dueAfter 4 ≤ s.tick →
      exec (.assayerTestDue w) s = .next (s.modCDie d (fun c => { c with cps := upd c.cps i (fun x =>
        if s.mayTest d 4 then x.begin s.tick else { x with test := { x.test with due := true } }) }))) ∧
    (∀ (b h : Fin 51) (p : Nat), unitName w = ⟨1, d.val, 2, b.val⟩ → (s.cdies[d]).banks[b].state = .inService →
      (s.cdies[d]).banks[b].test.passStart + s.dueAfter 2 ≤ s.tick → s.mayTest d 2 = true →
      (s.cdies[d]).banks[b].pos = some p → (s.cdies[d]).spareBank = some h →
      ∃ t, exec (.assayerTestDue w) s = .next t ∧ (t.cdies[d]).banks[b].state = .underTest ∧
        (t.cdies[d]).banks[b].pos = none ∧ (t.cdies[d]).banks[h].state = .inService ∧ (t.cdies[d]).banks[h].pos = some p ∧
        (∀ k : Fin 51, k ≠ b → k ≠ h → (t.cdies[d]).banks[k] = (s.cdies[d]).banks[k]) ∧ { t with cdies := s.cdies } = s) ∧
    (∀ (i : TileIx), unitName w = ⟨1, d.val, 1, i.val⟩ → (s.cdies[d]).tiles[i].role = .spare →
      (s.cdies[d]).tiles[i].state = .idle → (s.cdies[d]).tiles[i].test.passStart + s.dueAfter 1 ≤ s.tick →
      s.mayTest d 1 = true → exec (.assayerTestDue w) s =
        .next (s.modTile d i (fun x => { x with state := .underTest, test := x.test.begin s.tick }))) ∧
    (∀ (i h : TileIx) (x : Tile), x = (s.cdies[d]).tiles[i] → x.test.due = true → x.role = .service →
      s.atBoundary d i = true → s.mayTest d 1 = true → (s.cdies[d]).spareTile = some h →
      (s.slackOn d.val = true →
        ∃ t, exec (.tileMigration d i) s = .next t ∧ (t.cdies[d]).tiles[i].state = .migrating ∧
          (t.cdies[d]).tiles[i].role = .spare ∧ (t.cdies[d]).tiles[h].role = .service ∧
          (∀ k : CIx, k ≠ d → t.cdies[k] = s.cdies[k]) ∧ t.mem = s.mem ∧ t.sdies = s.sdies ∧
          (∀ j e, (t.queue j e).held = (s.queue j e).held ∧ (t.queue j e).inflight = (s.queue j e).inflight)) ∧
      (s.slackOn d.val = false → s.tick < x.test.passStart + s.dueAfter 1 + 3000000000 →
        (x.test.deferredSince = none →
          exec (.tileMigration d i) s = .next ((s.modTile d i (fun y => { y with
            test := { y.test with deferredSince := some s.tick } })).modAsy
            (fun a => { a with deferred := satAdd 0xFFFF a.deferred 1 }))) ∧
        (x.test.deferredSince ≠ none → exec (.tileMigration d i) s = .next s)) ∧
      (unitName w = ⟨1, d.val, 1, i.val⟩ → x.test.passStart + s.dueAfter 1 + 3000000000 ≤ s.tick →
        ∃ t, exec (.assayerDeferLimit w) s = .next t ∧ (t.cdies[d]).tiles[i].state = .migrating ∧
          (t.cdies[d]).tiles[h].role = .service ∧ t.mem = s.mem ∧ t.sdies = s.sdies)) ∧
    (∀ (i : TileIx), ((s.cdies[d]).tiles[i].test.due = false ∨ (s.cdies[d]).tiles[i].role ≠ .service ∨
        s.atBoundary d i = false ∨ s.mayTest d 1 = false) → exec (.tileMigration d i) s = .next s) ∧
    ((testable w = false ∨ (unitName w).cls ≠ 1 ∨ s.tick < (s.testOf w).passStart + s.dueAfter 1 + 3000000000) →
      exec (.assayerDeferLimit w) s = .next s) ∧
    (∀ (rq : Requester) (mask : Word), s.heldTallies = [] →
      ∃ t, exec (.tallySlotRelease rq mask) s = .next t ∧ 325 ∉ t.evc.cond ∧
        (∀ k, k < 8 → t.flt.unread.testBit k = (s.flt.unread.testBit k && !mask.getLsbD k)) ∧ t.ctxs = s.ctxs ∧
        t.cdies = s.cdies ∧ t.mem = s.mem)

/-! ### The record ring, events and cores -/

/-- RING_ENABLE with a size and a place that a ring may have enables it empty; with others it leaves it disabled and
records the refusal; on an enabled ring it changes nothing. RING_DISABLE disables it and keeps the rest. RING_TAIL_WRITE
takes a TAIL inside the ring, event 320 then telling whether records wait, and refuses one outside (R451). -/
def Obligations.RecordRingConfigures : Prop :=
  ∀ (rq : Requester) (v : Word) (s : State),
    (s.flt.ringEn = false → 6 ≤ v.field 4 0 → v.field 4 0 ≤ 20 → ringPlace s.flt.ringBase (64 * 2 ^ v.field 4 0) = true →
      ∃ t, exec (.ringEnable rq v) s = .next t ∧ 320 ∉ t.evc.cond ∧ t.mem = s.mem ∧
        State.Reports (s.setFlt (fun f => { f with ringLog2 := v.field 4 0, ringEn := true, head := 0, tail := 0 })) t) ∧
    (s.flt.ringEn = false → (v.field 4 0 < 6 ∨ 20 < v.field 4 0 ∨
        ringPlace s.flt.ringBase (64 * 2 ^ v.field 4 0) = false) →
      ∃ t, exec (.ringEnable rq v) s = .next t ∧ State.Reports (s.setFlt (fun f => { f with ringLog2 := v.field 4 0 })) t) ∧
    (s.flt.ringEn = true → exec (.ringEnable rq v) s = .next s) ∧
    (s.flt.ringLog2 < 32 → exec (.ringDisable rq) s = .next (s.setFlt (fun f => { f with ringEn := false }))) ∧
    (v.field 19 0 < 2 ^ s.flt.ringLog2 →
      ∃ t, exec (.ringTailWrite rq v) s = .next t ∧ (320 ∈ t.evc.cond ↔ s.flt.head ≠ v.field 19 0) ∧ t.mem = s.mem ∧
        State.Reports (s.setFlt (fun f => { f with tail := v.field 19 0 })) t) ∧
    (2 ^ s.flt.ringLog2 ≤ v.field 19 0 → ∃ t, exec (.ringTailWrite rq v) s = .next t ∧ s.Reports t)

/-- The event controller: a source raises an edge event or asserts and withdraws a level event; software sets and clears
pending bits of edge events and mask bits, of numbers that are not reserved; a claim answers the lowest eligible event of
its bank and puts it into service, or 1023 where there is none; a complete ends the service it names and counts another; a
write by a requester without the right only leaves an error record (R455 to R463, R467, R519). -/
def Obligations.EventsClaimAndComplete : Prop :=
  ∀ (rq : Requester) (e : EventNo) (k : Fin 32) (v : Word) (t : Fin 3) (c : Fin 2) (s : State),
    let turns := fun (s' : State) (i : Instr) (x : Evc) =>
      ∃ u, exec i s = .next u ∧ u.evc = x ∧ State.Reports { s' with evc := x } u
    let becomes := turns s
    (levelEvent e.val = false → reservedEvent e.val = false → e.val < 960 →
      becomes (.eventSourceAssert e) { s.evc with pend := insertNat e.val s.evc.pend }) ∧
    (levelEvent e.val = true →
      becomes (.eventSourceAssert e) { s.evc with cond := insertNat e.val s.evc.cond } ∧
      becomes (.eventSourceWithdraw e) { s.evc with cond := eraseNat e.val s.evc.cond }) ∧
    (levelEvent e.val = false → exec (.eventSourceWithdraw e) s = .next s ∧
      (reservedEvent e.val = true ∨ 960 ≤ e.val → exec (.eventSourceAssert e) s = .next s)) ∧
    (s.access rq .evcPending = .atOnce →
      becomes (.evcPendSet rq k v) (s.evc.setPend (wordEvents k v)) ∧
      becomes (.evcPendClr rq k v) { s.evc with
        pend := s.evc.pend.filter (fun x => !(wordEvents k v).contains x) }) ∧
    (∀ u : State, s.Acts rq .evcMasks (s.auditRec rq .regWrite 0 (evcAddr (0x100 + 4 * k.val)) s.evc.mask[k].toNat v.toNat) u →
      turns u (.evcMaskSet rq k v) { s.evc with
        mask := upd s.evc.mask k (fun m => m ||| (v &&& eventWord k (fun x => !reservedEvent x))) }) ∧
    (∀ u : State, s.Acts rq .evcMasks (s.auditRec rq .regWrite 0 (evcAddr (0x180 + 4 * k.val)) s.evc.mask[k].toNat v.toNat) u →
      turns u (.evcMaskClr rq k v) { s.evc with
        mask := upd s.evc.mask k (fun m => m &&& ~~~(v &&& eventWord k (fun x => !reservedEvent x))) }) ∧
    (∀ n, s.evc.lowest t c = some n →
      (∀ x, s.evc.eligible t c x = true → n ≤ x) ∧ s.evc.eligible t c n = true ∧
      ∃ u, exec (.evcClaim rq t c) s = .next { u with rsp := .word (BitVec.ofNat 32 n) } ∧
        u.evc = { s.evc with
          pend := eraseNat n s.evc.pend
          insvc := upd s.evc.insvc (bankIx t c) (fun _ => some n) } ∧
        State.Reports { s with evc := u.evc } u) ∧
    (s.evc.lowest t c = none → exec (.evcClaim rq t c) s = .next { s with
      evc := { s.evc with spurious := satAdd 0xFFFF s.evc.spurious 1 }
      rsp := .word 1023 }) ∧
    (s.access rq (.evcBank t.val) = .atOnce →
      (s.evc.insvc[bankIx t c] = some (v.field 9 0) →
        becomes (.evcComplete rq t c v) { s.evc with insvc := upd s.evc.insvc (bankIx t c) (fun _ => none) }) ∧
      (s.evc.insvc[bankIx t c] ≠ some (v.field 9 0) → exec (.evcComplete rq t c v) s =
        .next { s with evc := { s.evc with badComplete := satAdd 0xFFFF s.evc.badComplete 1 } })) ∧
    (∀ (i : Instr) (need : Right), (i, need) ∈ [(.evcPendSet rq k v, .evcPending), (.evcPendClr rq k v, .evcPending),
        (.evcMaskSet rq k v, .evcMasks), (.evcMaskClr rq k v, .evcMasks), (.evcComplete rq t c v, .evcBank t.val)] →
      s.access rq need = .refused → ∃ u, exec i s = .next u ∧ s.Reports u)

/-- The service cores: a core that fails is FAILED, and fenced where it failed within the hour before; its failure ends a
firmware activation under way, moves the routes, clears every route lock, raises event 326 and, if it was active, promotes
the standby core. The promoted core is then ACTIVE, the failed one restarts unless fenced, and an activation has its new
slot in force; a core whose restart passes is STANDBY where the other is or becomes active, else ACTIVE, and one whose
restart fails has failed again (R464, R537, R538). -/
def Obligations.CoresFailOver : Prop :=
  ∀ (k : Fin 2) (ue : Bool) (s : State),
    ((s.core k).state ≠ .failed →
      ∃ t, exec (.serviceCoreFailure k ue) s = .next t ∧ t.core k = { s.core k with
          state := .failed
          failedAt := some s.tick
          promoting := false
          fenced := (s.core k).fenced || (s.core k).failedLately s.tick } ∧
        t.core (otherCore k) = { s.core (otherCore k) with
          promoting := ((s.core (otherCore k)).promoting && !s.cfg.activating.any (fun a => a.2 % 2 == k.val)) ||
            ((s.core k).state == .active && (s.core (otherCore k)).state == .standby) } ∧
        t.cfg = { s.cfg with activating := none } ∧ 326 ∈ t.evc.pend ∧
        { t.evc with pend := [], cond := [] } = { s.evc.failover k (otherCore k) with pend := [], cond := [] } ∧
        ((s.core k).failedLately s.tick = true → 322 ∈ t.evc.pend) ∧ (∀ rq, (t.reqOf rq).routeLock = false) ∧
        t.ctxs = s.ctxs ∧ t.cdies = s.cdies ∧ t.sdies = s.sdies ∧ (s.flt.ringEn = false → t.mem = s.mem)) ∧
    ((s.core k).state = .failed → exec (.serviceCoreFailure k ue) s = .next s) ∧
    ((s.core k).state = .standby → (s.core k).promoting = true →
      ((s.core (otherCore k)).promoting = false ∨ (s.core (otherCore k)).state ≠ .standby) →
      (s.cfg.activating = none →
        ∃ t, exec .standbyPromoted s = .next t ∧ t.core k = { s.core k with state := .active, promoting := false } ∧
          t.core (otherCore k) = (if (s.core (otherCore k)).state = .failed ∧ (s.core (otherCore k)).fenced = false then
            { s.core (otherCore k) with state := .restarting } else s.core (otherCore k)) ∧ { t with cores := s.cores } = s) ∧
      (∀ at', s.cfg.activating = some (at', (otherCore k).val) →
        ∃ t, exec .standbyPromoted s = .next t ∧ t.core k = { s.core k with state := .active, promoting := false } ∧
          (t.core (otherCore k)).state = .restarting ∧ t.cfg = { s.cfg with
            activating := none
            fwSlot := 1 - s.cfg.fwSlot
            fw := upd s.cfg.fw (Fin.ofNat 2 (1 - s.cfg.fwSlot)) (fun w => { w with bootMark := true }) } ∧
          (∀ rq, (t.reqOf rq).routeLock = false) ∧ t.evc.failovers = s.evc.failovers ∧ t.ctxs = s.ctxs ∧
          t.mem = s.mem ∧ t.pwr = s.pwr)) ∧
    ((∀ c : Fin 2, (s.core c).promoting = false ∨ (s.core c).state ≠ .standby) → exec .standbyPromoted s = .next s) ∧
    ((s.core k).fenced = false → ((s.core k).state = .restarting ∨ (s.core k).state = .failed) →
      exec (.coreRestartDone k .pass) s = .next (s.modCore k (fun c => { c with
        state := if (s.core (otherCore k)).state == .active || (s.core (otherCore k)).promoting then .standby
          else .active })) ∧
      ∃ t, exec (.coreRestartDone k .fail) s = .next t ∧ ((s.core k).failedLately s.tick = true → 322 ∈ t.evc.pend) ∧
        State.Reports (s.modCore k (fun c => { c with
          state := .failed
          failedAt := some s.tick
          fenced := c.failedLately s.tick })) t) ∧
    (∀ ok, ((s.core k).fenced = true ∨ ((s.core k).state ≠ .restarting ∧ (s.core k).state ≠ .failed)) →
      exec (.coreRestartDone k ok) s = .next s)

/-! ### Host ports -/

/-- The host ports: a down port takes no request; one over 64 bytes, or a BAR2 request without a role or outside the
memories it reaches, is an Unsupported Request, counted. BAR0 carries accesses of words, or of parts of one, to and from the
registers, the words of a longer request in ascending order, its unpopulated offsets reading 0 and its MSI-X table holding
the masks. BAR2 wakes the module and reads and writes stack memory and the scratchpads, as STREAM accesses, for an operator
or an installer. BAR4 outside a proxy, or for an absent member, reads zeros and ignores writes; the proxy's own window maps
locally, another member's travels as a PROXY_REQ, and a read of a stream that is not open is a Completer Abort. A
configuration read before the module is ready is retried; after that it gives the module's codes and what was written
(R470 to R474). -/
def Obligations.HostRequestsAnswer : Prop :=
  ∀ (h : HIx) (off len : Nat) (data : List Byte) (ep : Bool) (s : State),
    let rq := Requester.ofPort h
    let unsupported := (s.modHDie h (fun d => { d with errCnt := d.errCnt.bump 15 0 1 })).answer .unsupportedRequest
    let a := (s.hdies[h]).bar2Win + off
    let me := s.cfg.inForce.member
    let proxied := decide (s.cfg.inForce.group ≠ 0) && s.cfg.inForce.proxy
    ((s.hdies[h]).down = true → ∀ (w : Bool) (reg : Nat) (v : Word),
      exec (.bar0Request h w off len data) s = .next s ∧ exec (.bar2Request h w off len data ep) s = .next s ∧
      exec (.bar4Request h w off len data) s = .next s ∧ exec (.configurationRequest h w reg v) s = .next s) ∧
    ((s.hdies[h]).down = false →
      (∀ w : Bool, 64 < (if w then data.length else len) →
        exec (.bar0Request h w off len data) s = .next unsupported ∧
        exec (.bar4Request h w off len data) s = .next unsupported) ∧
      (∀ n, 0 < n → off % 4 + n ≤ 4 → off < 0x440000 →
        exec (.bar0Request h false off n data) s = .next ((s.readAt rq (regBase + off) n).2.answer
          (.bytes (leBytes n (s.readAt rq (regBase + off) n).1.toNat) false)) ∧
        (data.length = n → exec (.bar0Request h true off len data) s =
          .next ((s.writeAt rq (regBase + off) n (BitVec.ofNat 32 (leNat data))).answer .none))) ∧
      (∀ (u v : Word), off % 4 = 0 → off + 4 < 0x440000 →
        (let x := s.readAt rq (regBase + off) 4
         let y := x.2.readAt rq (regBase + off + 4) 4
         exec (.bar0Request h false off 8 data) s =
           .next (y.2.answer (.bytes (leBytes 4 x.1.toNat ++ leBytes 4 y.1.toNat) false))) ∧
        exec (.bar0Request h true off len (leBytes 4 u.toNat ++ leBytes 4 v.toNat)) s =
          .next (((s.writeAt rq (regBase + off) 4 u).writeAt rq (regBase + off + 4) 4 v).answer .none)) ∧
      (∀ n, 0 < n → off % 4 + n ≤ 4 → 0x440000 ≤ off → (s.hdies[h]).msixWord off = none →
        exec (.bar0Request h false off n data) s = .next (s.answer (.bytes (List.replicate n 0) false)) ∧
        (data.length = n → exec (.bar0Request h true off len data) s = .next (s.answer .none))) ∧
      (∀ (e : Nat) (v : Word), e < 130 →
        exec (.bar0Request h true (0x60000C + 16 * e) len (leBytes 4 v.toNat)) s =
          .next ((s.maskMsix h e (v.bit 0)).answer .none)) ∧
      (∀ w : Bool, ((s.roleOf rq ≠ .operator ∧ s.roleOf rq ≠ .installer) ∨
          2 ^ (s.hdies[h]).bar2Log2 < off + (if w then data.length else len) ∨ (if w then data.length else len) = 0 ∨
          bar2Reach s a (if w then data.length else len) = false) →
        exec (.bar2Request h w off len data ep) s = .next unsupported) ∧
      ((s.roleOf rq = .operator ∨ s.roleOf rq = .installer) →
        (off + data.length ≤ 2 ^ (s.hdies[h]).bar2Log2 → data ≠ [] → bar2Reach s a data.length = true →
          exec (.bar2Request h true off len data ep) s = .next ((writeMem s.wake none a data .stream ep).answer .none)) ∧
        (off + len ≤ 2 ^ (s.hdies[h]).bar2Log2 → 0 < len → bar2Reach s a len = true →
          exec (.bar2Request h false off len data ep) s = .next (
            if (readMem s.wake none a len .stream).1.waits = true then
              { s.wake with mem := { s.mem with waiting := s.mem.waiting ++ [.read 64 a len .stream] } }
            else (readMem s.wake none a len .stream).2.answer (.bytes (readMem s.wake none a len .stream).1.data
              (readMem s.wake none a len .stream).1.poison)) ∧
          ∀ die x, len ≤ 256 - a % 256 → placeOf s a = .pad die x →
            exec (.bar2Request h false off len data ep) s = .next (s.wake.answer (.bytes
              (s.mem.pad.readN (padKey die x) len) (padGone s die x || padPoisoned s die x len))))) ∧
      (∀ w : Bool, (if w then data.length else len) ≤ 64 →
        (proxied = false ∨ (off / 0x40000 ≠ me ∧ s.memberStream (off / 0x40000) = none)) →
        exec (.bar4Request h w off len data) s =
          .next (s.answer (if w then .none else .bytes (List.replicate len 0) false))) ∧
      (proxied = true → off / 0x40000 = me → off % 4 = 0 →
        exec (.bar4Request h false off 4 data) s = .next ((s.readAt rq (regBase + windowOffset off) 4).2.answer
          (.bytes (leBytes 4 (s.readAt rq (regBase + windowOffset off) 4).1.toNat) false)) ∧
        ∀ v : Word, exec (.bar4Request h true off len (leBytes 4 v.toNat)) s =
          .next ((s.writeAt rq (regBase + windowOffset off) 4 v).answer .none)) ∧
      (∀ x, proxied = true → off / 0x40000 ≠ me → s.memberStream (off / 0x40000) = some x →
        (data.length ≤ 64 → exec (.bar4Request h true off len data) s =
          .next ((s.sendMember (off / 0x40000) (proxyPacket .proxyReq me
            (proxyPayload 1 data.length h.val (s.roleOf rq).code (windowOffset off) data))).answer .none)) ∧
        (len ≤ 64 → x.closed = true → exec (.bar4Request h false off len data) s = .next (s.answer .completerAbort)) ∧
        (len ≤ 64 → x.closed = false → exec (.bar4Request h false off len data) s =
          .next ((s.modHDie h (fun d => { d with bar4Waiting := d.bar4Waiting ++ [(off / 0x40000, off)] })).sendMember
            (off / 0x40000) (proxyPacket .proxyReq me
              (proxyPayload 0 len h.val (s.roleOf rq).code (windowOffset off) []))))) ∧
      (∀ (w : Bool) (reg : Nat) (v : Word), s.ready = false →
        exec (.configurationRequest h w reg v) s = .next (s.answer .requestRetry)) ∧
      (∀ (reg : Nat) (v : Word), s.ready = true →
        exec (.configurationRequest h false 0 v) s = .next (s.answer (.word 0x04121F3D)) ∧
        exec (.configurationRequest h false 8 v) s = .next (s.answer (.word 0x12000002)) ∧
        (reg ≠ 0x40 → reg ≠ 0x108 → ∃ t, exec (.configurationRequest h true reg v) s = .next t ∧
          (t.hdies[h]).cfgRead reg = (s.hdies[h]).cfgFixed reg ||| (v &&& (s.hdies[h]).cfgMask reg) ∧
          (∀ r, r ≠ reg → (t.hdies[h]).cfgRead r = (s.hdies[h]).cfgRead r) ∧
          { t with hdies := s.hdies, rsp := s.rsp } = s) ∧
        (10 ≤ v.field 13 8 → v.field 13 8 ≤ 21 → exec (.configurationRequest h true 0x108 v) s =
          .next ((s.modHDie h (fun d => { d with bar2Log2 := v.field 13 8 + 20 })).answer .none)) ∧
        ∃ t, exec (.configurationRequest h true 0x40 v) s = .next t ∧ (t.hdies[h]).msixEnable = v.bit 31))

/-- Links and resets of a host port (R476, R478, R479): a link comes up with its speed and width, and not on a port that is
held or fenced; a hot reset, a lost link and PERST# take it down and a function-level reset leaves it, and each returns the
configuration space and the MSI-X state to their defaults, drops the BAR4 reads that wait, ends the port's session and
leaves the other port and every context alone. An unmasked entry sends the message it held, where MSI-X is enabled. A
completion of a read sets what host memory holds, or that its units fail. -/
def Obligations.HostPortResets : Prop :=
  ∀ (h : HIx) (s : State),
    (∀ (c : Instr) (up reset : Bool), (c = .hotReset h ∧ up = false ∧ reset = true ∨
        c = .hostLinkDown h ∧ up = false ∧ reset = (s.hdies[h]).inReset ∨ c = .persthN h ∧ up = false ∧ reset = true ∨
        c = .functionLevelReset h ∧ up = (s.hdies[h]).linkUp ∧ reset = (s.hdies[h]).inReset) →
      ∃ t, exec c s = .next t ∧ (t.hdies[h]).linkUp = up ∧ (t.hdies[h]).inReset = reset ∧ (t.hdies[h]).cfgSpace = [] ∧
        (t.hdies[h]).bar2Log2 = 41 ∧ (t.hdies[h]).msixEnable = false ∧ (t.hdies[h]).pba = [] ∧
        (t.hdies[h]).bar4Waiting = [] ∧ (∀ e, e < 130 → e ∈ (t.hdies[h]).msixMask) ∧
        t.roleOf (Requester.ofPort h) = .none ∧ (t.reqOf (Requester.ofPort h)).sess ≠ .verifying ∧
        (∀ rq, rq ≠ Requester.ofPort h → t.reqOf rq = s.reqOf rq) ∧
        (∀ k : HIx, k ≠ h → t.hdies[k] = s.hdies[k]) ∧ { t with hdies := s.hdies, req := s.req, sec := s.sec } = s) ∧
    (∀ (speed width : Nat) (flit : Bool), let fits := 1 ≤ speed ∧ speed ≤ 6 ∧ (width = 4 ∨ width = 8 ∨ width = 16)
      (s.railsUp = true → (s.hdies[h]).live = true → fits →
        exec (.hostLinkUp h speed width flit) s = .next (s.modHDie h (fun d => { d with
          linkUp := true, inReset := false, speed := speed, width := width, flit := flit }))) ∧
      ((s.railsUp = false ∨ (s.hdies[h]).live = false ∨ ¬fits) → exec (.hostLinkUp h speed width flit) s = .next s)) ∧
    (∀ (entry : Nat), entry < 130 →
      ∃ t, exec (.msixEntryUnmask h entry) s = .next t ∧ (t.hdies[h]).msixMask = eraseNat entry (s.hdies[h]).msixMask ∧
        ((s.hdies[h]).msixEnable = true →
          (t.hdies[h]).pba = (s.hdies[h]).pba.filter (fun e => (t.hdies[h]).msixMask.contains e) ∧
          ∀ e ∈ (s.hdies[h]).pba, e ∉ (t.hdies[h]).msixMask → .msix h.val e ∈ t.outs) ∧
        ((s.hdies[h]).msixEnable = false → (t.hdies[h]).pba = (s.hdies[h]).pba ∧ t.outs = s.outs) ∧
        (∀ k : HIx, k ≠ h → t.hdies[k] = s.hdies[k]) ∧ { t with hdies := s.hdies, outs := s.outs } = s) ∧
    (∀ (entry : Nat), 130 ≤ entry → exec (.msixEntryUnmask h entry) s = .next s) ∧
    (∀ (addr u : Nat) (data : List Byte), (s.hdies[h]).down = false →
      hostKey h.val addr / 64 ≤ u → u < (hostKey h.val addr + data.length + 63) / 64 →
      (∃ t, exec (.hostWindowReadCompletion h addr data true) s = .next t ∧
        t.mem.host = s.mem.host.writeN (hostKey h.val addr) data ∧ Ranges.has t.mem.hostBad u = false ∧
        { t with mem := { t.mem with host := s.mem.host, hostBad := s.mem.hostBad } } = s) ∧
      (∃ t, exec (.hostWindowReadCompletion h addr data false) s = .next t ∧ t.mem.host = s.mem.host ∧
        Ranges.has t.mem.hostBad u = true ∧ { t with mem := { t.mem with hostBad := s.mem.hostBad } } = s)) ∧
    (∀ (addr : Nat) (data : List Byte) (ok : Bool), (s.hdies[h]).down = true →
      exec (.hostWindowReadCompletion h addr data ok) s = .next s)

/-! ### The management port -/

/-- The management port answers once it is up, and before that nothing (R483). ENTDAA gives it an address; it answers Get
and Set Endpoint ID, the supported types and, by their error, other control messages, and drops other types (formats:
log 61); the sensors answer; a power limit needs the operator's or the installer's role, and takes effect with its record,
or waits behind others. An image transfer opens for the installer and keeps the image it is sent; STAGE_CHECK ends it, the
staged image valid where it passes its checks and is newer; firmware signed by the maker goes into the other slot. Records
and audit records are read from a number on. SPDM requests before their turn answer UnexpectedRequest; in turn GET_VERSION
starts anew, an offer of one of the two algorithms is agreed and any other refused, digests and slot 0's certificate answer,
and challenges and measurements are signed over the transcript (formats: log 62; R483 to R487, R514, R525, R539). -/
def Obligations.ManagementPortAnswers : Prop :=
  ∀ (n m slot : Nat) (b : List Byte) (x : PldmSensor) (st : SIx) (l : LIx) (p : PortIx) (u : PldmUpdate) (g : MctpMessage)
      (o : SpdmOffer) (i : Image) (fw : Firmware) (s : State),
    let spdmError := fun (code : Byte) => Host.Outcome.next (s.answer (.bytes [0x13, 0x7F, code, 0] false))
    let control := fun (s' : State) (cmd cc : Byte) (d : List Byte) =>
      exec (.mctpControl ⟨0, b⟩) s = .next (s'.answer (.bytes ([b.headD 0 &&& 0x1F, cmd, cc] ++ d) false))
    let limit := s.auditRec .mgmt .regWrite 0 (regBase + 0x30004) s.pwr.sustained n
    (s.mgmtUp = false → ∀ c ∈ [Instr.entdaa n, .mctpControl g, .pldmMonitoring x, .pldmSetPowerLimit n,
      .pldmFirmwareUpdate u, .readRecords n, .readAudit n, .getVersion, .getCapabilities, .negotiateAlgorithms o,
      .getDigests, .getCertificate slot n m, .challenge slot b, .getMeasurements n b], exec c s = .next s) ∧
    (s.mgmtUp = true →
      exec (.entdaa n) s = .next { s with mgmt := { s.mgmt with dynAddr := some n } } ∧
      (g.msgType ≠ 0 → exec (.mctpControl g) s = .next s) ∧
      (slotField b 1 1 = 1 → control { s with mgmt := { s.mgmt with eid := slotField b 3 1 } } 1 0
        [0, BitVec.ofNat 8 (slotField b 3 1), 0]) ∧
      (slotField b 1 1 = 2 → control s 2 0 [BitVec.ofNat 8 s.mgmt.eid, 0, 0]) ∧
      (slotField b 1 1 = 5 → control s 5 0 [4, 0x00, 0x01, 0x05, 0x7E]) ∧
      (slotField b 1 1 ∉ [1, 2, 4, 5] → control s (BitVec.ofNat 8 (slotField b 1 1)) 5 []) ∧
      (∀ v, (x, v) ∈ [(PldmSensor.stackTemp st, BitVec.ofInt 32 (s.sdies[st]).temp),
          (.inputVoltage, BitVec.ofNat 32 s.pwr.volt), (.inputCurrent, BitVec.ofNat 32 s.pwr.curr),
          (.moduleState, BitVec.ofNat 32 s.pwr.state.code), (.stackState st, BitVec.ofNat 32 (s.sdies[st]).state.code),
          (.portState l p, BitVec.ofNat 32 (s.port l p).state.code)] →
        exec (.pldmMonitoring x) s = .next { s with freeCtr := s.freeCtr + 1, rsp := .word v }) ∧
      (∃ v, exec (.pldmMonitoring x) s = .next { s with freeCtr := s.freeCtr + 1, rsp := .word v }) ∧
      (s.access .mgmt .adoptRight = .refused → exec (.pldmSetPowerLimit n) s = .next (s.answer (.refused 3))) ∧
      (s.Grants .mgmt .adoptRight → exec (.pldmSetPowerLimit n) s = .next { s with
        pwr := { s.pwr with sustained := n % 65536 }
        sec := s.sec.commit limit }) ∧
      (s.access .mgmt .adoptRight ≠ .refused → s.sec.auditFail = false → s.sec.pending.length < 64 →
        (s.sec.pending ≠ [] ∨ s.flashOk = false) → exec (.pldmSetPowerLimit n) s = .next { s with
          sec := { s.sec with pending := s.sec.pending ++ [⟨limit, .powerLimit n⟩] } }) ∧
      (s.flashOk = false → exec (.pldmFirmwareUpdate u) s = .next s) ∧
      (s.flashOk = true →
        (s.access .mgmt .installer = .refused → exec (.pldmFirmwareUpdate .beginImage) s = .next (s.answer (.refused 3))) ∧
        (s.access .mgmt .installer ≠ .refused → exec (.pldmFirmwareUpdate .beginImage) s = .next (
          if s.cfg.adopting then s.answer .retryLater
          else ({ s with cfg := { s.cfg with transferOpen := true, staged := none, stagedValid := false } }).answer .none)) ∧
        exec (.pldmFirmwareUpdate (.imageData i)) s = .next (
          if s.cfg.transferOpen then ({ s with cfg := { s.cfg with staged := some i } }).answer .none
          else s.answer (.refused 1)) ∧
        (s.cfg.activating.isSome = true → exec (.pldmFirmwareUpdate (.firmware fw)) s = .next (s.answer .retryLater)) ∧
        (s.cfg.activating = none → ∃ t, exec (.pldmFirmwareUpdate (.firmware fw)) s = .next t ∧
          t.cfg = (if fw.sigOk then { s.cfg with
            fw := upd s.cfg.fw (Fin.ofNat 2 (1 - s.cfg.fwSlot)) (fun _ =>
              ⟨some fw, true, false, (s.cfg.fw[Fin.ofNat 2 s.cfg.fwSlot]).generation + 1⟩) } else s.cfg) ∧
          t.rsp = (if fw.sigOk then .none else .refused 2) ∧
          { t with cfg := s.cfg, sec := s.sec, rsp := s.rsp } = s)) ∧
      exec (.readRecords n) s = .next (s.answer (.bytes
        (((recordsFrom s.flt.recs.reverse n).take 16).flatMap ErrRec.bytes) false)) ∧
      exec (.readAudit n) s = .next (s.answer (.bytes
        (((s.sec.log.reverse.filter (fun r => decide (n ≤ r.seq))).take 4).flatMap AuditRec.bytes) false)) ∧
      (exec .getVersion s = .next { s with
        mgmt := { s.mgmt with
          versionSeen := true, capsSeen := false, algsSeen := false, transcript := [0x10, 4, 0, 0, 0, 1, 0, 0x13] }
        rsp := .bytes [0x10, 4, 0, 0, 0, 1, 0, 0x13] false }) ∧
      (s.mgmt.versionSeen = false → exec .getCapabilities s = spdmError 4) ∧
      (s.mgmt.versionSeen = true → ∃ t, exec .getCapabilities s = .next t ∧ t.mgmt.capsSeen = true ∧
        { t with mgmt := s.mgmt, rsp := s.rsp, freeCtr := s.freeCtr } = s) ∧
      (s.mgmt.capsSeen = false → exec (.negotiateAlgorithms o) s = spdmError 4) ∧
      (s.mgmt.capsSeen = true →
        (o.extAsym.contains extFalcon = false → o.extHash.contains extShake = false →
          exec (.negotiateAlgorithms o) s = spdmError 7) ∧
        ((o.extAsym.contains extFalcon = true ∨ o.extHash.contains extShake = true) →
          ∃ t, exec (.negotiateAlgorithms o) s = .next t ∧ t.mgmt.algsSeen = true ∧
            { t with mgmt := s.mgmt, rsp := s.rsp } = s)) ∧
      (s.mgmt.algsSeen = false → ∀ c ∈ [Instr.getDigests, .getCertificate slot n m, .challenge slot b,
        .getMeasurements n b], exec c s = spdmError 4) ∧
      (s.mgmt.algsSeen = true →
        (slot ≠ 0 → exec (.getCertificate slot n m) s = spdmError 1 ∧ exec (.challenge slot b) s = spdmError 1) ∧
        (3 < n → n ≠ 0xFF → exec (.getMeasurements n b) s = spdmError 1) ∧
        (∃ t, exec .getDigests s = .next t ∧
          t.rsp = .bytes ([0x13, 0x01, 1, 1] ++ Config.shake256 Config.certChain) false ∧
          { t with mgmt := s.mgmt, rsp := s.rsp } = s) ∧
        (∃ t q, exec (.getCertificate 0 n m) s = .next t ∧ q = (Config.certChain.drop n).take m ∧
          t.rsp = .bytes ([0x13, 0x02, 0, 0] ++ leBytes 2 q.length ++
            leBytes 2 (Config.certChain.length - n - q.length) ++ q) false ∧ { t with mgmt := s.mgmt, rsp := s.rsp } = s) ∧
        (∀ c, (c = .challenge 0 b ∨ c = .getMeasurements n b ∧ (n ≤ 3 ∨ n = 0xFF)) → ∃ t r, exec c s = .next t ∧
          (∃ q, t.mgmt.transcript = s.mgmt.transcript ++ q ++ r) ∧
          t.rsp = .bytes (r ++ Config.falconSign (Config.shake256 t.mgmt.transcript)) false ∧
          { t with mgmt := s.mgmt, rsp := s.rsp, freeCtr := s.freeCtr } = s))) ∧
    (s.cfg.transferOpen = false → exec .stageCheck s = .next s) ∧
    (s.cfg.transferOpen = true → ∃ t, exec .stageCheck s = .next t ∧ { t with cfg := s.cfg, sec := s.sec } = s ∧
      (s.cfg.staged = none → t.cfg = { s.cfg with transferOpen := false, stagedValid := false, lastResult := 3 }) ∧
      (s.cfg.staged = some i →
        (imageCheck i s.cfg ≠ 0 → t.cfg = { s.cfg with
          transferOpen := false, stagedValid := false, lastResult := imageCheck i s.cfg }) ∧
        (imageCheck i s.cfg = 0 → i.serial ≤ s.cfg.serial → t.cfg = { s.cfg with
          transferOpen := false, stagedValid := false, lastResult := 5 }) ∧
        (imageCheck i s.cfg = 0 → s.cfg.serial < i.serial → t.cfg = { s.cfg with
          transferOpen := false, stagedValid := true })))

/-! ### Trust -/

/-- Sessions (R491, R518, R519): a challenge is fresh; a host's GO uses its challenge up and starts the verification where
the role, the key and the challenge are there, and counts as a failed attempt where one is missing; a LOCKED one is only
recorded, and another requester's starts nothing. A pass opens the session and clears the count of failures, the third
failure locks the requester for 1,500,000,000 ticks, and a lock ends at its tick and not before; an ended session holds no
role. On the console, while its reference voltage stands: AUTH without a signature gives a challenge, with a good one opens
a session of the role it names, and with a bad one counts, the third locking it; a lost reference, a break, and
22,500,000,000 ticks without input end the session. -/
def Obligations.SessionsOpenAndEnd : Prop :=
  ∀ (rq : Requester) (v : Word) (role : Role) (s : State),
    let r := s.reqOf rq
    let con := s.reqOf .console
    let sole := fun (t : State) => (∀ q, q ≠ rq → t.reqOf q = s.reqOf q) ∧ { t with req := s.req, sec := s.sec } = s
    let good := r.chalLive = true ∧ v.field 5 4 ≠ 0 ∧ (v.field 5 4 = 1 → v.field 11 8 < 4 ∧
      (s.cfg.inForce.operatorKeys.getD (v.field 11 8) []).all (fun b => b == 0) = false)
    let onConsole := fun (t : State) => (∀ q, q ≠ .console → t.reqOf q = s.reqOf q) ∧
      { t with con := s.con, req := s.req, sec := s.sec } = s
    (∃ t w, exec (.secChallenge rq) s = .next t ∧ (t.reqOf rq).chalLive = true ∧ (t.reqOf rq).chal.length = 32 ∧
      t.rsp = .word w ∧ (∀ q, q ≠ rq → t.reqOf q = s.reqOf q) ∧
      { t with req := s.req, rsp := s.rsp, freeCtr := s.freeCtr } = s) ∧
    (v.bit 1 = false →
      (Requester.isHost rq = false →
        exec (.authGo rq v) s = .next (s.modReq rq (fun r => { r with authCtrl := v &&& 0xF30 }))) ∧
      (Requester.isHost rq = true → ∃ t, exec (.authGo rq v) s = .next t ∧ sole t ∧
        (r.sess = .locked → t.reqOf rq = { r with authCtrl := v &&& 0xF30 }) ∧
        (r.sess ≠ .locked → (t.reqOf rq).chalLive = false ∧
          (good → (t.reqOf rq).sess = .verifying ∧ (t.reqOf rq).role = Role.ofCode (v.field 5 4) ∧
            (t.reqOf rq).tries = r.tries) ∧
          (¬good → r.tries + 1 < 3 → (t.reqOf rq).tries = r.tries + 1 ∧
            (t.reqOf rq).sess = if r.sess = .verifying then .none else r.sess) ∧
          (¬good → 3 ≤ r.tries + 1 → (t.reqOf rq).sess = .locked ∧ (t.reqOf rq).lockUntil = s.tick + 1500000000)))) ∧
    (r.sess ≠ .verifying → ∀ ok, exec (.authVerifyDone rq ok) s = .next s) ∧
    (r.sess = .verifying →
      (∃ t, exec (.authVerifyDone rq .pass) s = .next t ∧ sole t ∧ (t.reqOf rq).sess = .opened ∧ (t.reqOf rq).tries = 0 ∧
        t.roleOf rq = r.role) ∧
      (∃ t, exec (.authVerifyDone rq .fail) s = .next t ∧ sole t ∧ t.roleOf rq = .none ∧
        (r.tries + 1 < 3 → (t.reqOf rq).sess = .none ∧ (t.reqOf rq).tries = r.tries + 1) ∧
        (3 ≤ r.tries + 1 → (t.reqOf rq).sess = .locked ∧ (t.reqOf rq).lockUntil = s.tick + 1500000000))) ∧
    (exec (.authLockExpire rq) s = .next (if r.sess = .locked ∧ r.lockUntil ≤ s.tick then
      s.modReq rq (fun r => { r with sess := .none }) else s)) ∧
    (∃ t, exec (.sessionEnd rq) s = .next t ∧ sole t ∧ t.roleOf rq = .none ∧ (t.reqOf rq).sess ≠ .verifying) ∧
    (s.pwr.vref = false → ∀ sig, exec (.auth role sig) s = .next s ∧ exec .consoleBreak s = .next s) ∧
    (s.pwr.vref = true →
      (con.sess = .locked → ∀ sig, ∃ t, exec (.auth role sig) s = .next t ∧ onConsole t ∧ t.reqOf .console = con ∧
        t.con = { s.con with lastInput := s.tick }) ∧
      (con.sess ≠ .locked → ∃ t b, exec (.auth role none) s = .next t ∧ t.rsp = .bytes b false ∧ b.length = 32 ∧
        t.con = { s.con with chal := b, chalPending := true, lastInput := s.tick } ∧
        { t with con := s.con, rsp := s.rsp, freeCtr := s.freeCtr } = s) ∧
      (con.sess ≠ .locked → s.con.chalPending = true → (role = .installer ∨ role = .maker) →
        ∃ t, exec (.auth role (some .pass)) s = .next t ∧ onConsole t ∧ t.roleOf .console = role ∧
          t.con = { s.con with chalPending := false, lastInput := s.tick, tries := 0 }) ∧
      (∀ sig, con.sess ≠ .locked → (sig = .fail ∨ s.con.chalPending = false ∨ (role ≠ .installer ∧ role ≠ .maker)) →
        ∃ t, exec (.auth role (some sig)) s = .next t ∧ onConsole t ∧
          (s.con.tries + 1 < 3 → (t.reqOf .console).sess = con.sess ∧
            t.con = { s.con with chalPending := false, lastInput := s.tick, tries := s.con.tries + 1 }) ∧
          (3 ≤ s.con.tries + 1 → (t.reqOf .console).sess = .locked ∧ t.con = { s.con with
            chalPending := false, lastInput := s.tick, tries := 0, lockUntil := s.tick + 1500000000 })) ∧
      (∃ t, exec .consoleBreak s = .next t ∧ onConsole t ∧ t.roleOf .console = .none ∧
        t.con = { s.con with chalPending := false, lastInput := s.tick })) ∧
    (s.con.lastInput + 22500000000 ≤ s.tick → ∃ t, exec .consoleIdleTimeout s = .next t ∧ onConsole t ∧
      t.roleOf .console = .none ∧ t.con = s.con) ∧
    (s.tick < s.con.lastInput + 22500000000 → exec .consoleIdleTimeout s = .next s) ∧
    (exec .consoleLockExpire s = .next (if con.sess = .locked ∧ s.con.lockUntil ≤ s.tick then
      s.modReq .console (fun r => { r with sess := .none }) else s)) ∧
    (∃ t, exec .vref3v3Loss s = .next t ∧ t.pwr = { s.pwr with vref := false } ∧ t.roleOf .console = .none ∧
      { t with con := s.con, req := s.req, sec := s.sec, pwr := s.pwr } = s)

/-- Adoption, activation and the TAP (R492, R526, R527, R531, R538): an adoption by a right that finds a staged image valid
takes it into force, once its record is committed, in the copy that was not, with its live sections, and raises event 329;
one that no longer passes its checks, with nothing staged valid, during a transfer or without the right takes none; one
behind other records waits. An activation by the installer promotes the standby core to a valid slot, recorded, and is
aborted after 250,000 ticks and not before. A passed unlock opens the TAP to the maker, recorded; IDCODE answers the
module's code, and before an unlock any other instruction acts as BYPASS; every hour each context's doorbells are
recorded. -/
def Obligations.TrustedActionsTakeEffect : Prop :=
  ∀ (rq : Requester) (s : State),
    let no := fun (cfg : Cfg) => ∃ t, exec (.adopt rq) s = .next t ∧ t.cfg = cfg ∧ { t with cfg := s.cfg, sec := s.sec } = s
    let idle := s.cfg.adopting = false ∧ s.cfg.transferOpen = false
    let o := 1 - s.cfg.fwSlot
    let unlocks := s.sec.auditFail = false ∧ s.sec.pending = [] ∧ s.flashOk = true
    (s.access rq .adoptRight = .refused → ∃ t, exec (.adopt rq) s = .next t ∧ s.Reports t) ∧
    (s.access rq .adoptRight ≠ .refused → ¬idle → no { s.cfg with lastResult := 2 }) ∧
    (s.access rq .adoptRight ≠ .refused → idle → s.cfg.stagedValid = false → no { s.cfg with lastResult := 5 }) ∧
    (s.access rq .adoptRight ≠ .refused → idle → s.cfg.stagedValid = true → ¬unlocks →
      no { s.cfg with adopting := !s.sec.auditFail && decide (s.sec.pending.length < 64) }) ∧
    (∀ i, s.Grants rq .adoptRight → idle → s.cfg.stagedValid = true → s.cfg.staged = some i →
      (imageCheck i s.cfg ≠ 0 → no { s.cfg with lastResult := imageCheck i s.cfg }) ∧
      (imageCheck i s.cfg = 0 →
        ∃ t, exec (.adopt rq) s = .next t ∧ t.cfg = { s.cfg with
            copies := upd s.cfg.copies (Fin.ofNat 2 (s.cfg.activeCopy + 1)) (fun _ =>
              some (i, ((s.cfg.copies[Fin.ofNat 2 s.cfg.activeCopy]).map (fun c => c.2 + 1)).getD 1))
            activeCopy := (s.cfg.activeCopy + 1) % 2
            serial := i.serial
            lastResult := 1
            stagedValid := false
            inForce := ImageBody.live s.cfg.inForce i.body
            pendingCold := decide (ImageBody.live s.cfg.inForce i.body ≠ i.body) } ∧
          (∀ st : SIx, (t.sdies[st]).t1 = i.body.t1 ∧ (t.sdies[st]).tcrit = i.body.tcrit) ∧
          t.pwr.peak = i.body.peak ∧ t.flt.grace = i.body.leaseGrace ∧ 329 ∈ t.evc.pend ∧ t.ctxs = s.ctxs ∧
          t.cdies = s.cdies ∧ t.mem = s.mem)) ∧
    (s.access rq .installer = .refused → ∃ t, exec (.activateFw rq) s = .next t ∧ s.Reports t) ∧
    (s.access rq .installer ≠ .refused →
      (s.cfg.activating.isSome = true ∨ (s.cfg.fw[Fin.ofNat 2 o]).valid s.cfg.minSvn = false ∨ ¬unlocks) →
      ∃ t, exec (.activateFw rq) s = .next t ∧ { t with sec := s.sec } = s) ∧
    (s.Grants rq .installer → s.cfg.activating = none → (s.cfg.fw[Fin.ofNat 2 o]).valid s.cfg.minSvn = true →
      let u := { s with sec := s.sec.commit (s.auditRec rq .activateFw 0 o s.cfg.fwSlot o) }
      (∀ k : Fin 2, (s.core k).state = .active → (k = 0 ∨ (s.core 0).state ≠ .active) →
        exec (.activateFw rq) s = .next (({ u with cfg := { s.cfg with activating := some (s.tick, k.val) } }).modCore
          (otherCore k) (fun c => { c with promoting := true }))) ∧
      ((∀ k : Fin 2, (s.core k).state ≠ .active) → exec (.activateFw rq) s = .next u)) ∧
    (∀ (at' : Nat) (k : Fin 2), s.cfg.activating = some (at', k.val) →
      (at' + 250000 ≤ s.tick → exec .activateFwTimeout s = .next (({ s with
        cfg := { s.cfg with activating := none } }).modCore (otherCore k) (fun c => { c with promoting := false }))) ∧
      (s.tick < at' + 250000 → exec .activateFwTimeout s = .next s)) ∧
    (s.cfg.activating = none → exec .activateFwTimeout s = .next s) ∧
    (unlocks → ∃ t, exec (.jtagUnlock .pass) s = .next t ∧ t.roleOf .jtag = .maker ∧
      t.sec = { s.sec.commit (s.auditRec .jtag .jtagUnlock 0 0 0 1) with unlocked := true } ∧
      (∀ q, q ≠ .jtag → t.reqOf q = s.reqOf q) ∧ { t with req := s.req, sec := s.sec } = s) ∧
    (¬unlocks → ∃ t, exec (.jtagUnlock .pass) s = .next t ∧ t.sec.unlocked = s.sec.unlocked ∧ { t with sec := s.sec } = s) ∧
    (∃ t, exec (.jtagUnlock .fail) s = .next t ∧ t.sec.unlocked = s.sec.unlocked ∧ { t with sec := s.sec } = s) ∧
    (exec (.jtagInstruction .idcode) s = .next { s with jtag := ⟨.idcode⟩, rsp := .word 0x204129A5 }) ∧
    (exec (.jtagInstruction .bypass) s = .next { s with jtag := ⟨.bypass⟩ }) ∧
    (∀ n, s.sec.unlocked = false → exec (.jtagInstruction (.other n)) s = .next { s with jtag := ⟨.bypass⟩ }) ∧
    (s.tick < s.sec.lastDoorbell + 90000000000 → exec .doorbellAuditTimer s = .next s) ∧
    (s.sec.lastDoorbell + 90000000000 ≤ s.tick →
      ∃ t, exec .doorbellAuditTimer s = .next t ∧ (∀ j, t.ctx j = { s.ctx j with doorbells := 0 }) ∧
        t.sec.lastDoorbell = s.tick ∧ (s.sec.auditFail = false → s.sec.pending = [] →
          t.sec.pending.length = ((List.finRange 64).filter (fun j => (s.ctx j).doorbells != 0)).length) ∧
        { t with ctxs := s.ctxs, sec := s.sec } = s)

/-! ### Power, clocks and resets -/

/-- Limits and operating points (R494, R498 to R500): an average over PEAK, or over SUSTAINED, counts and lowers every
C-die's demand by one point, down to 4; 250,000 ticks under 95 % of SUSTAINED, which a reading that is not under it starts
anew, raise it to the phases' hold and no further. A C-die at THROTTLE demands one point less each 25,000 ticks, and one
more for each 25,000 ticks that it stays 5 °C below; its point follows the lower demand one step at a time. A lost phase is
counted out, and too few of them hold the dies that they feed. -/
def Obligations.LimitsMoveOperatingPoints : Prop :=
  ∀ (d : CIx) (avg k : Nat) (temp : Int) (s : State),
    let long := fun (p : Power) => { p with
      avg10 := avg
      stepUpSince := if avg * 100 < s.pwr.sustainedNow * 95 then p.stepUpSince else s.tick }
    let lower := fun (c : Instr) (pwr : Power) => ∃ t, exec c s = .next t ∧ t.pwr = pwr ∧ 327 ∈ t.evc.cond ∧
      t.cdies = s.cdies.map (fun x => { x with powerOp := min 4 (x.powerOp + 1) }) ∧ t.ctxs = s.ctxs ∧
      t.sdies = s.sdies ∧ t.mem = s.mem
    let cool := temp < ((s.pwr.throttle * 16 : Nat) : Int) - 80
    let read := fun (x : CDie) => { x with
      temp := temp
      coolSince := if cool then some (x.coolSince.getD s.tick) else none }
    let thermal := fun (c : Instr) (x : CDie) => ∃ t, exec c s = .next t ∧ t.cdies[d] = x ∧
      (∀ n : CIx, n ≠ d → t.cdies[n] = s.cdies[n]) ∧ t.ctxs = s.ctxs ∧ t.mem = s.mem
    let hot := (s.pwr.throttle * 16 : Nat) ≤ temp
    let may := (s.cdies[d]).thermOp = 0 ∨ (s.cdies[d]).thermSince + 25000 ≤ s.tick
    (s.railsUp = true →
      (s.pwr.peakNow < avg → lower (.limiterPeakStep avg) { s.pwr with
        avg1u := avg
        throttleCnt := s.pwr.throttleCnt.bump 15 0 1 }) ∧
      (s.pwr.sustainedNow < avg → lower (.limiterSustainedStep avg) { long s.pwr with
        throttleCnt := s.pwr.throttleCnt.bump 31 16 1 })) ∧
    ((s.railsUp = false ∨ avg ≤ s.pwr.peakNow) →
      exec (.limiterPeakStep avg) s = .next (s.setPwr (fun p => { p with avg1u := avg }))) ∧
    ((s.railsUp = false ∨ avg ≤ s.pwr.sustainedNow) → exec (.limiterSustainedStep avg) s = .next (s.setPwr long)) ∧
    (avg * 100 < s.pwr.sustainedNow * 95 → s.pwr.stepUpSince + 250000 ≤ s.tick →
      ∃ t, exec (.limiterStepUp avg) s = .next t ∧ t.pwr = { s.pwr with avg10 := avg, stepUpSince := s.tick } ∧
        (∀ n : CIx, t.cdies[n] = { s.cdies[n] with
          powerOp := max (if n.val < 2 then s.pwr.opHold[0] else s.pwr.opHold[1]) ((s.cdies[n]).powerOp - 1) }) ∧
        t.ctxs = s.ctxs ∧ t.mem = s.mem) ∧
    ((s.pwr.sustainedNow * 95 ≤ avg * 100 ∨ s.tick < s.pwr.stepUpSince + 250000) →
      exec (.limiterStepUp avg) s = .next (s.setPwr long)) ∧
    (hot → may → thermal (.cdieThermalStepDown d temp) { read s.cdies[d] with
      thermOp := min 4 ((s.cdies[d]).thermOp + 1)
      thermSince := s.tick }) ∧
    ((¬hot ∨ ¬may) → thermal (.cdieThermalStepDown d temp) (read s.cdies[d])) ∧
    (∀ since, cool → (s.cdies[d]).coolSince = some since → since + 25000 ≤ s.tick →
      thermal (.cdieThermalStepUp d temp) { s.cdies[d] with
        temp := temp
        thermOp := (s.cdies[d]).thermOp - 1
        coolSince := some s.tick }) ∧
    ((¬cool ∨ s.tick < (s.cdies[d]).coolSince.getD s.tick + 25000) →
      thermal (.cdieThermalStepUp d temp) (read s.cdies[d])) ∧
    (∀ want, want = max (s.cdies[d]).powerOp (s.cdies[d]).thermOp →
      exec (.opChangeDone d) s = .next (s.noteSlow.modCDie d (fun c => { c with
        op := if c.op < want then c.op + 1 else if want < c.op then c.op - 1 else c.op }))) ∧
    (∀ i : Fin 12,
      (s.pwr.conv = 0 → exec (.converterPhaseFail i) s = .next s) ∧
      (s.pwr.conv ≠ 0 → ∃ t, exec (.converterPhaseFail i) s = .next t ∧
        State.Reports (s.setPwr (fun p => { p with conv := p.conv - 1 })) t)) ∧
    (∀ p : Fin 3,
      ((s.pwr.pPhases[p] = 0 ∨ classSize 6 p.val 0x50 ≤ k) → exec (.regulatorPhaseFail p k) s = .next s) ∧
      (s.pwr.pPhases[p] ≠ 0 → k < classSize 6 p.val 0x50 →
        ∃ t, exec (.regulatorPhaseFail p k) s = .next t ∧ t.pwr.pPhases = upd s.pwr.pPhases p (fun n => n - 1) ∧
          (∀ st : SIx, t.sdies[st] = { s.sdies[st] with
            powerHold := if t.pwr.pPhases[2] < 12 then 2 else if t.pwr.pPhases[2] < 14 then 1 else 0 }) ∧
          (∀ n : CIx, t.cdies[n] = { s.cdies[n] with
            powerOp := if (if n.val < 2 then t.pwr.pPhases[0] else t.pwr.pPhases[1]) < 22 then
              max (s.cdies[n]).powerOp (if n.val < 2 then t.pwr.opHold[0] else t.pwr.opHold[1])
              else (s.cdies[n]).powerOp }) ∧ t.ctxs = s.ctxs ∧ t.mem = s.mem))

/-- Emergencies, rails and power states (R495, R496, R502, R506, R507, R509 to R512): an input out of its range, or a die at
TRIP, starts an emergency off, which frees every context and ends 625,000 ticks on. A rail out of order holds what it feeds
or sends the module to SAFE. The input applied again, PWR_EN and RESET_N act as Table 17-8 says. Start-up goes phase by
phase: an image that holds lets the rails come up, without one or without firmware the module is SAFE, a training stack or
port keeps its phase, and the last makes it ACTIVE. IDLE_DELAY ticks of rest bring IDLE, DEEP_DELAY ms there DEEP_IDLE,
which loses the scratchpads, and a wake ends both. The reset of a die reaches that die. -/
def Obligations.PowerStatesChange : Prop :=
  ∀ (n : Nat) (temp : Int) (w : Word) (r : PhaseReport) (s : State),
    let off := fun (c : Instr) => ∃ t, exec c s = .next t ∧ t.pwr.state = .emergency ∧ t.pwr.emergencyAt = s.tick ∧
      t.pwr.pwrGood = false ∧ 328 ∈ t.evc.pend ∧ (∀ j, (t.ctx j).state = .free) ∧ t.mem.dram = [] ∧ t.mem.pad = [] ∧
      t.mem.host = s.mem.host ∧ t.cfg = s.cfg ∧ t.sec.log = s.sec.log
    let reads := fun (c : Instr) => ∃ t, exec c s = .next t ∧ State.Reports (s.setPwr (fun p => { p with volt := n })) t
    let live := s.pwr.state ≠ .off ∧ s.pwr.state ≠ .emergency
    let poisoned := fun (t : State) (d : CIx) =>
      ∀ u, padKey d.val 0 / 64 ≤ u → u < padKey d.val 0x0C000000 / 64 → Ranges.has t.mem.padPoison u = true
    ((live → n < 5400 → off (.brownOut n)) ∧ (live → 7600 < n → off (.overVoltage n)) ∧
      (live → (s.pwr.trip * 16 : Nat) ≤ temp → off (.thermalTrip w temp)) ∧
      ((5400 ≤ n ∨ ¬live) → reads (.brownOut n)) ∧ ((n ≤ 7600 ∨ ¬live) → reads (.overVoltage n)) ∧
      ((temp < (s.pwr.trip * 16 : Nat) ∨ ¬live) → ∃ t, exec (.thermalTrip w temp) s = .next t ∧ t.ctxs = s.ctxs ∧
        t.mem = s.mem ∧ t.pwr.state = s.pwr.state)) ∧
    ((s.pwr.state = .emergency → s.pwr.emergencyAt + 625000 ≤ s.tick →
        ∃ t, exec .emergencyOffEnd s = .next t ∧ t.pwr.state = .off ∧ t.pwr.good = 0 ∧ t.tick = s.tick ∧
          t.sec.log = s.sec.log ∧ t.mem.host = s.mem.host) ∧
      ((s.pwr.state ≠ .emergency ∨ s.tick < s.pwr.emergencyAt + 625000) → exec .emergencyOffEnd s = .next s)) ∧
    (s.pwr.state = .off →
      (∃ t, exec .alwaysOnRailsGood s = .next t ∧ t.pwr.state = .standby ∧ t.pwr.phase = 0 ∧ t.pwr.good = 3 ∧
        t.tick = 0 ∧ t.pwr.thermtripN = true ∧ t.sec.log = s.sec.log) ∧
      (5700 ≤ n → s.pwr.pwrEn = true → s.pwr.thermtripN = true →
        ∃ t, exec (.inputRestart n) s = .next t ∧ t.pwr.state = .standby ∧ t.pwr.volt = n ∧ t.tick = 0)) ∧
    (s.pwr.state ≠ .off → exec .alwaysOnRailsGood s = .next s) ∧
    ((s.pwr.state ≠ .off ∨ n < 5700 ∨ s.pwr.pwrEn = false ∨ s.pwr.thermtripN = false) →
      exec (.inputRestart n) s = .next s) ∧
    (s.pwr.pwrEn = true → exec .pwrEnRise s = .next s) ∧
    (s.pwr.pwrEn = false →
      (s.pwr.state = .standby → s.pwr.phase = 2 →
        exec .pwrEnRise s = .next (s.setPwr (fun p => { p with pwrEn := true, state := .starting }))) ∧
      ((s.pwr.state = .safe ∨ (s.pwr.state = .standby ∧ s.pwr.phase = 1)) →
        ∃ t, exec .pwrEnRise s = .next t ∧ t.pwr.state = .standby ∧ t.pwr.phase = 1 ∧ t.pwr.pwrEn = true ∧
          t.tick = s.tick ∧ (∀ j, (t.ctx j).state = .free) ∧ t.sec.log = s.sec.log ∧ t.mem.dram = []) ∧
      (s.pwr.state ≠ .safe → (s.pwr.state = .standby → s.pwr.phase ≠ 1 ∧ s.pwr.phase ≠ 2) →
        exec .pwrEnRise s = .next (s.setPwr (fun p => { p with pwrEn := true })))) ∧
    (live → s.pwr.state ≠ .standby → ∃ t, exec .pwrEnFall s = .next t ∧ t.pwr.state = .standby ∧ t.pwr.phase = 1 ∧
      t.pwr.pwrEn = false ∧ t.pwr.pwrGood = false ∧ (∀ j, (t.ctx j).state = .free) ∧ t.mem.dram = [] ∧
      t.sec.log = s.sec.log) ∧
    ((¬live ∨ s.pwr.state = .standby) → exec .pwrEnFall s =
      .next (s.setPwr (fun p => { p with pwrEn := false, pwrGood := false, thermtripN := true }))) ∧
    (s.ready = true → ∃ t, exec .resetN s = .next t ∧ t.pwr.state = .active ∧ (∀ j, (t.ctx j).state = .free) ∧
      t.blocks = [] ∧ t.passes = [] ∧ t.sec.log = s.sec.log ∧ t.tick = s.tick ∧ t.evc.pend = [] ∧
      (∀ st : SIx, (t.sdies[st]).state = (s.sdies[st]).state)) ∧
    (s.ready = false → exec .resetN s = .next s) ∧
    (s.ready = true → exec (.startPhaseDone r) s = .next s) ∧
    (s.pwr.state = .standby → s.pwr.phase = 0 → exec (.startPhaseDone r) s =
      .next (s.setPwr (fun p => { p with startTick := p.startTick.set 0 s.tick, phase := 1 }))) ∧
    (s.pwr.state = .standby → s.pwr.phase = 1 → ∃ t, exec (.startPhaseDone r) s = .next t ∧
      (s.cfg.bootSlot r.slotsFailed = none → t.pwr.state = .safe ∧ t.pwr.safeCause = 2) ∧
      (∀ k, s.cfg.bootSlot r.slotsFailed = some k →
        (s.cfg.active = none → t.pwr.state = .safe ∧ t.pwr.safeCause = 1) ∧
        (∀ c i, s.cfg.active = some (c, i) →
          (imageCheck i s.cfg ≠ 0 → t.pwr.state = .safe ∧ t.pwr.safeCause = 1) ∧
          (imageCheck i s.cfg = 0 → t.pwr.phase = 2 ∧ t.pwr.state = (if s.pwr.pwrEn then .starting else .standby) ∧
            t.cfg.inForce = i.body ∧ t.cfg.serial = i.serial ∧ t.cfg.activeCopy = c ∧ t.cfg.fwSlot = k)))) ∧
    (s.pwr.state = .starting →
      (s.pwr.phase = 2 → (∀ k, 2 ≤ k → k < 12 → r.rails.testBit k = true) →
        ∃ t, exec (.startPhaseDone r) s = .next t ∧ t.pwr.phase = 3 ∧ t.pwr.state = .starting ∧
          ∀ st : SIx, (t.sdies[st]).state = .training) ∧
      (s.pwr.phase = 3 →
        (∀ st : SIx, (s.sdies[st]).state = .training → exec (.startPhaseDone r) s = .next s) ∧
        ((∀ st : SIx, (s.sdies[st]).state ≠ .training) →
          ∃ t, exec (.startPhaseDone r) s = .next t ∧ t.pwr.phase = 4 ∧ t.pwr.state = .starting)) ∧
      (s.pwr.phase = 4 →
        (∀ (l : LIx) (p : PortIx), (s.port l p).state = .training → exec (.startPhaseDone r) s = .next s) ∧
        ((∀ (l : LIx) (p : PortIx), (s.port l p).state ≠ .training) →
          ∃ t, exec (.startPhaseDone r) s = .next t ∧ t.pwr.phase = 5 ∧ t.pwr.state = .starting ∧
            ∀ (d : CIx) (i : TileIx), (t.cdies[d]).tiles[i].state = .underTest)) ∧
      (s.pwr.phase = 5 → ∃ t, exec (.startPhaseDone r) s = .next t ∧ t.pwr.phase = 6 ∧ t.pwr.state = .active ∧
        (r.unitsFailed = [] → ∀ (d : CIx), (∀ i : TileIx, (s.cdies[d]).tiles[i].state ≠ .fenced) →
          ∀ i : TileIx, (t.cdies[d]).tiles[i].state = .idle ∧
            (t.cdies[d]).tiles[i].role = (if i.val < 128 then .service else .spare)))) ∧
    (s.tick < s.pwr.phaseStart + phaseLimit s.pwr.phase → exec .startPhaseTimeout s = .next s) ∧
    (s.pwr.phaseStart + phaseLimit s.pwr.phase ≤ s.tick →
      (s.pwr.state = .standby → s.pwr.phase = 1 →
        ∃ t, exec .startPhaseTimeout s = .next t ∧ t.pwr.state = .safe ∧ t.pwr.safeCause = 2) ∧
      (s.pwr.state = .starting → s.pwr.phase = 3 → ∃ t, exec .startPhaseTimeout s = .next t ∧ t.pwr.phase = 4 ∧
        ∀ st : SIx, (s.sdies[st]).state = .training → (t.sdies[st]).state = .offline ∧ t.pwr.degraded = true)) ∧
    (∀ rail : Fin 12,
      ((s.railsUp = false ∨ s.pwr.orderFlt.testBit rail.val = true) → exec (.railFault rail) s = .next s) ∧
      (s.railsUp = true → s.pwr.orderFlt.testBit rail.val = false →
        ∃ t, exec (.railFault rail) s = .next t ∧ t.pwr.pwrGood = false ∧
          t.pwr.orderFlt = s.pwr.orderFlt ||| 2 ^ rail.val ∧
          ((rail = 2 ∨ rail = 7 ∨ rail = 10) → t.pwr.state = .safe ∧ t.pwr.safeCause = 3) ∧
          (rail ≠ 2 → rail ≠ 7 → rail ≠ 10 → t.pwr.state = s.pwr.state) ∧ (rail.val < 2 → t.ctxs = s.ctxs ∧ t.cdies = s.cdies) ∧
          (∀ d : CIx, rail.val = 3 + d.val → (t.cdies[d]).held = true ∧ t.pwr.degraded = true) ∧
          (rail = 8 → (∀ l : LIx, (t.ldies[l]).held = true) ∧ t.pwr.degraded = true) ∧
          (rail = 9 → (∀ h : HIx, (t.hdies[h]).held = true) ∧ t.pwr.degraded = true))) ∧
    (let rests := s.pwr.state = .active ∧ s.pwr.idleCfg.bit 16 = true ∧ s.restful = true ∧
        s.pwr.busyAt + s.pwr.idleCfg.field 15 0 ≤ s.tick
     (rests → ∃ t, exec .idleEntry s = .next t ∧ t.pwr = { s.pwr with state := .idle, idleSince := s.tick } ∧
        (∀ st : SIx, (t.sdies[st]).state = if (s.sdies[st]).state = .normal then .selfRefresh else (s.sdies[st]).state) ∧
        (∀ (d : CIx) (i : TileIx), (t.cdies[d]).tiles[i].state =
          if (s.cdies[d]).tiles[i].state = .idle then .off else (s.cdies[d]).tiles[i].state) ∧
        t.ctxs = s.ctxs ∧ t.mem = s.mem) ∧
     (¬rests → exec .idleEntry s = .next s)) ∧
    (let rests := s.pwr.state = .idle ∧ s.pwr.idleCfg.bit 16 = true ∧ s.pwr.idleCfg.bit 17 = true ∧
        s.pwr.idleSince + s.pwr.idleCfg.field 31 24 * 25000 ≤ s.tick ∧
        ∀ j, (s.ctx j).state = .opened → ∀ x ∈ (s.ctx j).regions, x.kind ≠ 2
     (rests → ∃ t, exec .deepIdleEntry s = .next t ∧ t.pwr = { s.pwr with state := .deepIdle } ∧
        (∀ d, poisoned t d) ∧ t.mem = { s.mem with padPoison := t.mem.padPoison } ∧ { t with pwr := s.pwr, mem := s.mem } = s) ∧
     (¬rests → exec .deepIdleEntry s = .next s)) ∧
    (let on := s.setPwr (fun p => { p with state := .active, busyAt := s.tick })
     (s.pwr.state = .idle → exec .wake s = .next on) ∧
     (s.pwr.state = .deepIdle → exec .wake s =
        .next { on with cdies := s.cdies.map (fun (c : CDie) => { c with wakeEnd := s.tick + 1250 }) }) ∧
     (s.pwr.state ≠ .idle → s.pwr.state ≠ .deepIdle → exec .wake s = .next s)) ∧
    (∀ st : SIx, ∃ t, exec (.dieReset (.s st)) s = .next t ∧ t.sdies[st] = (s.sdies[st]).dieReset ∧
      (∀ k : SIx, k ≠ st → t.sdies[k] = s.sdies[k]) ∧ t.ctxs = s.ctxs ∧ t.cdies = s.cdies ∧ t.mem = s.mem) ∧
    (∀ d : CIx, ∃ t, exec (.dieReset (.c d)) s = .next t ∧ poisoned t d ∧
      (∀ q ∈ t.passes, q.die = d.val → ∀ i, i < 136 → q.tile ≠ some i) ∧
      (∀ i : TileIx, (t.cdies[d]).tiles[i].state = .off ∨ (t.cdies[d]).tiles[i].state = .fenced) ∧
      ((∀ j, (s.queue j 2).inflight = []) → ∀ k : CIx, k ≠ d → t.cdies[k] = s.cdies[k])) ∧
    (∀ l : LIx, ∃ t, exec (.dieReset (.l l)) s = .next t ∧ (t.ldies[l]).leases = [] ∧
      (∀ k : LIx, k ≠ l → { t.ldies[k] with streams := [] } = { s.ldies[k] with streams := [] }) ∧ t.ctxs = s.ctxs ∧
      t.cdies = s.cdies ∧ t.mem = s.mem) ∧
    (∀ h : HIx, exec (.dieReset (.h h)) s = exec (.hotReset h) s) ∧
    (∃ t, exec (.dieReset .m) s = .next t ∧ (∀ rq, rq ≠ .mgmt → t.roleOf rq = .none) ∧ t.evc.pend = [] ∧
      t.ctxs = s.ctxs ∧ t.cdies = s.cdies ∧ t.mem = s.mem)
end

