-- ==== Sys2Proof/Laws/State.lean ====
section
/-! SUPPORT. What an update of one part of the state leaves in every field, one lemma per field and update, and what a
part reads after it. -/

namespace Sys2Proof.Machine

theorem upd_self {α : Type} {n : Nat} (v : Vector α n) (i : Fin n) (f : α → α) : (upd v i f)[i] = f v[i] := by
  simp [upd]

theorem upd_other {α : Type} {n : Nat} (v : Vector α n) (i k : Fin n) (f : α → α) (h : i ≠ k) : (upd v i f)[k] = v[k] := by
  simp only [upd, Fin.getElem_fin]
  exact Vector.getElem_set_ne _ _ (fun e => h (Fin.ext e))

@[simp] theorem State.modCtx_pending (s : State) (j : JobIx) (f : Ctx → Ctx) : (s.modCtx j f).pending = s.pending := rfl
@[simp] theorem State.modCtx_tick (s : State) (j : JobIx) (f : Ctx → Ctx) : (s.modCtx j f).tick = s.tick := rfl
@[simp] theorem State.modCtx_pwr (s : State) (j : JobIx) (f : Ctx → Ctx) : (s.modCtx j f).pwr = s.pwr := rfl
@[simp] theorem State.modCtx_ctxs (s : State) (j : JobIx) (f : Ctx → Ctx) : (s.modCtx j f).ctxs = upd s.ctxs j f := rfl
@[simp] theorem State.modCtx_cdies (s : State) (j : JobIx) (f : Ctx → Ctx) : (s.modCtx j f).cdies = s.cdies := rfl
@[simp] theorem State.modCtx_sdies (s : State) (j : JobIx) (f : Ctx → Ctx) : (s.modCtx j f).sdies = s.sdies := rfl
@[simp] theorem State.modCtx_ldies (s : State) (j : JobIx) (f : Ctx → Ctx) : (s.modCtx j f).ldies = s.ldies := rfl
@[simp] theorem State.modCtx_hdies (s : State) (j : JobIx) (f : Ctx → Ctx) : (s.modCtx j f).hdies = s.hdies := rfl
@[simp] theorem State.modCtx_mem (s : State) (j : JobIx) (f : Ctx → Ctx) : (s.modCtx j f).mem = s.mem := rfl
@[simp] theorem State.modCtx_blocks (s : State) (j : JobIx) (f : Ctx → Ctx) : (s.modCtx j f).blocks = s.blocks := rfl
@[simp] theorem State.modCtx_passes (s : State) (j : JobIx) (f : Ctx → Ctx) : (s.modCtx j f).passes = s.passes := rfl
@[simp] theorem State.modCtx_cpr (s : State) (j : JobIx) (f : Ctx → Ctx) : (s.modCtx j f).cpr = s.cpr := rfl
@[simp] theorem State.modCtx_cols (s : State) (j : JobIx) (f : Ctx → Ctx) : (s.modCtx j f).cols = s.cols := rfl
@[simp] theorem State.modCtx_far (s : State) (j : JobIx) (f : Ctx → Ctx) : (s.modCtx j f).far = s.far := rfl
@[simp] theorem State.modCtx_evc (s : State) (j : JobIx) (f : Ctx → Ctx) : (s.modCtx j f).evc = s.evc := rfl
@[simp] theorem State.modCtx_flt (s : State) (j : JobIx) (f : Ctx → Ctx) : (s.modCtx j f).flt = s.flt := rfl
@[simp] theorem State.modCtx_asy (s : State) (j : JobIx) (f : Ctx → Ctx) : (s.modCtx j f).asy = s.asy := rfl
@[simp] theorem State.modCtx_cfg (s : State) (j : JobIx) (f : Ctx → Ctx) : (s.modCtx j f).cfg = s.cfg := rfl
@[simp] theorem State.modCtx_sec (s : State) (j : JobIx) (f : Ctx → Ctx) : (s.modCtx j f).sec = s.sec := rfl
@[simp] theorem State.modCtx_req (s : State) (j : JobIx) (f : Ctx → Ctx) : (s.modCtx j f).req = s.req := rfl
@[simp] theorem State.modCtx_cores (s : State) (j : JobIx) (f : Ctx → Ctx) : (s.modCtx j f).cores = s.cores := rfl
@[simp] theorem State.modCtx_mgmt (s : State) (j : JobIx) (f : Ctx → Ctx) : (s.modCtx j f).mgmt = s.mgmt := rfl
@[simp] theorem State.modCtx_con (s : State) (j : JobIx) (f : Ctx → Ctx) : (s.modCtx j f).con = s.con := rfl
@[simp] theorem State.modCtx_jtag (s : State) (j : JobIx) (f : Ctx → Ctx) : (s.modCtx j f).jtag = s.jtag := rfl
@[simp] theorem State.modCtx_rsp (s : State) (j : JobIx) (f : Ctx → Ctx) : (s.modCtx j f).rsp = s.rsp := rfl
@[simp] theorem State.modCtx_outs (s : State) (j : JobIx) (f : Ctx → Ctx) : (s.modCtx j f).outs = s.outs := rfl
@[simp] theorem State.modCtx_slowEnd (s : State) (j : JobIx) (f : Ctx → Ctx) : (s.modCtx j f).slowEnd = s.slowEnd := rfl
@[simp] theorem State.modCtx_freeCtr (s : State) (j : JobIx) (f : Ctx → Ctx) : (s.modCtx j f).freeCtr = s.freeCtr := rfl

@[simp] theorem State.modQ_pending (s : State) (j : JobIx) (e : EngIx) (f : Queue → Queue) : (s.modQ j e f).pending = s.pending := rfl
@[simp] theorem State.modQ_tick (s : State) (j : JobIx) (e : EngIx) (f : Queue → Queue) : (s.modQ j e f).tick = s.tick := rfl
@[simp] theorem State.modQ_pwr (s : State) (j : JobIx) (e : EngIx) (f : Queue → Queue) : (s.modQ j e f).pwr = s.pwr := rfl
@[simp] theorem State.modQ_ctxs (s : State) (j : JobIx) (e : EngIx) (f : Queue → Queue) : (s.modQ j e f).ctxs = upd s.ctxs j (fun c => c.modQ e f) := rfl
@[simp] theorem State.modQ_cdies (s : State) (j : JobIx) (e : EngIx) (f : Queue → Queue) : (s.modQ j e f).cdies = s.cdies := rfl
@[simp] theorem State.modQ_sdies (s : State) (j : JobIx) (e : EngIx) (f : Queue → Queue) : (s.modQ j e f).sdies = s.sdies := rfl
@[simp] theorem State.modQ_ldies (s : State) (j : JobIx) (e : EngIx) (f : Queue → Queue) : (s.modQ j e f).ldies = s.ldies := rfl
@[simp] theorem State.modQ_hdies (s : State) (j : JobIx) (e : EngIx) (f : Queue → Queue) : (s.modQ j e f).hdies = s.hdies := rfl
@[simp] theorem State.modQ_mem (s : State) (j : JobIx) (e : EngIx) (f : Queue → Queue) : (s.modQ j e f).mem = s.mem := rfl
@[simp] theorem State.modQ_blocks (s : State) (j : JobIx) (e : EngIx) (f : Queue → Queue) : (s.modQ j e f).blocks = s.blocks := rfl
@[simp] theorem State.modQ_passes (s : State) (j : JobIx) (e : EngIx) (f : Queue → Queue) : (s.modQ j e f).passes = s.passes := rfl
@[simp] theorem State.modQ_cpr (s : State) (j : JobIx) (e : EngIx) (f : Queue → Queue) : (s.modQ j e f).cpr = s.cpr := rfl
@[simp] theorem State.modQ_cols (s : State) (j : JobIx) (e : EngIx) (f : Queue → Queue) : (s.modQ j e f).cols = s.cols := rfl
@[simp] theorem State.modQ_far (s : State) (j : JobIx) (e : EngIx) (f : Queue → Queue) : (s.modQ j e f).far = s.far := rfl
@[simp] theorem State.modQ_evc (s : State) (j : JobIx) (e : EngIx) (f : Queue → Queue) : (s.modQ j e f).evc = s.evc := rfl
@[simp] theorem State.modQ_flt (s : State) (j : JobIx) (e : EngIx) (f : Queue → Queue) : (s.modQ j e f).flt = s.flt := rfl
@[simp] theorem State.modQ_asy (s : State) (j : JobIx) (e : EngIx) (f : Queue → Queue) : (s.modQ j e f).asy = s.asy := rfl
@[simp] theorem State.modQ_cfg (s : State) (j : JobIx) (e : EngIx) (f : Queue → Queue) : (s.modQ j e f).cfg = s.cfg := rfl
@[simp] theorem State.modQ_sec (s : State) (j : JobIx) (e : EngIx) (f : Queue → Queue) : (s.modQ j e f).sec = s.sec := rfl
@[simp] theorem State.modQ_req (s : State) (j : JobIx) (e : EngIx) (f : Queue → Queue) : (s.modQ j e f).req = s.req := rfl
@[simp] theorem State.modQ_cores (s : State) (j : JobIx) (e : EngIx) (f : Queue → Queue) : (s.modQ j e f).cores = s.cores := rfl
@[simp] theorem State.modQ_mgmt (s : State) (j : JobIx) (e : EngIx) (f : Queue → Queue) : (s.modQ j e f).mgmt = s.mgmt := rfl
@[simp] theorem State.modQ_con (s : State) (j : JobIx) (e : EngIx) (f : Queue → Queue) : (s.modQ j e f).con = s.con := rfl
@[simp] theorem State.modQ_jtag (s : State) (j : JobIx) (e : EngIx) (f : Queue → Queue) : (s.modQ j e f).jtag = s.jtag := rfl
@[simp] theorem State.modQ_rsp (s : State) (j : JobIx) (e : EngIx) (f : Queue → Queue) : (s.modQ j e f).rsp = s.rsp := rfl
@[simp] theorem State.modQ_outs (s : State) (j : JobIx) (e : EngIx) (f : Queue → Queue) : (s.modQ j e f).outs = s.outs := rfl
@[simp] theorem State.modQ_slowEnd (s : State) (j : JobIx) (e : EngIx) (f : Queue → Queue) : (s.modQ j e f).slowEnd = s.slowEnd := rfl
@[simp] theorem State.modQ_freeCtr (s : State) (j : JobIx) (e : EngIx) (f : Queue → Queue) : (s.modQ j e f).freeCtr = s.freeCtr := rfl

@[simp] theorem State.setStatus_pending (s : State) (j : JobIx) (i : Nat) : (s.setStatus j i).pending = s.pending := rfl
@[simp] theorem State.setStatus_tick (s : State) (j : JobIx) (i : Nat) : (s.setStatus j i).tick = s.tick := rfl
@[simp] theorem State.setStatus_pwr (s : State) (j : JobIx) (i : Nat) : (s.setStatus j i).pwr = s.pwr := rfl
@[simp] theorem State.setStatus_ctxs (s : State) (j : JobIx) (i : Nat) : (s.setStatus j i).ctxs = upd s.ctxs j (fun c => { c with jobStatus := c.jobStatus ||| Word.at' 1 i }) := rfl
@[simp] theorem State.setStatus_cdies (s : State) (j : JobIx) (i : Nat) : (s.setStatus j i).cdies = s.cdies := rfl
@[simp] theorem State.setStatus_sdies (s : State) (j : JobIx) (i : Nat) : (s.setStatus j i).sdies = s.sdies := rfl
@[simp] theorem State.setStatus_ldies (s : State) (j : JobIx) (i : Nat) : (s.setStatus j i).ldies = s.ldies := rfl
@[simp] theorem State.setStatus_hdies (s : State) (j : JobIx) (i : Nat) : (s.setStatus j i).hdies = s.hdies := rfl
@[simp] theorem State.setStatus_mem (s : State) (j : JobIx) (i : Nat) : (s.setStatus j i).mem = s.mem := rfl
@[simp] theorem State.setStatus_blocks (s : State) (j : JobIx) (i : Nat) : (s.setStatus j i).blocks = s.blocks := rfl
@[simp] theorem State.setStatus_passes (s : State) (j : JobIx) (i : Nat) : (s.setStatus j i).passes = s.passes := rfl
@[simp] theorem State.setStatus_cpr (s : State) (j : JobIx) (i : Nat) : (s.setStatus j i).cpr = s.cpr := rfl
@[simp] theorem State.setStatus_cols (s : State) (j : JobIx) (i : Nat) : (s.setStatus j i).cols = s.cols := rfl
@[simp] theorem State.setStatus_far (s : State) (j : JobIx) (i : Nat) : (s.setStatus j i).far = s.far := rfl
@[simp] theorem State.setStatus_evc (s : State) (j : JobIx) (i : Nat) : (s.setStatus j i).evc = s.evc := rfl
@[simp] theorem State.setStatus_flt (s : State) (j : JobIx) (i : Nat) : (s.setStatus j i).flt = s.flt := rfl
@[simp] theorem State.setStatus_asy (s : State) (j : JobIx) (i : Nat) : (s.setStatus j i).asy = s.asy := rfl
@[simp] theorem State.setStatus_cfg (s : State) (j : JobIx) (i : Nat) : (s.setStatus j i).cfg = s.cfg := rfl
@[simp] theorem State.setStatus_sec (s : State) (j : JobIx) (i : Nat) : (s.setStatus j i).sec = s.sec := rfl
@[simp] theorem State.setStatus_req (s : State) (j : JobIx) (i : Nat) : (s.setStatus j i).req = s.req := rfl
@[simp] theorem State.setStatus_cores (s : State) (j : JobIx) (i : Nat) : (s.setStatus j i).cores = s.cores := rfl
@[simp] theorem State.setStatus_mgmt (s : State) (j : JobIx) (i : Nat) : (s.setStatus j i).mgmt = s.mgmt := rfl
@[simp] theorem State.setStatus_con (s : State) (j : JobIx) (i : Nat) : (s.setStatus j i).con = s.con := rfl
@[simp] theorem State.setStatus_jtag (s : State) (j : JobIx) (i : Nat) : (s.setStatus j i).jtag = s.jtag := rfl
@[simp] theorem State.setStatus_rsp (s : State) (j : JobIx) (i : Nat) : (s.setStatus j i).rsp = s.rsp := rfl
@[simp] theorem State.setStatus_outs (s : State) (j : JobIx) (i : Nat) : (s.setStatus j i).outs = s.outs := rfl
@[simp] theorem State.setStatus_slowEnd (s : State) (j : JobIx) (i : Nat) : (s.setStatus j i).slowEnd = s.slowEnd := rfl
@[simp] theorem State.setStatus_freeCtr (s : State) (j : JobIx) (i : Nat) : (s.setStatus j i).freeCtr = s.freeCtr := rfl

@[simp] theorem State.modCDie_pending (s : State) (d : CIx) (f : CDie → CDie) : (s.modCDie d f).pending = s.pending := rfl
@[simp] theorem State.modCDie_tick (s : State) (d : CIx) (f : CDie → CDie) : (s.modCDie d f).tick = s.tick := rfl
@[simp] theorem State.modCDie_pwr (s : State) (d : CIx) (f : CDie → CDie) : (s.modCDie d f).pwr = s.pwr := rfl
@[simp] theorem State.modCDie_ctxs (s : State) (d : CIx) (f : CDie → CDie) : (s.modCDie d f).ctxs = s.ctxs := rfl
@[simp] theorem State.modCDie_cdies (s : State) (d : CIx) (f : CDie → CDie) : (s.modCDie d f).cdies = upd s.cdies d f := rfl
@[simp] theorem State.modCDie_sdies (s : State) (d : CIx) (f : CDie → CDie) : (s.modCDie d f).sdies = s.sdies := rfl
@[simp] theorem State.modCDie_ldies (s : State) (d : CIx) (f : CDie → CDie) : (s.modCDie d f).ldies = s.ldies := rfl
@[simp] theorem State.modCDie_hdies (s : State) (d : CIx) (f : CDie → CDie) : (s.modCDie d f).hdies = s.hdies := rfl
@[simp] theorem State.modCDie_mem (s : State) (d : CIx) (f : CDie → CDie) : (s.modCDie d f).mem = s.mem := rfl
@[simp] theorem State.modCDie_blocks (s : State) (d : CIx) (f : CDie → CDie) : (s.modCDie d f).blocks = s.blocks := rfl
@[simp] theorem State.modCDie_passes (s : State) (d : CIx) (f : CDie → CDie) : (s.modCDie d f).passes = s.passes := rfl
@[simp] theorem State.modCDie_cpr (s : State) (d : CIx) (f : CDie → CDie) : (s.modCDie d f).cpr = s.cpr := rfl
@[simp] theorem State.modCDie_cols (s : State) (d : CIx) (f : CDie → CDie) : (s.modCDie d f).cols = s.cols := rfl
@[simp] theorem State.modCDie_far (s : State) (d : CIx) (f : CDie → CDie) : (s.modCDie d f).far = s.far := rfl
@[simp] theorem State.modCDie_evc (s : State) (d : CIx) (f : CDie → CDie) : (s.modCDie d f).evc = s.evc := rfl
@[simp] theorem State.modCDie_flt (s : State) (d : CIx) (f : CDie → CDie) : (s.modCDie d f).flt = s.flt := rfl
@[simp] theorem State.modCDie_asy (s : State) (d : CIx) (f : CDie → CDie) : (s.modCDie d f).asy = s.asy := rfl
@[simp] theorem State.modCDie_cfg (s : State) (d : CIx) (f : CDie → CDie) : (s.modCDie d f).cfg = s.cfg := rfl
@[simp] theorem State.modCDie_sec (s : State) (d : CIx) (f : CDie → CDie) : (s.modCDie d f).sec = s.sec := rfl
@[simp] theorem State.modCDie_req (s : State) (d : CIx) (f : CDie → CDie) : (s.modCDie d f).req = s.req := rfl
@[simp] theorem State.modCDie_cores (s : State) (d : CIx) (f : CDie → CDie) : (s.modCDie d f).cores = s.cores := rfl
@[simp] theorem State.modCDie_mgmt (s : State) (d : CIx) (f : CDie → CDie) : (s.modCDie d f).mgmt = s.mgmt := rfl
@[simp] theorem State.modCDie_con (s : State) (d : CIx) (f : CDie → CDie) : (s.modCDie d f).con = s.con := rfl
@[simp] theorem State.modCDie_jtag (s : State) (d : CIx) (f : CDie → CDie) : (s.modCDie d f).jtag = s.jtag := rfl
@[simp] theorem State.modCDie_rsp (s : State) (d : CIx) (f : CDie → CDie) : (s.modCDie d f).rsp = s.rsp := rfl
@[simp] theorem State.modCDie_outs (s : State) (d : CIx) (f : CDie → CDie) : (s.modCDie d f).outs = s.outs := rfl
@[simp] theorem State.modCDie_slowEnd (s : State) (d : CIx) (f : CDie → CDie) : (s.modCDie d f).slowEnd = s.slowEnd := rfl
@[simp] theorem State.modCDie_freeCtr (s : State) (d : CIx) (f : CDie → CDie) : (s.modCDie d f).freeCtr = s.freeCtr := rfl

@[simp] theorem State.modTile_pending (s : State) (d : CIx) (t : TileIx) (f : Tile → Tile) : (s.modTile d t f).pending = s.pending := rfl
@[simp] theorem State.modTile_tick (s : State) (d : CIx) (t : TileIx) (f : Tile → Tile) : (s.modTile d t f).tick = s.tick := rfl
@[simp] theorem State.modTile_pwr (s : State) (d : CIx) (t : TileIx) (f : Tile → Tile) : (s.modTile d t f).pwr = s.pwr := rfl
@[simp] theorem State.modTile_ctxs (s : State) (d : CIx) (t : TileIx) (f : Tile → Tile) : (s.modTile d t f).ctxs = s.ctxs := rfl
@[simp] theorem State.modTile_cdies (s : State) (d : CIx) (t : TileIx) (f : Tile → Tile) : (s.modTile d t f).cdies = upd s.cdies d (fun c => { c with tiles := upd c.tiles t f }) := rfl
@[simp] theorem State.modTile_sdies (s : State) (d : CIx) (t : TileIx) (f : Tile → Tile) : (s.modTile d t f).sdies = s.sdies := rfl
@[simp] theorem State.modTile_ldies (s : State) (d : CIx) (t : TileIx) (f : Tile → Tile) : (s.modTile d t f).ldies = s.ldies := rfl
@[simp] theorem State.modTile_hdies (s : State) (d : CIx) (t : TileIx) (f : Tile → Tile) : (s.modTile d t f).hdies = s.hdies := rfl
@[simp] theorem State.modTile_mem (s : State) (d : CIx) (t : TileIx) (f : Tile → Tile) : (s.modTile d t f).mem = s.mem := rfl
@[simp] theorem State.modTile_blocks (s : State) (d : CIx) (t : TileIx) (f : Tile → Tile) : (s.modTile d t f).blocks = s.blocks := rfl
@[simp] theorem State.modTile_passes (s : State) (d : CIx) (t : TileIx) (f : Tile → Tile) : (s.modTile d t f).passes = s.passes := rfl
@[simp] theorem State.modTile_cpr (s : State) (d : CIx) (t : TileIx) (f : Tile → Tile) : (s.modTile d t f).cpr = s.cpr := rfl
@[simp] theorem State.modTile_cols (s : State) (d : CIx) (t : TileIx) (f : Tile → Tile) : (s.modTile d t f).cols = s.cols := rfl
@[simp] theorem State.modTile_far (s : State) (d : CIx) (t : TileIx) (f : Tile → Tile) : (s.modTile d t f).far = s.far := rfl
@[simp] theorem State.modTile_evc (s : State) (d : CIx) (t : TileIx) (f : Tile → Tile) : (s.modTile d t f).evc = s.evc := rfl
@[simp] theorem State.modTile_flt (s : State) (d : CIx) (t : TileIx) (f : Tile → Tile) : (s.modTile d t f).flt = s.flt := rfl
@[simp] theorem State.modTile_asy (s : State) (d : CIx) (t : TileIx) (f : Tile → Tile) : (s.modTile d t f).asy = s.asy := rfl
@[simp] theorem State.modTile_cfg (s : State) (d : CIx) (t : TileIx) (f : Tile → Tile) : (s.modTile d t f).cfg = s.cfg := rfl
@[simp] theorem State.modTile_sec (s : State) (d : CIx) (t : TileIx) (f : Tile → Tile) : (s.modTile d t f).sec = s.sec := rfl
@[simp] theorem State.modTile_req (s : State) (d : CIx) (t : TileIx) (f : Tile → Tile) : (s.modTile d t f).req = s.req := rfl
@[simp] theorem State.modTile_cores (s : State) (d : CIx) (t : TileIx) (f : Tile → Tile) : (s.modTile d t f).cores = s.cores := rfl
@[simp] theorem State.modTile_mgmt (s : State) (d : CIx) (t : TileIx) (f : Tile → Tile) : (s.modTile d t f).mgmt = s.mgmt := rfl
@[simp] theorem State.modTile_con (s : State) (d : CIx) (t : TileIx) (f : Tile → Tile) : (s.modTile d t f).con = s.con := rfl
@[simp] theorem State.modTile_jtag (s : State) (d : CIx) (t : TileIx) (f : Tile → Tile) : (s.modTile d t f).jtag = s.jtag := rfl
@[simp] theorem State.modTile_rsp (s : State) (d : CIx) (t : TileIx) (f : Tile → Tile) : (s.modTile d t f).rsp = s.rsp := rfl
@[simp] theorem State.modTile_outs (s : State) (d : CIx) (t : TileIx) (f : Tile → Tile) : (s.modTile d t f).outs = s.outs := rfl
@[simp] theorem State.modTile_slowEnd (s : State) (d : CIx) (t : TileIx) (f : Tile → Tile) : (s.modTile d t f).slowEnd = s.slowEnd := rfl
@[simp] theorem State.modTile_freeCtr (s : State) (d : CIx) (t : TileIx) (f : Tile → Tile) : (s.modTile d t f).freeCtr = s.freeCtr := rfl

@[simp] theorem State.modSDie_pending (s : State) (x : SIx) (f : SDie → SDie) : (s.modSDie x f).pending = s.pending := rfl
@[simp] theorem State.modSDie_tick (s : State) (x : SIx) (f : SDie → SDie) : (s.modSDie x f).tick = s.tick := rfl
@[simp] theorem State.modSDie_pwr (s : State) (x : SIx) (f : SDie → SDie) : (s.modSDie x f).pwr = s.pwr := rfl
@[simp] theorem State.modSDie_ctxs (s : State) (x : SIx) (f : SDie → SDie) : (s.modSDie x f).ctxs = s.ctxs := rfl
@[simp] theorem State.modSDie_cdies (s : State) (x : SIx) (f : SDie → SDie) : (s.modSDie x f).cdies = s.cdies := rfl
@[simp] theorem State.modSDie_sdies (s : State) (x : SIx) (f : SDie → SDie) : (s.modSDie x f).sdies = upd s.sdies x f := rfl
@[simp] theorem State.modSDie_ldies (s : State) (x : SIx) (f : SDie → SDie) : (s.modSDie x f).ldies = s.ldies := rfl
@[simp] theorem State.modSDie_hdies (s : State) (x : SIx) (f : SDie → SDie) : (s.modSDie x f).hdies = s.hdies := rfl
@[simp] theorem State.modSDie_mem (s : State) (x : SIx) (f : SDie → SDie) : (s.modSDie x f).mem = s.mem := rfl
@[simp] theorem State.modSDie_blocks (s : State) (x : SIx) (f : SDie → SDie) : (s.modSDie x f).blocks = s.blocks := rfl
@[simp] theorem State.modSDie_passes (s : State) (x : SIx) (f : SDie → SDie) : (s.modSDie x f).passes = s.passes := rfl
@[simp] theorem State.modSDie_cpr (s : State) (x : SIx) (f : SDie → SDie) : (s.modSDie x f).cpr = s.cpr := rfl
@[simp] theorem State.modSDie_cols (s : State) (x : SIx) (f : SDie → SDie) : (s.modSDie x f).cols = s.cols := rfl
@[simp] theorem State.modSDie_far (s : State) (x : SIx) (f : SDie → SDie) : (s.modSDie x f).far = s.far := rfl
@[simp] theorem State.modSDie_evc (s : State) (x : SIx) (f : SDie → SDie) : (s.modSDie x f).evc = s.evc := rfl
@[simp] theorem State.modSDie_flt (s : State) (x : SIx) (f : SDie → SDie) : (s.modSDie x f).flt = s.flt := rfl
@[simp] theorem State.modSDie_asy (s : State) (x : SIx) (f : SDie → SDie) : (s.modSDie x f).asy = s.asy := rfl
@[simp] theorem State.modSDie_cfg (s : State) (x : SIx) (f : SDie → SDie) : (s.modSDie x f).cfg = s.cfg := rfl
@[simp] theorem State.modSDie_sec (s : State) (x : SIx) (f : SDie → SDie) : (s.modSDie x f).sec = s.sec := rfl
@[simp] theorem State.modSDie_req (s : State) (x : SIx) (f : SDie → SDie) : (s.modSDie x f).req = s.req := rfl
@[simp] theorem State.modSDie_cores (s : State) (x : SIx) (f : SDie → SDie) : (s.modSDie x f).cores = s.cores := rfl
@[simp] theorem State.modSDie_mgmt (s : State) (x : SIx) (f : SDie → SDie) : (s.modSDie x f).mgmt = s.mgmt := rfl
@[simp] theorem State.modSDie_con (s : State) (x : SIx) (f : SDie → SDie) : (s.modSDie x f).con = s.con := rfl
@[simp] theorem State.modSDie_jtag (s : State) (x : SIx) (f : SDie → SDie) : (s.modSDie x f).jtag = s.jtag := rfl
@[simp] theorem State.modSDie_rsp (s : State) (x : SIx) (f : SDie → SDie) : (s.modSDie x f).rsp = s.rsp := rfl
@[simp] theorem State.modSDie_outs (s : State) (x : SIx) (f : SDie → SDie) : (s.modSDie x f).outs = s.outs := rfl
@[simp] theorem State.modSDie_slowEnd (s : State) (x : SIx) (f : SDie → SDie) : (s.modSDie x f).slowEnd = s.slowEnd := rfl
@[simp] theorem State.modSDie_freeCtr (s : State) (x : SIx) (f : SDie → SDie) : (s.modSDie x f).freeCtr = s.freeCtr := rfl

@[simp] theorem State.modLDie_pending (s : State) (l : LIx) (f : LDie → LDie) : (s.modLDie l f).pending = s.pending := rfl
@[simp] theorem State.modLDie_tick (s : State) (l : LIx) (f : LDie → LDie) : (s.modLDie l f).tick = s.tick := rfl
@[simp] theorem State.modLDie_pwr (s : State) (l : LIx) (f : LDie → LDie) : (s.modLDie l f).pwr = s.pwr := rfl
@[simp] theorem State.modLDie_ctxs (s : State) (l : LIx) (f : LDie → LDie) : (s.modLDie l f).ctxs = s.ctxs := rfl
@[simp] theorem State.modLDie_cdies (s : State) (l : LIx) (f : LDie → LDie) : (s.modLDie l f).cdies = s.cdies := rfl
@[simp] theorem State.modLDie_sdies (s : State) (l : LIx) (f : LDie → LDie) : (s.modLDie l f).sdies = s.sdies := rfl
@[simp] theorem State.modLDie_ldies (s : State) (l : LIx) (f : LDie → LDie) : (s.modLDie l f).ldies = upd s.ldies l f := rfl
@[simp] theorem State.modLDie_hdies (s : State) (l : LIx) (f : LDie → LDie) : (s.modLDie l f).hdies = s.hdies := rfl
@[simp] theorem State.modLDie_mem (s : State) (l : LIx) (f : LDie → LDie) : (s.modLDie l f).mem = s.mem := rfl
@[simp] theorem State.modLDie_blocks (s : State) (l : LIx) (f : LDie → LDie) : (s.modLDie l f).blocks = s.blocks := rfl
@[simp] theorem State.modLDie_passes (s : State) (l : LIx) (f : LDie → LDie) : (s.modLDie l f).passes = s.passes := rfl
@[simp] theorem State.modLDie_cpr (s : State) (l : LIx) (f : LDie → LDie) : (s.modLDie l f).cpr = s.cpr := rfl
@[simp] theorem State.modLDie_cols (s : State) (l : LIx) (f : LDie → LDie) : (s.modLDie l f).cols = s.cols := rfl
@[simp] theorem State.modLDie_far (s : State) (l : LIx) (f : LDie → LDie) : (s.modLDie l f).far = s.far := rfl
@[simp] theorem State.modLDie_evc (s : State) (l : LIx) (f : LDie → LDie) : (s.modLDie l f).evc = s.evc := rfl
@[simp] theorem State.modLDie_flt (s : State) (l : LIx) (f : LDie → LDie) : (s.modLDie l f).flt = s.flt := rfl
@[simp] theorem State.modLDie_asy (s : State) (l : LIx) (f : LDie → LDie) : (s.modLDie l f).asy = s.asy := rfl
@[simp] theorem State.modLDie_cfg (s : State) (l : LIx) (f : LDie → LDie) : (s.modLDie l f).cfg = s.cfg := rfl
@[simp] theorem State.modLDie_sec (s : State) (l : LIx) (f : LDie → LDie) : (s.modLDie l f).sec = s.sec := rfl
@[simp] theorem State.modLDie_req (s : State) (l : LIx) (f : LDie → LDie) : (s.modLDie l f).req = s.req := rfl
@[simp] theorem State.modLDie_cores (s : State) (l : LIx) (f : LDie → LDie) : (s.modLDie l f).cores = s.cores := rfl
@[simp] theorem State.modLDie_mgmt (s : State) (l : LIx) (f : LDie → LDie) : (s.modLDie l f).mgmt = s.mgmt := rfl
@[simp] theorem State.modLDie_con (s : State) (l : LIx) (f : LDie → LDie) : (s.modLDie l f).con = s.con := rfl
@[simp] theorem State.modLDie_jtag (s : State) (l : LIx) (f : LDie → LDie) : (s.modLDie l f).jtag = s.jtag := rfl
@[simp] theorem State.modLDie_rsp (s : State) (l : LIx) (f : LDie → LDie) : (s.modLDie l f).rsp = s.rsp := rfl
@[simp] theorem State.modLDie_outs (s : State) (l : LIx) (f : LDie → LDie) : (s.modLDie l f).outs = s.outs := rfl
@[simp] theorem State.modLDie_slowEnd (s : State) (l : LIx) (f : LDie → LDie) : (s.modLDie l f).slowEnd = s.slowEnd := rfl
@[simp] theorem State.modLDie_freeCtr (s : State) (l : LIx) (f : LDie → LDie) : (s.modLDie l f).freeCtr = s.freeCtr := rfl

@[simp] theorem State.modPort_pending (s : State) (l : LIx) (p : PortIx) (f : Port → Port) : (s.modPort l p f).pending = s.pending := rfl
@[simp] theorem State.modPort_tick (s : State) (l : LIx) (p : PortIx) (f : Port → Port) : (s.modPort l p f).tick = s.tick := rfl
@[simp] theorem State.modPort_pwr (s : State) (l : LIx) (p : PortIx) (f : Port → Port) : (s.modPort l p f).pwr = s.pwr := rfl
@[simp] theorem State.modPort_ctxs (s : State) (l : LIx) (p : PortIx) (f : Port → Port) : (s.modPort l p f).ctxs = s.ctxs := rfl
@[simp] theorem State.modPort_cdies (s : State) (l : LIx) (p : PortIx) (f : Port → Port) : (s.modPort l p f).cdies = s.cdies := rfl
@[simp] theorem State.modPort_sdies (s : State) (l : LIx) (p : PortIx) (f : Port → Port) : (s.modPort l p f).sdies = s.sdies := rfl
@[simp] theorem State.modPort_ldies (s : State) (l : LIx) (p : PortIx) (f : Port → Port) : (s.modPort l p f).ldies = upd s.ldies l (fun d => { d with ports := upd d.ports p f }) := rfl
@[simp] theorem State.modPort_hdies (s : State) (l : LIx) (p : PortIx) (f : Port → Port) : (s.modPort l p f).hdies = s.hdies := rfl
@[simp] theorem State.modPort_mem (s : State) (l : LIx) (p : PortIx) (f : Port → Port) : (s.modPort l p f).mem = s.mem := rfl
@[simp] theorem State.modPort_blocks (s : State) (l : LIx) (p : PortIx) (f : Port → Port) : (s.modPort l p f).blocks = s.blocks := rfl
@[simp] theorem State.modPort_passes (s : State) (l : LIx) (p : PortIx) (f : Port → Port) : (s.modPort l p f).passes = s.passes := rfl
@[simp] theorem State.modPort_cpr (s : State) (l : LIx) (p : PortIx) (f : Port → Port) : (s.modPort l p f).cpr = s.cpr := rfl
@[simp] theorem State.modPort_cols (s : State) (l : LIx) (p : PortIx) (f : Port → Port) : (s.modPort l p f).cols = s.cols := rfl
@[simp] theorem State.modPort_far (s : State) (l : LIx) (p : PortIx) (f : Port → Port) : (s.modPort l p f).far = s.far := rfl
@[simp] theorem State.modPort_evc (s : State) (l : LIx) (p : PortIx) (f : Port → Port) : (s.modPort l p f).evc = s.evc := rfl
@[simp] theorem State.modPort_flt (s : State) (l : LIx) (p : PortIx) (f : Port → Port) : (s.modPort l p f).flt = s.flt := rfl
@[simp] theorem State.modPort_asy (s : State) (l : LIx) (p : PortIx) (f : Port → Port) : (s.modPort l p f).asy = s.asy := rfl
@[simp] theorem State.modPort_cfg (s : State) (l : LIx) (p : PortIx) (f : Port → Port) : (s.modPort l p f).cfg = s.cfg := rfl
@[simp] theorem State.modPort_sec (s : State) (l : LIx) (p : PortIx) (f : Port → Port) : (s.modPort l p f).sec = s.sec := rfl
@[simp] theorem State.modPort_req (s : State) (l : LIx) (p : PortIx) (f : Port → Port) : (s.modPort l p f).req = s.req := rfl
@[simp] theorem State.modPort_cores (s : State) (l : LIx) (p : PortIx) (f : Port → Port) : (s.modPort l p f).cores = s.cores := rfl
@[simp] theorem State.modPort_mgmt (s : State) (l : LIx) (p : PortIx) (f : Port → Port) : (s.modPort l p f).mgmt = s.mgmt := rfl
@[simp] theorem State.modPort_con (s : State) (l : LIx) (p : PortIx) (f : Port → Port) : (s.modPort l p f).con = s.con := rfl
@[simp] theorem State.modPort_jtag (s : State) (l : LIx) (p : PortIx) (f : Port → Port) : (s.modPort l p f).jtag = s.jtag := rfl
@[simp] theorem State.modPort_rsp (s : State) (l : LIx) (p : PortIx) (f : Port → Port) : (s.modPort l p f).rsp = s.rsp := rfl
@[simp] theorem State.modPort_outs (s : State) (l : LIx) (p : PortIx) (f : Port → Port) : (s.modPort l p f).outs = s.outs := rfl
@[simp] theorem State.modPort_slowEnd (s : State) (l : LIx) (p : PortIx) (f : Port → Port) : (s.modPort l p f).slowEnd = s.slowEnd := rfl
@[simp] theorem State.modPort_freeCtr (s : State) (l : LIx) (p : PortIx) (f : Port → Port) : (s.modPort l p f).freeCtr = s.freeCtr := rfl

@[simp] theorem State.modHDie_pending (s : State) (h : HIx) (f : HDie → HDie) : (s.modHDie h f).pending = s.pending := rfl
@[simp] theorem State.modHDie_tick (s : State) (h : HIx) (f : HDie → HDie) : (s.modHDie h f).tick = s.tick := rfl
@[simp] theorem State.modHDie_pwr (s : State) (h : HIx) (f : HDie → HDie) : (s.modHDie h f).pwr = s.pwr := rfl
@[simp] theorem State.modHDie_ctxs (s : State) (h : HIx) (f : HDie → HDie) : (s.modHDie h f).ctxs = s.ctxs := rfl
@[simp] theorem State.modHDie_cdies (s : State) (h : HIx) (f : HDie → HDie) : (s.modHDie h f).cdies = s.cdies := rfl
@[simp] theorem State.modHDie_sdies (s : State) (h : HIx) (f : HDie → HDie) : (s.modHDie h f).sdies = s.sdies := rfl
@[simp] theorem State.modHDie_ldies (s : State) (h : HIx) (f : HDie → HDie) : (s.modHDie h f).ldies = s.ldies := rfl
@[simp] theorem State.modHDie_hdies (s : State) (h : HIx) (f : HDie → HDie) : (s.modHDie h f).hdies = upd s.hdies h f := rfl
@[simp] theorem State.modHDie_mem (s : State) (h : HIx) (f : HDie → HDie) : (s.modHDie h f).mem = s.mem := rfl
@[simp] theorem State.modHDie_blocks (s : State) (h : HIx) (f : HDie → HDie) : (s.modHDie h f).blocks = s.blocks := rfl
@[simp] theorem State.modHDie_passes (s : State) (h : HIx) (f : HDie → HDie) : (s.modHDie h f).passes = s.passes := rfl
@[simp] theorem State.modHDie_cpr (s : State) (h : HIx) (f : HDie → HDie) : (s.modHDie h f).cpr = s.cpr := rfl
@[simp] theorem State.modHDie_cols (s : State) (h : HIx) (f : HDie → HDie) : (s.modHDie h f).cols = s.cols := rfl
@[simp] theorem State.modHDie_far (s : State) (h : HIx) (f : HDie → HDie) : (s.modHDie h f).far = s.far := rfl
@[simp] theorem State.modHDie_evc (s : State) (h : HIx) (f : HDie → HDie) : (s.modHDie h f).evc = s.evc := rfl
@[simp] theorem State.modHDie_flt (s : State) (h : HIx) (f : HDie → HDie) : (s.modHDie h f).flt = s.flt := rfl
@[simp] theorem State.modHDie_asy (s : State) (h : HIx) (f : HDie → HDie) : (s.modHDie h f).asy = s.asy := rfl
@[simp] theorem State.modHDie_cfg (s : State) (h : HIx) (f : HDie → HDie) : (s.modHDie h f).cfg = s.cfg := rfl
@[simp] theorem State.modHDie_sec (s : State) (h : HIx) (f : HDie → HDie) : (s.modHDie h f).sec = s.sec := rfl
@[simp] theorem State.modHDie_req (s : State) (h : HIx) (f : HDie → HDie) : (s.modHDie h f).req = s.req := rfl
@[simp] theorem State.modHDie_cores (s : State) (h : HIx) (f : HDie → HDie) : (s.modHDie h f).cores = s.cores := rfl
@[simp] theorem State.modHDie_mgmt (s : State) (h : HIx) (f : HDie → HDie) : (s.modHDie h f).mgmt = s.mgmt := rfl
@[simp] theorem State.modHDie_con (s : State) (h : HIx) (f : HDie → HDie) : (s.modHDie h f).con = s.con := rfl
@[simp] theorem State.modHDie_jtag (s : State) (h : HIx) (f : HDie → HDie) : (s.modHDie h f).jtag = s.jtag := rfl
@[simp] theorem State.modHDie_rsp (s : State) (h : HIx) (f : HDie → HDie) : (s.modHDie h f).rsp = s.rsp := rfl
@[simp] theorem State.modHDie_outs (s : State) (h : HIx) (f : HDie → HDie) : (s.modHDie h f).outs = s.outs := rfl
@[simp] theorem State.modHDie_slowEnd (s : State) (h : HIx) (f : HDie → HDie) : (s.modHDie h f).slowEnd = s.slowEnd := rfl
@[simp] theorem State.modHDie_freeCtr (s : State) (h : HIx) (f : HDie → HDie) : (s.modHDie h f).freeCtr = s.freeCtr := rfl

@[simp] theorem State.modReq_pending (s : State) (rq : Requester) (f : ReqState → ReqState) : (s.modReq rq f).pending = s.pending := rfl
@[simp] theorem State.modReq_tick (s : State) (rq : Requester) (f : ReqState → ReqState) : (s.modReq rq f).tick = s.tick := rfl
@[simp] theorem State.modReq_pwr (s : State) (rq : Requester) (f : ReqState → ReqState) : (s.modReq rq f).pwr = s.pwr := rfl
@[simp] theorem State.modReq_ctxs (s : State) (rq : Requester) (f : ReqState → ReqState) : (s.modReq rq f).ctxs = s.ctxs := rfl
@[simp] theorem State.modReq_cdies (s : State) (rq : Requester) (f : ReqState → ReqState) : (s.modReq rq f).cdies = s.cdies := rfl
@[simp] theorem State.modReq_sdies (s : State) (rq : Requester) (f : ReqState → ReqState) : (s.modReq rq f).sdies = s.sdies := rfl
@[simp] theorem State.modReq_ldies (s : State) (rq : Requester) (f : ReqState → ReqState) : (s.modReq rq f).ldies = s.ldies := rfl
@[simp] theorem State.modReq_hdies (s : State) (rq : Requester) (f : ReqState → ReqState) : (s.modReq rq f).hdies = s.hdies := rfl
@[simp] theorem State.modReq_mem (s : State) (rq : Requester) (f : ReqState → ReqState) : (s.modReq rq f).mem = s.mem := rfl
@[simp] theorem State.modReq_blocks (s : State) (rq : Requester) (f : ReqState → ReqState) : (s.modReq rq f).blocks = s.blocks := rfl
@[simp] theorem State.modReq_passes (s : State) (rq : Requester) (f : ReqState → ReqState) : (s.modReq rq f).passes = s.passes := rfl
@[simp] theorem State.modReq_cpr (s : State) (rq : Requester) (f : ReqState → ReqState) : (s.modReq rq f).cpr = s.cpr := rfl
@[simp] theorem State.modReq_cols (s : State) (rq : Requester) (f : ReqState → ReqState) : (s.modReq rq f).cols = s.cols := rfl
@[simp] theorem State.modReq_far (s : State) (rq : Requester) (f : ReqState → ReqState) : (s.modReq rq f).far = s.far := rfl
@[simp] theorem State.modReq_evc (s : State) (rq : Requester) (f : ReqState → ReqState) : (s.modReq rq f).evc = s.evc := rfl
@[simp] theorem State.modReq_flt (s : State) (rq : Requester) (f : ReqState → ReqState) : (s.modReq rq f).flt = s.flt := rfl
@[simp] theorem State.modReq_asy (s : State) (rq : Requester) (f : ReqState → ReqState) : (s.modReq rq f).asy = s.asy := rfl
@[simp] theorem State.modReq_cfg (s : State) (rq : Requester) (f : ReqState → ReqState) : (s.modReq rq f).cfg = s.cfg := rfl
@[simp] theorem State.modReq_sec (s : State) (rq : Requester) (f : ReqState → ReqState) : (s.modReq rq f).sec = s.sec := rfl
@[simp] theorem State.modReq_req (s : State) (rq : Requester) (f : ReqState → ReqState) : (s.modReq rq f).req = upd s.req rq.code f := rfl
@[simp] theorem State.modReq_cores (s : State) (rq : Requester) (f : ReqState → ReqState) : (s.modReq rq f).cores = s.cores := rfl
@[simp] theorem State.modReq_mgmt (s : State) (rq : Requester) (f : ReqState → ReqState) : (s.modReq rq f).mgmt = s.mgmt := rfl
@[simp] theorem State.modReq_con (s : State) (rq : Requester) (f : ReqState → ReqState) : (s.modReq rq f).con = s.con := rfl
@[simp] theorem State.modReq_jtag (s : State) (rq : Requester) (f : ReqState → ReqState) : (s.modReq rq f).jtag = s.jtag := rfl
@[simp] theorem State.modReq_rsp (s : State) (rq : Requester) (f : ReqState → ReqState) : (s.modReq rq f).rsp = s.rsp := rfl
@[simp] theorem State.modReq_outs (s : State) (rq : Requester) (f : ReqState → ReqState) : (s.modReq rq f).outs = s.outs := rfl
@[simp] theorem State.modReq_slowEnd (s : State) (rq : Requester) (f : ReqState → ReqState) : (s.modReq rq f).slowEnd = s.slowEnd := rfl
@[simp] theorem State.modReq_freeCtr (s : State) (rq : Requester) (f : ReqState → ReqState) : (s.modReq rq f).freeCtr = s.freeCtr := rfl

@[simp] theorem State.answer_pending (s : State) (a : Answer) : (s.answer a).pending = s.pending := rfl
@[simp] theorem State.answer_tick (s : State) (a : Answer) : (s.answer a).tick = s.tick := rfl
@[simp] theorem State.answer_pwr (s : State) (a : Answer) : (s.answer a).pwr = s.pwr := rfl
@[simp] theorem State.answer_ctxs (s : State) (a : Answer) : (s.answer a).ctxs = s.ctxs := rfl
@[simp] theorem State.answer_cdies (s : State) (a : Answer) : (s.answer a).cdies = s.cdies := rfl
@[simp] theorem State.answer_sdies (s : State) (a : Answer) : (s.answer a).sdies = s.sdies := rfl
@[simp] theorem State.answer_ldies (s : State) (a : Answer) : (s.answer a).ldies = s.ldies := rfl
@[simp] theorem State.answer_hdies (s : State) (a : Answer) : (s.answer a).hdies = s.hdies := rfl
@[simp] theorem State.answer_mem (s : State) (a : Answer) : (s.answer a).mem = s.mem := rfl
@[simp] theorem State.answer_blocks (s : State) (a : Answer) : (s.answer a).blocks = s.blocks := rfl
@[simp] theorem State.answer_passes (s : State) (a : Answer) : (s.answer a).passes = s.passes := rfl
@[simp] theorem State.answer_cpr (s : State) (a : Answer) : (s.answer a).cpr = s.cpr := rfl
@[simp] theorem State.answer_cols (s : State) (a : Answer) : (s.answer a).cols = s.cols := rfl
@[simp] theorem State.answer_far (s : State) (a : Answer) : (s.answer a).far = s.far := rfl
@[simp] theorem State.answer_evc (s : State) (a : Answer) : (s.answer a).evc = s.evc := rfl
@[simp] theorem State.answer_flt (s : State) (a : Answer) : (s.answer a).flt = s.flt := rfl
@[simp] theorem State.answer_asy (s : State) (a : Answer) : (s.answer a).asy = s.asy := rfl
@[simp] theorem State.answer_cfg (s : State) (a : Answer) : (s.answer a).cfg = s.cfg := rfl
@[simp] theorem State.answer_sec (s : State) (a : Answer) : (s.answer a).sec = s.sec := rfl
@[simp] theorem State.answer_req (s : State) (a : Answer) : (s.answer a).req = s.req := rfl
@[simp] theorem State.answer_cores (s : State) (a : Answer) : (s.answer a).cores = s.cores := rfl
@[simp] theorem State.answer_mgmt (s : State) (a : Answer) : (s.answer a).mgmt = s.mgmt := rfl
@[simp] theorem State.answer_con (s : State) (a : Answer) : (s.answer a).con = s.con := rfl
@[simp] theorem State.answer_jtag (s : State) (a : Answer) : (s.answer a).jtag = s.jtag := rfl
@[simp] theorem State.answer_rsp (s : State) (a : Answer) : (s.answer a).rsp = a := rfl
@[simp] theorem State.answer_outs (s : State) (a : Answer) : (s.answer a).outs = s.outs := rfl
@[simp] theorem State.answer_slowEnd (s : State) (a : Answer) : (s.answer a).slowEnd = s.slowEnd := rfl
@[simp] theorem State.answer_freeCtr (s : State) (a : Answer) : (s.answer a).freeCtr = s.freeCtr := rfl

@[simp] theorem State.setFlt_pending (s : State) (f : Flt → Flt) : (s.setFlt f).pending = s.pending := rfl
@[simp] theorem State.setFlt_tick (s : State) (f : Flt → Flt) : (s.setFlt f).tick = s.tick := rfl
@[simp] theorem State.setFlt_pwr (s : State) (f : Flt → Flt) : (s.setFlt f).pwr = s.pwr := rfl
@[simp] theorem State.setFlt_ctxs (s : State) (f : Flt → Flt) : (s.setFlt f).ctxs = s.ctxs := rfl
@[simp] theorem State.setFlt_cdies (s : State) (f : Flt → Flt) : (s.setFlt f).cdies = s.cdies := rfl
@[simp] theorem State.setFlt_sdies (s : State) (f : Flt → Flt) : (s.setFlt f).sdies = s.sdies := rfl
@[simp] theorem State.setFlt_ldies (s : State) (f : Flt → Flt) : (s.setFlt f).ldies = s.ldies := rfl
@[simp] theorem State.setFlt_hdies (s : State) (f : Flt → Flt) : (s.setFlt f).hdies = s.hdies := rfl
@[simp] theorem State.setFlt_mem (s : State) (f : Flt → Flt) : (s.setFlt f).mem = s.mem := rfl
@[simp] theorem State.setFlt_blocks (s : State) (f : Flt → Flt) : (s.setFlt f).blocks = s.blocks := rfl
@[simp] theorem State.setFlt_passes (s : State) (f : Flt → Flt) : (s.setFlt f).passes = s.passes := rfl
@[simp] theorem State.setFlt_cpr (s : State) (f : Flt → Flt) : (s.setFlt f).cpr = s.cpr := rfl
@[simp] theorem State.setFlt_cols (s : State) (f : Flt → Flt) : (s.setFlt f).cols = s.cols := rfl
@[simp] theorem State.setFlt_far (s : State) (f : Flt → Flt) : (s.setFlt f).far = s.far := rfl
@[simp] theorem State.setFlt_evc (s : State) (f : Flt → Flt) : (s.setFlt f).evc = s.evc := rfl
@[simp] theorem State.setFlt_flt (s : State) (f : Flt → Flt) : (s.setFlt f).flt = f s.flt := rfl
@[simp] theorem State.setFlt_asy (s : State) (f : Flt → Flt) : (s.setFlt f).asy = s.asy := rfl
@[simp] theorem State.setFlt_cfg (s : State) (f : Flt → Flt) : (s.setFlt f).cfg = s.cfg := rfl
@[simp] theorem State.setFlt_sec (s : State) (f : Flt → Flt) : (s.setFlt f).sec = s.sec := rfl
@[simp] theorem State.setFlt_req (s : State) (f : Flt → Flt) : (s.setFlt f).req = s.req := rfl
@[simp] theorem State.setFlt_cores (s : State) (f : Flt → Flt) : (s.setFlt f).cores = s.cores := rfl
@[simp] theorem State.setFlt_mgmt (s : State) (f : Flt → Flt) : (s.setFlt f).mgmt = s.mgmt := rfl
@[simp] theorem State.setFlt_con (s : State) (f : Flt → Flt) : (s.setFlt f).con = s.con := rfl
@[simp] theorem State.setFlt_jtag (s : State) (f : Flt → Flt) : (s.setFlt f).jtag = s.jtag := rfl
@[simp] theorem State.setFlt_rsp (s : State) (f : Flt → Flt) : (s.setFlt f).rsp = s.rsp := rfl
@[simp] theorem State.setFlt_outs (s : State) (f : Flt → Flt) : (s.setFlt f).outs = s.outs := rfl
@[simp] theorem State.setFlt_slowEnd (s : State) (f : Flt → Flt) : (s.setFlt f).slowEnd = s.slowEnd := rfl
@[simp] theorem State.setFlt_freeCtr (s : State) (f : Flt → Flt) : (s.setFlt f).freeCtr = s.freeCtr := rfl

@[simp] theorem State.modAsy_pending (s : State) (f : Asy → Asy) : (s.modAsy f).pending = s.pending := rfl
@[simp] theorem State.modAsy_tick (s : State) (f : Asy → Asy) : (s.modAsy f).tick = s.tick := rfl
@[simp] theorem State.modAsy_pwr (s : State) (f : Asy → Asy) : (s.modAsy f).pwr = s.pwr := rfl
@[simp] theorem State.modAsy_ctxs (s : State) (f : Asy → Asy) : (s.modAsy f).ctxs = s.ctxs := rfl
@[simp] theorem State.modAsy_cdies (s : State) (f : Asy → Asy) : (s.modAsy f).cdies = s.cdies := rfl
@[simp] theorem State.modAsy_sdies (s : State) (f : Asy → Asy) : (s.modAsy f).sdies = s.sdies := rfl
@[simp] theorem State.modAsy_ldies (s : State) (f : Asy → Asy) : (s.modAsy f).ldies = s.ldies := rfl
@[simp] theorem State.modAsy_hdies (s : State) (f : Asy → Asy) : (s.modAsy f).hdies = s.hdies := rfl
@[simp] theorem State.modAsy_mem (s : State) (f : Asy → Asy) : (s.modAsy f).mem = s.mem := rfl
@[simp] theorem State.modAsy_blocks (s : State) (f : Asy → Asy) : (s.modAsy f).blocks = s.blocks := rfl
@[simp] theorem State.modAsy_passes (s : State) (f : Asy → Asy) : (s.modAsy f).passes = s.passes := rfl
@[simp] theorem State.modAsy_cpr (s : State) (f : Asy → Asy) : (s.modAsy f).cpr = s.cpr := rfl
@[simp] theorem State.modAsy_cols (s : State) (f : Asy → Asy) : (s.modAsy f).cols = s.cols := rfl
@[simp] theorem State.modAsy_far (s : State) (f : Asy → Asy) : (s.modAsy f).far = s.far := rfl
@[simp] theorem State.modAsy_evc (s : State) (f : Asy → Asy) : (s.modAsy f).evc = s.evc := rfl
@[simp] theorem State.modAsy_flt (s : State) (f : Asy → Asy) : (s.modAsy f).flt = s.flt := rfl
@[simp] theorem State.modAsy_asy (s : State) (f : Asy → Asy) : (s.modAsy f).asy = f s.asy := rfl
@[simp] theorem State.modAsy_cfg (s : State) (f : Asy → Asy) : (s.modAsy f).cfg = s.cfg := rfl
@[simp] theorem State.modAsy_sec (s : State) (f : Asy → Asy) : (s.modAsy f).sec = s.sec := rfl
@[simp] theorem State.modAsy_req (s : State) (f : Asy → Asy) : (s.modAsy f).req = s.req := rfl
@[simp] theorem State.modAsy_cores (s : State) (f : Asy → Asy) : (s.modAsy f).cores = s.cores := rfl
@[simp] theorem State.modAsy_mgmt (s : State) (f : Asy → Asy) : (s.modAsy f).mgmt = s.mgmt := rfl
@[simp] theorem State.modAsy_con (s : State) (f : Asy → Asy) : (s.modAsy f).con = s.con := rfl
@[simp] theorem State.modAsy_jtag (s : State) (f : Asy → Asy) : (s.modAsy f).jtag = s.jtag := rfl
@[simp] theorem State.modAsy_rsp (s : State) (f : Asy → Asy) : (s.modAsy f).rsp = s.rsp := rfl
@[simp] theorem State.modAsy_outs (s : State) (f : Asy → Asy) : (s.modAsy f).outs = s.outs := rfl
@[simp] theorem State.modAsy_slowEnd (s : State) (f : Asy → Asy) : (s.modAsy f).slowEnd = s.slowEnd := rfl
@[simp] theorem State.modAsy_freeCtr (s : State) (f : Asy → Asy) : (s.modAsy f).freeCtr = s.freeCtr := rfl

@[simp] theorem State.setPwr_pending (s : State) (f : Power → Power) : (s.setPwr f).pending = s.pending := rfl
@[simp] theorem State.setPwr_tick (s : State) (f : Power → Power) : (s.setPwr f).tick = s.tick := rfl
@[simp] theorem State.setPwr_pwr (s : State) (f : Power → Power) : (s.setPwr f).pwr = f s.pwr := rfl
@[simp] theorem State.setPwr_ctxs (s : State) (f : Power → Power) : (s.setPwr f).ctxs = s.ctxs := rfl
@[simp] theorem State.setPwr_cdies (s : State) (f : Power → Power) : (s.setPwr f).cdies = s.cdies := rfl
@[simp] theorem State.setPwr_sdies (s : State) (f : Power → Power) : (s.setPwr f).sdies = s.sdies := rfl
@[simp] theorem State.setPwr_ldies (s : State) (f : Power → Power) : (s.setPwr f).ldies = s.ldies := rfl
@[simp] theorem State.setPwr_hdies (s : State) (f : Power → Power) : (s.setPwr f).hdies = s.hdies := rfl
@[simp] theorem State.setPwr_mem (s : State) (f : Power → Power) : (s.setPwr f).mem = s.mem := rfl
@[simp] theorem State.setPwr_blocks (s : State) (f : Power → Power) : (s.setPwr f).blocks = s.blocks := rfl
@[simp] theorem State.setPwr_passes (s : State) (f : Power → Power) : (s.setPwr f).passes = s.passes := rfl
@[simp] theorem State.setPwr_cpr (s : State) (f : Power → Power) : (s.setPwr f).cpr = s.cpr := rfl
@[simp] theorem State.setPwr_cols (s : State) (f : Power → Power) : (s.setPwr f).cols = s.cols := rfl
@[simp] theorem State.setPwr_far (s : State) (f : Power → Power) : (s.setPwr f).far = s.far := rfl
@[simp] theorem State.setPwr_evc (s : State) (f : Power → Power) : (s.setPwr f).evc = s.evc := rfl
@[simp] theorem State.setPwr_flt (s : State) (f : Power → Power) : (s.setPwr f).flt = s.flt := rfl
@[simp] theorem State.setPwr_asy (s : State) (f : Power → Power) : (s.setPwr f).asy = s.asy := rfl
@[simp] theorem State.setPwr_cfg (s : State) (f : Power → Power) : (s.setPwr f).cfg = s.cfg := rfl
@[simp] theorem State.setPwr_sec (s : State) (f : Power → Power) : (s.setPwr f).sec = s.sec := rfl
@[simp] theorem State.setPwr_req (s : State) (f : Power → Power) : (s.setPwr f).req = s.req := rfl
@[simp] theorem State.setPwr_cores (s : State) (f : Power → Power) : (s.setPwr f).cores = s.cores := rfl
@[simp] theorem State.setPwr_mgmt (s : State) (f : Power → Power) : (s.setPwr f).mgmt = s.mgmt := rfl
@[simp] theorem State.setPwr_con (s : State) (f : Power → Power) : (s.setPwr f).con = s.con := rfl
@[simp] theorem State.setPwr_jtag (s : State) (f : Power → Power) : (s.setPwr f).jtag = s.jtag := rfl
@[simp] theorem State.setPwr_rsp (s : State) (f : Power → Power) : (s.setPwr f).rsp = s.rsp := rfl
@[simp] theorem State.setPwr_outs (s : State) (f : Power → Power) : (s.setPwr f).outs = s.outs := rfl
@[simp] theorem State.setPwr_slowEnd (s : State) (f : Power → Power) : (s.setPwr f).slowEnd = s.slowEnd := rfl
@[simp] theorem State.setPwr_freeCtr (s : State) (f : Power → Power) : (s.setPwr f).freeCtr = s.freeCtr := rfl

@[simp] theorem State.drawn_pending (s : State) : s.drawn.pending = s.pending := rfl
@[simp] theorem State.drawn_tick (s : State) : s.drawn.tick = s.tick := rfl
@[simp] theorem State.drawn_pwr (s : State) : s.drawn.pwr = s.pwr := rfl
@[simp] theorem State.drawn_ctxs (s : State) : s.drawn.ctxs = s.ctxs := rfl
@[simp] theorem State.drawn_cdies (s : State) : s.drawn.cdies = s.cdies := rfl
@[simp] theorem State.drawn_sdies (s : State) : s.drawn.sdies = s.sdies := rfl
@[simp] theorem State.drawn_ldies (s : State) : s.drawn.ldies = s.ldies := rfl
@[simp] theorem State.drawn_hdies (s : State) : s.drawn.hdies = s.hdies := rfl
@[simp] theorem State.drawn_mem (s : State) : s.drawn.mem = s.mem := rfl
@[simp] theorem State.drawn_blocks (s : State) : s.drawn.blocks = s.blocks := rfl
@[simp] theorem State.drawn_passes (s : State) : s.drawn.passes = s.passes := rfl
@[simp] theorem State.drawn_cpr (s : State) : s.drawn.cpr = s.cpr := rfl
@[simp] theorem State.drawn_cols (s : State) : s.drawn.cols = s.cols := rfl
@[simp] theorem State.drawn_far (s : State) : s.drawn.far = s.far := rfl
@[simp] theorem State.drawn_evc (s : State) : s.drawn.evc = s.evc := rfl
@[simp] theorem State.drawn_flt (s : State) : s.drawn.flt = s.flt := rfl
@[simp] theorem State.drawn_asy (s : State) : s.drawn.asy = s.asy := rfl
@[simp] theorem State.drawn_cfg (s : State) : s.drawn.cfg = s.cfg := rfl
@[simp] theorem State.drawn_sec (s : State) : s.drawn.sec = s.sec := rfl
@[simp] theorem State.drawn_req (s : State) : s.drawn.req = s.req := rfl
@[simp] theorem State.drawn_cores (s : State) : s.drawn.cores = s.cores := rfl
@[simp] theorem State.drawn_mgmt (s : State) : s.drawn.mgmt = s.mgmt := rfl
@[simp] theorem State.drawn_con (s : State) : s.drawn.con = s.con := rfl
@[simp] theorem State.drawn_jtag (s : State) : s.drawn.jtag = s.jtag := rfl
@[simp] theorem State.drawn_rsp (s : State) : s.drawn.rsp = s.rsp := rfl
@[simp] theorem State.drawn_outs (s : State) : s.drawn.outs = s.outs := rfl
@[simp] theorem State.drawn_slowEnd (s : State) : s.drawn.slowEnd = s.slowEnd := rfl
@[simp] theorem State.drawn_freeCtr (s : State) : s.drawn.freeCtr = s.freeCtr + 1 := rfl

/-! What a part reads after its own update, and after another's. -/

@[simp] theorem State.ctx_modCtx (s : State) (j : JobIx) (f : Ctx → Ctx) : (s.modCtx j f).ctx j = f (s.ctx j) :=
  upd_self _ _ _

theorem State.ctx_modCtx_other (s : State) (j k : JobIx) (f : Ctx → Ctx) (h : j ≠ k) : (s.modCtx j f).ctx k = s.ctx k :=
  upd_other _ _ _ _ h

@[simp] theorem Ctx.queue_modQ (c : Ctx) (e : EngIx) (f : Queue → Queue) : (c.modQ e f).queues[e] = f c.queues[e] :=
  upd_self _ _ _

@[simp] theorem State.queue_modQ (s : State) (j : JobIx) (e : EngIx) (f : Queue → Queue) :
    (s.modQ j e f).queue j e = f (s.queue j e) := by
  simp only [State.queue, State.modQ, State.modCtx_ctxs, upd_self, Ctx.queue_modQ]

@[simp] theorem State.ctx_modQ (s : State) (j : JobIx) (e : EngIx) (f : Queue → Queue) :
    (s.modQ j e f).ctx j = (s.ctx j).modQ e f := State.ctx_modCtx _ _ _

theorem State.cdie_modCDie (s : State) (d : CIx) (f : CDie → CDie) : (s.modCDie d f).cdies[d] = f s.cdies[d] :=
  upd_self _ _ _

theorem State.sdie_modSDie (s : State) (x : SIx) (f : SDie → SDie) : (s.modSDie x f).sdies[x] = f s.sdies[x] :=
  upd_self _ _ _

theorem State.ldie_modLDie (s : State) (l : LIx) (f : LDie → LDie) : (s.modLDie l f).ldies[l] = f s.ldies[l] :=
  upd_self _ _ _

theorem State.hdie_modHDie (s : State) (h : HIx) (f : HDie → HDie) : (s.modHDie h f).hdies[h] = f s.hdies[h] :=
  upd_self _ _ _

@[simp] theorem State.reqOf_modReq (s : State) (rq : Requester) (f : ReqState → ReqState) :
    (s.modReq rq f).reqOf rq = f (s.reqOf rq) := upd_self _ _ _

theorem Requester.code_inj (a b : Requester) (h : a.code = b.code) : a = b := by
  revert h; cases a <;> cases b <;> decide

theorem State.reqOf_modReq_other (s : State) (a b : Requester) (f : ReqState → ReqState) (h : a ≠ b) :
    (s.modReq a f).reqOf b = s.reqOf b := upd_other _ _ _ _ (fun e => h (Requester.code_inj a b e))

end Sys2Proof.Machine
end

