-- ==== Sys2Proof/Laws/Frames.lean ====
section
/-! SUPPORT. What the shared operations leave unchanged: accesses to memory, events, records and the audit log. -/

namespace Sys2Proof.Machine

/-- Memory alone has changed, and the counts of failing host reads. -/
structure MemOnly (s t : State) : Prop where
  pending : t.pending = s.pending
  tick : t.tick = s.tick
  pwr : t.pwr = s.pwr
  ctxs : t.ctxs = s.ctxs
  cdies : t.cdies = s.cdies
  sdies : t.sdies = s.sdies
  ldies : t.ldies = s.ldies
  blocks : t.blocks = s.blocks
  passes : t.passes = s.passes
  cpr : t.cpr = s.cpr
  cols : t.cols = s.cols
  far : t.far = s.far
  evc : t.evc = s.evc
  flt : t.flt = s.flt
  asy : t.asy = s.asy
  cfg : t.cfg = s.cfg
  sec : t.sec = s.sec
  req : t.req = s.req
  cores : t.cores = s.cores
  mgmt : t.mgmt = s.mgmt
  con : t.con = s.con
  jtag : t.jtag = s.jtag
  rsp : t.rsp = s.rsp
  outs : t.outs = s.outs
  slowEnd : t.slowEnd = s.slowEnd
  freeCtr : t.freeCtr = s.freeCtr

theorem MemOnly.refl (s : State) : MemOnly s s := by constructor <;> rfl

theorem MemOnly.trans {s t u : State} (h : MemOnly s t) (k : MemOnly t u) : MemOnly s u :=
  ⟨k.pending.trans h.pending, k.tick.trans h.tick, k.pwr.trans h.pwr, k.ctxs.trans h.ctxs, k.cdies.trans h.cdies, k.sdies.trans h.sdies, k.ldies.trans h.ldies, k.blocks.trans h.blocks, k.passes.trans h.passes, k.cpr.trans h.cpr, k.cols.trans h.cols, k.far.trans h.far, k.evc.trans h.evc, k.flt.trans h.flt, k.asy.trans h.asy, k.cfg.trans h.cfg, k.sec.trans h.sec, k.req.trans h.req, k.cores.trans h.cores, k.mgmt.trans h.mgmt, k.con.trans h.con, k.jtag.trans h.jtag, k.rsp.trans h.rsp, k.outs.trans h.outs, k.slowEnd.trans h.slowEnd, k.freeCtr.trans h.freeCtr⟩

/-- Only fields that may change have changed. -/
theorem MemOnly.put {s t : State} (h : MemOnly s t) (mem : MemSys) (hdies : Vector HDie 2) :
    MemOnly s ⟨t.pending, t.tick, t.pwr, t.ctxs, t.cdies, t.sdies, t.ldies, hdies, mem, t.blocks, t.passes, t.cpr, t.cols, t.far, t.evc, t.flt, t.asy, t.cfg, t.sec, t.req, t.cores, t.mgmt, t.con, t.jtag, t.rsp, t.outs, t.slowEnd, t.freeCtr⟩ :=
  ⟨h.pending, h.tick, h.pwr, h.ctxs, h.cdies, h.sdies, h.ldies, h.blocks, h.passes, h.cpr, h.cols, h.far, h.evc, h.flt, h.asy, h.cfg, h.sec, h.req, h.cores, h.mgmt, h.con, h.jtag, h.rsp, h.outs, h.slowEnd, h.freeCtr⟩
/-- Memory, the fault registers and the event controller with what it sends have changed, nothing else. -/
structure Quiet (s t : State) : Prop where
  pending : t.pending = s.pending
  tick : t.tick = s.tick
  pwr : t.pwr = s.pwr
  ctxs : t.ctxs = s.ctxs
  cdies : t.cdies = s.cdies
  sdies : t.sdies = s.sdies
  blocks : t.blocks = s.blocks
  passes : t.passes = s.passes
  cpr : t.cpr = s.cpr
  cols : t.cols = s.cols
  far : t.far = s.far
  asy : t.asy = s.asy
  cfg : t.cfg = s.cfg
  sec : t.sec = s.sec
  req : t.req = s.req
  cores : t.cores = s.cores
  mgmt : t.mgmt = s.mgmt
  con : t.con = s.con
  jtag : t.jtag = s.jtag
  rsp : t.rsp = s.rsp
  slowEnd : t.slowEnd = s.slowEnd

theorem Quiet.refl (s : State) : Quiet s s := by constructor <;> rfl

theorem Quiet.trans {s t u : State} (h : Quiet s t) (k : Quiet t u) : Quiet s u :=
  ⟨k.pending.trans h.pending, k.tick.trans h.tick, k.pwr.trans h.pwr, k.ctxs.trans h.ctxs, k.cdies.trans h.cdies, k.sdies.trans h.sdies, k.blocks.trans h.blocks, k.passes.trans h.passes, k.cpr.trans h.cpr, k.cols.trans h.cols, k.far.trans h.far, k.asy.trans h.asy, k.cfg.trans h.cfg, k.sec.trans h.sec, k.req.trans h.req, k.cores.trans h.cores, k.mgmt.trans h.mgmt, k.con.trans h.con, k.jtag.trans h.jtag, k.rsp.trans h.rsp, k.slowEnd.trans h.slowEnd⟩

/-- Only fields that may change have changed. -/
theorem Quiet.put {s t : State} (h : Quiet s t) (ldies : Vector LDie 3) (hdies : Vector HDie 2) (mem : MemSys) (evc : Evc) (flt : Flt) (outs : List Out) (freeCtr : Nat) :
    Quiet s ⟨t.pending, t.tick, t.pwr, t.ctxs, t.cdies, t.sdies, ldies, hdies, mem, t.blocks, t.passes, t.cpr, t.cols, t.far, evc, flt, t.asy, t.cfg, t.sec, t.req, t.cores, t.mgmt, t.con, t.jtag, t.rsp, outs, t.slowEnd, freeCtr⟩ :=
  ⟨h.pending, h.tick, h.pwr, h.ctxs, h.cdies, h.sdies, h.blocks, h.passes, h.cpr, h.cols, h.far, h.asy, h.cfg, h.sec, h.req, h.cores, h.mgmt, h.con, h.jtag, h.rsp, h.slowEnd⟩

theorem MemOnly.quiet {s t : State} (h : MemOnly s t) : Quiet s t :=
  ⟨h.pending, h.tick, h.pwr, h.ctxs, h.cdies, h.sdies, h.blocks, h.passes, h.cpr, h.cols, h.far, h.asy, h.cfg, h.sec, h.req, h.cores, h.mgmt, h.con, h.jtag, h.rsp, h.slowEnd⟩

/-- A property of a state that every step of a fold keeps. -/
theorem foldl_keeps {α β : Type} (P : β → Prop) (f : β → α → β) (l : List α) (b : β) (h : P b)
    (hf : ∀ b a, P b → P (f b a)) : P (l.foldl f b) := by
  induction l generalizing b with
  | nil => exact h
  | cons a l ih => exact ih _ (hf _ _ h)

/-! ### The cache and memory -/

variable {s0 s : State}

theorem writeBack_memOnly (h : MemOnly s0 s) (l : Line) : MemOnly s0 (writeBack s l) := by
  refine foldl_keeps (MemOnly s0) _ _ _ h (fun t u ht => ?_)
  split
  · exact ht.put _ _
  · exact ht

theorem evict_memOnly (h : MemOnly s0 s) (l : Line) : MemOnly s0 (evict s l) :=
  (writeBack_memOnly h l).put _ _

theorem makeRoom_memOnly (h : MemOnly s0 s) (st line : Nat) (c : LineClass) : MemOnly s0 (makeRoom s st line c).1 := by
  unfold makeRoom
  dsimp only
  repeat' split
  all_goals first | exact h | exact evict_memOnly h _

theorem allocate_memOnly (h : MemOnly s0 s) (st line : Nat) (c : LineClass) (o : Option Nat) :
    MemOnly s0 (allocate s st line c o).1 :=
  (makeRoom_memOnly h st line c).put _ _

theorem promote_memOnly (h : MemOnly s0 s) (l : Line) (o : Option Nat) : MemOnly s0 (promote s l o).1 := by
  unfold promote
  repeat' split
  all_goals first | exact h | exact h.put _ _

theorem lineRead_memOnly (h : MemOnly s0 s) (st line off n : Nat) (hint : Hint) (o : Option Nat) :
    MemOnly s0 (lineRead s st line off n hint o).2 := by
  unfold lineRead
  split <;> split
  · exact h.put _ _
  · exact (promote_memOnly h _ _).put _ _
  · exact h.put _ _
  · exact allocate_memOnly h _ _ _ _
  · exact h

theorem lineWrite_memOnly (h : MemOnly s0 s) (st line off : Nat) (d : List Byte) (hint : Hint) (p : Bool)
    (o : Option Nat) : MemOnly s0 (lineWrite s st line off d hint p o) := by
  unfold lineWrite
  dsimp only
  split
  · split
    · exact (promote_memOnly h _ _).put _ _
    · exact h.put _ _
  · split
    · exact writeBack_memOnly h _
    · exact (allocate_memOnly h _ _ _ _).put _ _
    · exact (allocate_memOnly h _ _ _ _).put _ _

theorem readPiece_memOnly (h : MemOnly s0 s) (j : Option Nat) (a n : Nat) (hint : Hint) :
    MemOnly s0 (readPiece s j a n hint).2 := by
  unfold readPiece
  dsimp only
  split
  · split
    · exact h
    · exact h
    · exact lineRead_memOnly h _ _ _ _ _ _
  · exact h
  · dsimp only
    split
    · exact h.put _ _
    · exact h
  · exact h

/-- A read of any length changes memory (the cache) and counts failing host reads. -/
theorem readMem_memOnly (h : MemOnly s0 s) (j : Option Nat) (a n : Nat) (hint : Hint) :
    MemOnly s0 (readMem s j a n hint).2 :=
  foldl_keeps (fun (b : Got × State) => MemOnly s0 b.2) _ _ _ h (fun _ p hb => readPiece_memOnly hb j p.1 p.2 hint)

/-- A write of one piece without poison changes memory alone. -/
theorem writePiece_memOnly (h : MemOnly s0 s) (j : Option Nat) (a : Nat) (d : List Byte) (hint : Hint) :
    MemOnly s0 (writePiece s j a d hint false) := by
  unfold writePiece
  split
  · split
    · exact h.put _ _
    · exact h
    · exact lineWrite_memOnly h _ _ _ _ _ _ _
  · dsimp only
    split
    · exact h
    · exact h.put _ _
  · split
    · exact h.put _ _
    · exact h
  · exact h

/-- A write of any length without poison changes memory alone. -/
theorem writeMem_memOnly (h : MemOnly s0 s) (j : Option Nat) (a : Nat) (d : List Byte) (hint : Hint) :
    MemOnly s0 (writeMem s j a d hint false) :=
  foldl_keeps (MemOnly s0) _ _ _ h (fun _ q ht => writePiece_memOnly ht j q.1 _ hint)

/-! ### Events and records -/

theorem State.msixOn_quiet (h : Quiet s0 s) (p : HIx) (k : Nat) : Quiet s0 (s.msixOn p k) := by
  unfold State.msixOn
  dsimp only
  split
  · exact h.put _ _ _ _ _ _ _
  · exact h.put _ _ _ _ _ _ _

theorem State.sendMsix_quiet (h : Quiet s0 s) (c : Nat) : Quiet s0 (s.sendMsix c) := by
  unfold State.sendMsix
  split
  · exact h.put _ _ _ _ _ _ _
  · exact State.msixOn_quiet h _ _

/-- A change of the event controller may send messages to a host. -/
theorem State.evUpdate_quiet (h : Quiet s0 s) (f : Evc → Evc) : Quiet s0 (s.evUpdate f) := by
  have h' : Quiet s0 { s with evc := f s.evc } := h.put _ _ _ _ _ _ _
  unfold State.evUpdate
  dsimp only
  split
  · split
    · exact State.sendMsix_quiet (State.sendMsix_quiet h' _) _
    · exact State.sendMsix_quiet h' _
  · split
    · exact State.sendMsix_quiet h' _
    · exact h'

theorem State.raise_quiet (h : Quiet s0 s) (e : Nat) : Quiet s0 (s.raise e) := by
  unfold State.raise
  split
  · exact h
  · exact State.evUpdate_quiet h _

theorem State.setCond_quiet (h : Quiet s0 s) (e : Nat) (b : Bool) : Quiet s0 (s.setCond e b) := by
  unfold State.setCond
  split
  · exact h
  · exact State.evUpdate_quiet h _

theorem ringPut_quiet (h : Quiet s0 s) (r : ErrRec) : Quiet s0 (ringPut s r) := by
  unfold ringPut
  dsimp only
  split
  · exact h
  · split
    · exact State.raise_quiet (h.put _ _ _ _ _ _ _) _
    · have h' := h.trans (writeMem_memOnly (MemOnly.refl s) none (s.flt.ringBase + s.flt.head * 64) r.bytes .stream).quiet
      exact State.setCond_quiet (h'.put _ _ _ _ _ _ _) _ _

/-- A record changes the fault registers, the memory of the ring and its events; it draws a free value. -/
theorem State.record_quiet (h : Quiet s0 s) (r : ErrRec) : Quiet s0 (s.record r) := by
  unfold State.record
  split
  · exact h
  · exact ringPut_quiet (h.put _ _ _ _ _ _ _) _

theorem State.regAccess_quiet (h : Quiet s0 s) (rq : Requester) (addr reason : Nat) :
    Quiet s0 (s.regAccess rq addr reason) := State.record_quiet h _

/-- What the event controller holds after a change: the change, whatever it sends. -/
theorem State.evUpdate_evc (s : State) (f : Evc → Evc) : (s.evUpdate f).evc = f s.evc := by
  have msix : ∀ (t : State) (c : Nat), (t.sendMsix c).evc = t.evc := by
    intro t c
    unfold State.sendMsix
    split
    · rfl
    · unfold State.msixOn
      dsimp only
      split <;> rfl
  unfold State.evUpdate
  dsimp only
  repeat' split
  all_goals simp only [msix]

end Sys2Proof.Machine
end

