-- ==== Sys2Proof/Laws/Memory.lean ====
section
/-! SUPPORT. The laws of sparse memory: the canonical form said over the whole list, kept by every operation, and what a
byte reads after each. -/

namespace Sys2Proof.Machine

/-- The canonical form as one property of the pairs and one of every entry. -/
theorem Memory.wf_iff (m : Memory) :
    m.wf = true ↔ m.Pairwise (fun a b => a.1 < b.1) ∧ ∀ c ∈ m, c.2 ≠ 0 := by
  induction m with
  | nil => simp [Memory.wf]
  | cons p m ih =>
    cases m with
    | nil => simp [Memory.wf]
    | cons q m =>
      simp only [Memory.wf, Bool.and_eq_true, decide_eq_true_eq, bne_iff_ne, ne_eq, ih, List.pairwise_cons,
        List.mem_cons, forall_eq_or_imp]
      constructor
      · rintro ⟨⟨h1, h2⟩, ⟨h3, h4⟩, h5, h6⟩
        exact ⟨⟨⟨h1, fun a ha => Nat.lt_trans h1 (h3 a ha)⟩, h3, h4⟩, h2, h5, h6⟩
      · rintro ⟨⟨⟨h1, _⟩, h3, h4⟩, h2, h5, h6⟩
        exact ⟨⟨h1, h2⟩, ⟨h3, h4⟩, h5, h6⟩

theorem Memory.wf_tail {p : Host.Cell} {m : Memory} (h : Memory.wf (p :: m) = true) : m.wf = true := by
  rw [Memory.wf_iff] at h ⊢
  exact ⟨(List.pairwise_cons.mp h.1).2, fun c hc => h.2 c (List.mem_cons_of_mem _ hc)⟩

/-- The addresses that a written memory lists. -/
theorem Memory.mem_write (m : Memory) (a : Nat) (b : Byte) (c : Host.Cell) (h : c ∈ m.write a b) :
    (c = (a, b) ∧ b ≠ 0) ∨ c ∈ m := by
  induction m with
  | nil => unfold Memory.write at h; split at h <;> simp_all
  | cons p m ih =>
    unfold Memory.write at h
    split at h
    · split at h <;> simp_all
    · split at h
      · split at h
        · exact .inr (List.mem_cons_of_mem _ h)
        · rcases List.mem_cons.mp h with rfl | h
          · exact .inl ⟨rfl, ‹_›⟩
          · exact .inr (List.mem_cons_of_mem _ h)
      · rcases List.mem_cons.mp h with rfl | h
        · exact .inr (List.mem_cons_self ..)
        · rcases ih h with h | h
          · exact .inl h
          · exact .inr (List.mem_cons_of_mem _ h)

/-- A write keeps the canonical form. -/
theorem Memory.wf_write (m : Memory) (a : Nat) (b : Byte) (h : m.wf = true) : (m.write a b).wf = true := by
  induction m with
  | nil => unfold Memory.write; split <;> simp_all [Memory.wf]
  | cons p m ih =>
    have ht := Memory.wf_tail h
    have hw := (Memory.wf_iff _).mp h
    have hp := List.pairwise_cons.mp hw.1
    unfold Memory.write
    split
    · split
      · exact h
      · rw [Memory.wf_iff]
        refine ⟨List.pairwise_cons.mpr ⟨fun c hc => ?_, hw.1⟩, fun c hc => ?_⟩
        · rcases List.mem_cons.mp hc with rfl | hc
          · assumption
          · exact Nat.lt_trans (by assumption) (hp.1 c hc)
        · rcases List.mem_cons.mp hc with rfl | hc
          · assumption
          · exact hw.2 c hc
    · split
      · split
        · exact ht
        · rw [Memory.wf_iff]
          refine ⟨List.pairwise_cons.mpr ⟨fun c hc => ?_, hp.2⟩, fun c hc => ?_⟩
          · have := hp.1 c hc; simp_all
          · rcases List.mem_cons.mp hc with rfl | hc
            · assumption
            · exact hw.2 c (List.mem_cons_of_mem _ hc)
      · have hi := (Memory.wf_iff _).mp (ih ht)
        rw [Memory.wf_iff]
        refine ⟨List.pairwise_cons.mpr ⟨fun c hc => ?_, hi.1⟩, fun c hc => ?_⟩
        · rcases Memory.mem_write m a b c hc with ⟨rfl, _⟩ | hc
          · simp only at *; omega
          · exact hp.1 c hc
        · rcases List.mem_cons.mp hc with rfl | hc
          · exact hw.2 _ (List.mem_cons_self ..)
          · exact hi.2 c hc

theorem Memory.wf_writeN (d : List Byte) : ∀ (m : Memory) (a : Nat), m.wf = true → (m.writeN a d).wf = true := by
  induction d with
  | nil => intro m a h; exact h
  | cons b d ih => intro m a h; exact ih _ _ (Memory.wf_write m a b h)

/-- Taking entries out keeps the canonical form. -/
theorem Memory.wf_filter (m : Memory) (p : Host.Cell → Bool) (h : m.wf = true) : Memory.wf (m.filter p) = true := by
  rw [Memory.wf_iff] at h ⊢
  exact ⟨h.1.filter _, fun c hc => h.2 c (List.mem_filter.mp hc).1⟩

theorem Memory.wf_clear (m : Memory) (lo hi : Nat) (h : m.wf = true) : (m.clear lo hi).wf = true :=
  Memory.wf_filter m _ h

/-- A byte below every listed address reads as an unlisted one. -/
theorem Memory.read_below (m : Memory) (a : Nat) (h : ∀ c ∈ m, a < c.1) : m.read a = 0 := by
  cases m with
  | nil => rfl
  | cons p m =>
    have := h p (List.mem_cons_self ..)
    simp only [Memory.read]
    rw [if_neg (by omega), if_pos this]

/-- What a byte reads after a write. -/
theorem Memory.read_write (m : Memory) (a : Nat) (b : Byte) (x : Nat) (h : m.wf = true) :
    (m.write a b).read x = if x = a then b else m.read x := by
  induction m with
  | nil => unfold Memory.write; split <;> simp_all [Memory.read]
  | cons p m ih =>
    obtain ⟨k, c⟩ := p
    have hp := List.pairwise_cons.mp ((Memory.wf_iff _).mp h).1
    have hb : ∀ y, y ≤ k → Memory.read m y = 0 := fun y hy => Memory.read_below m y (fun q hq => by
      have := hp.1 q hq; simp only at this; omega)
    have ih := ih (Memory.wf_tail h)
    have hk := hb k (Nat.le_refl _)
    unfold Memory.write
    split
    · split
      · simp only [Memory.read]; grind
      · simp only [Memory.read]; grind
    · split
      · split
        · simp only [Memory.read]; grind
        · simp only [Memory.read]; grind
      · simp only [Memory.read]; grind

/-- What a byte reads after bytes are written from an address upward. -/
theorem Memory.read_writeN (d : List Byte) : ∀ (m : Memory) (a x : Nat), m.wf = true →
    (m.writeN a d).read x = if a ≤ x ∧ x < a + d.length then d.getD (x - a) 0 else m.read x := by
  induction d with
  | nil => intro m a x _; simp [Memory.writeN] <;> omega
  | cons b d ih =>
    intro m a x h
    rw [Memory.writeN, ih _ _ _ (Memory.wf_write m a b h), Memory.read_write m a b x h]
    by_cases hx : x = a
    · subst hx
      rw [if_neg (by omega), if_pos rfl, if_pos (by simp), Nat.sub_self, List.getD_cons_zero]
    · by_cases hl : a + 1 ≤ x ∧ x < a + 1 + d.length
      · have : x - a = (x - (a + 1)) + 1 := by omega
        simp only [List.length_cons]
        rw [if_pos hl, if_pos (by omega), this, List.getD_cons_succ]
      · simp only [List.length_cons]
        rw [if_neg hl, if_neg hx, if_neg (by omega)]

/-- Bytes read back where they were written. -/
theorem Memory.readN_writeN (m : Memory) (a : Nat) (d : List Byte) (h : m.wf = true) :
    (m.writeN a d).readN a d.length = d := by
  have aux : ∀ (k : Nat) (n : Memory) (e : List Byte) (i : Nat), e.length = k →
      (∀ j, j < k → n.read (i + j) = e.getD j 0) → n.readN i k = e := by
    intro k
    induction k with
    | zero => intro n e i he _; simp_all [Memory.readN]
    | succ k ih =>
      intro n e i he hr
      cases e with
      | nil => simp at he
      | cons b e =>
        have h0 := hr 0 (by omega)
        simp only [Memory.readN]
        rw [ih n e (i + 1) (by simpa using he) (fun j hj => by
          have := hr (j + 1) (by omega); rw [show i + 1 + j = i + (j + 1) by omega]; simpa using this)]
        simpa using h0
  refine aux d.length _ d a rfl (fun j hj => ?_)
  rw [Memory.read_writeN d m a (a + j) h, if_pos (by omega)]
  congr 1; omega

/-- The three memories of the machine, whose forms stand or fall together. -/
theorem MemSys.wf_dram (m : MemSys) (d : Memory) (h : m.wf) (hd : d.wf = true) : ({ m with dram := d } : MemSys).wf :=
  ⟨hd, h.2⟩

end Sys2Proof.Machine
end

