-- ==== Sys2Proof/WellFormed.lean ====
section
/-! DEFINITION. Which commands are well formed: every operand inside the range that the rule of its row gives it. -/

namespace Sys2Proof

/-- Coordinates of a 16 × 16 × 16 torus (R385). -/
def Coord.wf (c : Coord) : Bool := c.x < 16 && c.y < 16 && c.z < 16

/-- A packet's header fields fit their bits, and its payload has the length its kind gives (Table 12-3, R397). -/
def Packet.wf (p : Packet) : Bool :=
  p.dst.wf && p.src.wf && p.kind.code < 16 && p.channel < 16 && p.job < 64 && p.age < 256 && p.deflect < 256 &&
  p.format < 256 && p.seq < 2 ^ 16 && p.srcRank < 2 ^ 12 && p.poison < 16 && p.dstRank < 2 ^ 12 &&
  p.length ≤ 256 && p.addr < 2 ^ 48 &&
  (match p.kind with
   | .readReq | .ack => p.payload == [] && p.length == 0
   | .other _ => true
   | _ => p.payload.length == 256)

/-- A link frame's sequence numbers fit their 12 bits (R391). -/
def LinkFrame.wf (f : LinkFrame) : Bool :=
  f.lseq < 2 ^ 12 && f.rack < 2 ^ 12 && (match f.pkt with | none => true | some p => p.wf)

/-- A unit of an access of `n` bytes at `addr` lies inside one 256 B line (R328). -/
def lineAccess (addr n : Nat) : Bool := 0 < n && addr % 256 + n ≤ 256 && addr < 2 ^ 48

/-- The checks of a command's operands. Commands whose operands are all bounded by their types have none. -/
def Instr.wf : Instr → Bool
  | .registerWrite _ addr size _ => addr < 2 ^ 48 && (size == 1 || size == 2 || size == 4)
  | .readLowWord _ addr | .readClear _ addr => addr < 2 ^ 48 && addr % 4 == 0
  | .writeHighWord _ addr _ | .queueRingConfigWrite _ addr _ => addr < 2 ^ 48 && addr % 4 == 0
  | .stackTempSample _ t | .thermalTrip _ t | .cdieThermalStepDown _ t | .cdieThermalStepUp _ t =>
      decide (-2048 ≤ t) && decide (t < 2048)
  | .memRead _ addr n _ _ _ => lineAccess addr n
  | .memWrite _ addr data _ _ => lineAccess addr data.length
  | .memAdd _ addr _ data _ => lineAccess addr data.length
  | .patrolScrub _ unit _ => unit < 1597440 * 1024
  | .portTrainingDone _ _ lanes rtt => lanes < 2 ^ 18 && rtt < 256
  | .laneFail _ _ lane reason => lane < 18 && reason < 3
  | .linkFrameReceive _ _ f => f.wf
  | .stackPageTest _ page => page < 25165824
  | .bar0Request _ w off len data => off < 2 ^ 23 && 0 < len && (!w || data.length == len)
  | .bar2Request _ w off len data _ => off < 2 ^ 41 && 0 < len && len ≤ 4096 && (!w || data.length == len)
  | .bar4Request _ w off len data => off < 2 ^ 24 && 0 < len && (!w || data.length == len)
  | .hostWindowReadCompletion _ addr data _ => addr < 2 ^ 64 && 0 < data.length
  | .msixEntryUnmask _ entry => entry < 130
  | .entdaa a => a < 128
  | .mctpControl m => m.msgType < 128
  | .getCertificate slot _ _ => slot < 8
  | .challenge slot nonce => slot < 8 && nonce.length == 32
  | .getMeasurements index nonce => index < 256 && nonce.length == 32
  | .regulatorPhaseFail p k => k < (if p = 2 then 16 else 24)
  | .configurationRequest _ _ reg _ => reg < 4096 && reg % 4 == 0
  | .hostLinkUp _ speed width _ => 0 < speed && speed ≤ 6 && (width == 4 || width == 8 || width == 16)
  | _ => true

/-- The device addresses that a command carries (R542). -/
def Instr.deviceAddrs : Instr → List Nat
  | .registerWrite _ addr _ _ | .readLowWord _ addr | .readClear _ addr | .writeHighWord _ addr _
  | .queueRingConfigWrite _ addr _ | .memRead _ addr _ _ _ _ | .memWrite _ addr _ _ _ | .memAdd _ addr _ _ _ => [addr]
  | .linkFrameReceive _ _ f => (f.pkt.map (·.addr)).toList
  | _ => []

end Sys2Proof
end

