-- ==== Sys2Proof/Laws/PerInstr.lean ====
section
/-! SUPPORT. One lemma per command for the statements about all commands. -/

namespace Sys2Proof.Laws.WF

/-- Every device address that a well-formed command carries has 48 bits (R542). -/
def Statement (i : Instr) : Prop := i.wf = true → ∀ a ∈ i.deviceAddrs, a < 2 ^ 48

/-- A command that carries no device address. -/
theorem nil (i : Instr) (h : i.deviceAddrs = []) : Statement i := by simp [Statement, h]

theorem registerWrite a0 a1 a2 a3 : Statement (.registerWrite a0 a1 a2 a3) := by
  simp only [Statement, Instr.wf, Instr.deviceAddrs, Bool.and_eq_true, decide_eq_true_eq]; grind
theorem readLowWord a0 a1 : Statement (.readLowWord a0 a1) := by
  simp only [Statement, Instr.wf, Instr.deviceAddrs, Bool.and_eq_true, decide_eq_true_eq]; grind
theorem writeHighWord a0 a1 a2 : Statement (.writeHighWord a0 a1 a2) := by
  simp only [Statement, Instr.wf, Instr.deviceAddrs, Bool.and_eq_true, decide_eq_true_eq]; grind
theorem readClear a0 a1 : Statement (.readClear a0 a1) := by
  simp only [Statement, Instr.wf, Instr.deviceAddrs, Bool.and_eq_true, decide_eq_true_eq]; grind
theorem openCtx a0 a1 : Statement (.openCtx a0 a1) := nil _ rfl
theorem regionTableLoad a0 : Statement (.regionTableLoad a0) := nil _ rfl
theorem close a0 a1 : Statement (.close a0 a1) := nil _ rfl
theorem resetJob a0 a1 : Statement (.resetJob a0 a1) := nil _ rfl
theorem reloadRegions a0 a1 : Statement (.reloadRegions a0 a1) := nil _ rfl
theorem contextCancelDone a0 : Statement (.contextCancelDone a0) := nil _ rfl
theorem contextScrubDone a0 : Statement (.contextScrubDone a0) := nil _ rfl
theorem queueEnable a0 a1 a2 : Statement (.queueEnable a0 a1 a2) := nil _ rfl
theorem queueDisable a0 a1 a2 : Statement (.queueDisable a0 a1 a2) := nil _ rfl
theorem queueResume a0 a1 a2 : Statement (.queueResume a0 a1 a2) := nil _ rfl
theorem queueSkip a0 a1 a2 : Statement (.queueSkip a0 a1 a2) := nil _ rfl
theorem queueDrainDone a0 a1 : Statement (.queueDrainDone a0 a1) := nil _ rfl
theorem queueRingConfigWrite a0 a1 a2 : Statement (.queueRingConfigWrite a0 a1 a2) := by
  simp only [Statement, Instr.wf, Instr.deviceAddrs, Bool.and_eq_true, decide_eq_true_eq]; grind
theorem doorbell a0 a1 a2 a3 : Statement (.doorbell a0 a1 a2 a3) := nil _ rfl
theorem commandFetch a0 a1 : Statement (.commandFetch a0 a1) := nil _ rfl
theorem listAdmission a0 a1 : Statement (.listAdmission a0 a1) := nil _ rfl
theorem commandWaitMet a0 a1 : Statement (.commandWaitMet a0 a1) := nil _ rfl
theorem commandComplete a0 a1 a2 : Statement (.commandComplete a0 a1 a2) := nil _ rfl
theorem engineReset a0 : Statement (.engineReset a0) := nil _ rfl
theorem nop a0 a1 : Statement (.nop a0 a1) := nil _ rfl
theorem listHead a0 a1 : Statement (.listHead a0 a1) := nil _ rfl
theorem chain a0 a1 : Statement (.chain a0 a1) := nil _ rfl
theorem branch a0 a1 : Statement (.branch a0 a1) := nil _ rfl
theorem matmul a0 : Statement (.matmul a0) := nil _ rfl
theorem matmulGrouped a0 : Statement (.matmulGrouped a0) := nil _ rfl
theorem sideDown a0 : Statement (.sideDown a0) := nil _ rfl
theorem sideDownGrouped a0 : Statement (.sideDownGrouped a0) := nil _ rfl
theorem elementwise a0 : Statement (.elementwise a0) := nil _ rfl
theorem norm a0 : Statement (.norm a0) := nil _ rfl
theorem softmax a0 : Statement (.softmax a0) := nil _ rfl
theorem quantise a0 : Statement (.quantise a0) := nil _ rfl
theorem routeTopk a0 : Statement (.routeTopk a0) := nil _ rfl
theorem copy a0 : Statement (.copy a0) := nil _ rfl
theorem window a0 : Statement (.window a0) := nil _ rfl
theorem gather a0 : Statement (.gather a0) := nil _ rfl
theorem scatter a0 : Statement (.scatter a0) := nil _ rfl
theorem scatterAdd a0 : Statement (.scatterAdd a0) := nil _ rfl
theorem segmentSum a0 : Statement (.segmentSum a0) := nil _ rfl
theorem csrGather a0 : Statement (.csrGather a0) := nil _ rfl
theorem dispatchBuild a0 : Statement (.dispatchBuild a0) := nil _ rfl
theorem touchBuild a0 : Statement (.touchBuild a0) := nil _ rfl
theorem reduceScatter a0 : Statement (.reduceScatter a0) := nil _ rfl
theorem allReduce a0 : Statement (.allReduce a0) := nil _ rfl
theorem allGather a0 : Statement (.allGather a0) := nil _ rfl
theorem allToAll a0 : Statement (.allToAll a0) := nil _ rfl
theorem broadcast a0 : Statement (.broadcast a0) := nil _ rfl
theorem updMomentum a0 : Statement (.updMomentum a0) := nil _ rfl
theorem updAdaptive a0 : Statement (.updAdaptive a0) := nil _ rfl
theorem updFactored a0 : Statement (.updFactored a0) := nil _ rfl
theorem updBlockpre a0 : Statement (.updBlockpre a0) := nil _ rfl
theorem regenerate a0 : Statement (.regenerate a0) := nil _ rfl
theorem cooperPhaseAdvance a0 : Statement (.cooperPhaseAdvance a0) := nil _ rfl
theorem loomPass a0 a1 a2 : Statement (.loomPass a0 a1 a2) := nil _ rfl
theorem passRepeat a0 a1 a2 : Statement (.passRepeat a0 a1 a2) := nil _ rfl
theorem blockFinish a0 a1 a2 : Statement (.blockFinish a0 a1 a2) := nil _ rfl
theorem tileWakeDone a0 a1 : Statement (.tileWakeDone a0 a1) := nil _ rfl
theorem tileGate a0 a1 : Statement (.tileGate a0 a1) := nil _ rfl
theorem stormTrip a0 a1 : Statement (.stormTrip a0 a1) := nil _ rfl
theorem stormWindowEnd a0 a1 : Statement (.stormWindowEnd a0 a1) := nil _ rfl
theorem deadlineMiss a0 a1 : Statement (.deadlineMiss a0 a1) := nil _ rfl
theorem stackTempSample a0 a1 : Statement (.stackTempSample a0 a1) := nil _ rfl
theorem stackStepDown a0 : Statement (.stackStepDown a0) := nil _ rfl
theorem stackFenceLimit a0 : Statement (.stackFenceLimit a0) := nil _ rfl
theorem stackTrainingDone a0 a1 : Statement (.stackTrainingDone a0 a1) := nil _ rfl
theorem selfRefreshExit a0 : Statement (.selfRefreshExit a0) := nil _ rfl
theorem memRead a0 a1 a2 a3 a4 a5 : Statement (.memRead a0 a1 a2 a3 a4 a5) := by
  simp only [Statement, Instr.wf, Instr.deviceAddrs, lineAccess, Bool.and_eq_true, decide_eq_true_eq]; grind
theorem memWrite a0 a1 a2 a3 a4 : Statement (.memWrite a0 a1 a2 a3 a4) := by
  simp only [Statement, Instr.wf, Instr.deviceAddrs, lineAccess, Bool.and_eq_true, decide_eq_true_eq]; grind
theorem memAdd a0 a1 a2 a3 a4 : Statement (.memAdd a0 a1 a2 a3 a4) := by
  simp only [Statement, Instr.wf, Instr.deviceAddrs, lineAccess, Bool.and_eq_true, decide_eq_true_eq]; grind
theorem repairTableCommit a0 : Statement (.repairTableCommit a0) := nil _ rfl
theorem patrolScrub a0 a1 a2 : Statement (.patrolScrub a0 a1 a2) := nil _ rfl
theorem portEnable a0 a1 a2 : Statement (.portEnable a0 a1 a2) := nil _ rfl
theorem portDisable a0 a1 a2 : Statement (.portDisable a0 a1 a2) := nil _ rfl
theorem portTrainingDone a0 a1 a2 a3 : Statement (.portTrainingDone a0 a1 a2 a3) := nil _ rfl
theorem portTrainingTimeout a0 a1 : Statement (.portTrainingTimeout a0 a1) := nil _ rfl
theorem portDrainDone a0 a1 a2 : Statement (.portDrainDone a0 a1 a2) := nil _ rfl
theorem retrainDone a0 a1 : Statement (.retrainDone a0 a1) := nil _ rfl
theorem retrainTimeout a0 a1 : Statement (.retrainTimeout a0 a1) := nil _ rfl
theorem laneFail a0 a1 a2 a3 : Statement (.laneFail a0 a1 a2 a3) := nil _ rfl
theorem linkFrameReceive a0 a1 a2 : Statement (.linkFrameReceive a0 a1 a2) := by
  cases h : a2.pkt <;> simp [Statement, Instr.wf, Instr.deviceAddrs, LinkFrame.wf, Packet.wf, h]; grind
theorem packetArrive a0 : Statement (.packetArrive a0) := nil _ rfl
theorem packetInject a0 : Statement (.packetInject a0) := nil _ rfl
theorem write a0 a1 : Statement (.write a0 a1) := nil _ rfl
theorem add a0 a1 : Statement (.add a0 a1) := nil _ rfl
theorem coll a0 a1 : Statement (.coll a0 a1) := nil _ rfl
theorem readReq a0 a1 : Statement (.readReq a0 a1) := nil _ rfl
theorem readRsp a0 a1 : Statement (.readRsp a0 a1) := nil _ rfl
theorem ack a0 a1 : Statement (.ack a0 a1) := nil _ rfl
theorem proxyReq a0 a1 : Statement (.proxyReq a0 a1) := nil _ rfl
theorem proxyRsp a0 a1 : Statement (.proxyRsp a0 a1) := nil _ rfl
theorem ackTimer a0 a1 : Statement (.ackTimer a0 a1) := nil _ rfl
theorem reorderLeaseIdle a0 a1 : Statement (.reorderLeaseIdle a0 a1) := nil _ rfl
theorem streamTimeout a0 a1 : Statement (.streamTimeout a0 a1) := nil _ rfl
theorem gapTimeout a0 a1 : Statement (.gapTimeout a0 a1) := nil _ rfl
theorem routerReset a0 a1 : Statement (.routerReset a0 a1) := nil _ rfl
theorem routerDrainEnd a0 : Statement (.routerDrainEnd a0) := nil _ rfl
theorem routerLoss a0 : Statement (.routerLoss a0) := nil _ rfl
theorem collectiveTimeout a0 a1 : Statement (.collectiveTimeout a0 a1) := nil _ rfl
theorem fence a0 a1 a2 : Statement (.fence a0 a1 a2) := nil _ rfl
theorem unfence a0 : Statement (.unfence a0) := nil _ rfl
theorem unitWatchdog a0 : Statement (.unitWatchdog a0) := nil _ rfl
theorem unitDrainDone a0 : Statement (.unitDrainDone a0) := nil _ rfl
theorem leaseExpiry a0 : Statement (.leaseExpiry a0) := nil _ rfl
theorem leaseRevokeDone a0 : Statement (.leaseRevokeDone a0) := nil _ rfl
theorem assayerTestDue a0 : Statement (.assayerTestDue a0) := nil _ rfl
theorem tileMigration a0 a1 : Statement (.tileMigration a0 a1) := nil _ rfl
theorem assayerDeferLimit a0 : Statement (.assayerDeferLimit a0) := nil _ rfl
theorem assayerTestPass a0 : Statement (.assayerTestPass a0) := nil _ rfl
theorem assayerTestFail a0 a1 : Statement (.assayerTestFail a0 a1) := nil _ rfl
theorem tallySlotRelease a0 a1 : Statement (.tallySlotRelease a0 a1) := nil _ rfl
theorem stackPageTest a0 a1 : Statement (.stackPageTest a0 a1) := nil _ rfl
theorem laneTest a0 a1 a2 a3 : Statement (.laneTest a0 a1 a2 a3) := nil _ rfl
theorem ringEnable a0 a1 : Statement (.ringEnable a0 a1) := nil _ rfl
theorem ringDisable a0 : Statement (.ringDisable a0) := nil _ rfl
theorem ringTailWrite a0 a1 : Statement (.ringTailWrite a0 a1) := nil _ rfl
theorem eventSourceAssert a0 : Statement (.eventSourceAssert a0) := nil _ rfl
theorem eventSourceWithdraw a0 : Statement (.eventSourceWithdraw a0) := nil _ rfl
theorem evcPendSet a0 a1 a2 : Statement (.evcPendSet a0 a1 a2) := nil _ rfl
theorem evcPendClr a0 a1 a2 : Statement (.evcPendClr a0 a1 a2) := nil _ rfl
theorem evcMaskSet a0 a1 a2 : Statement (.evcMaskSet a0 a1 a2) := nil _ rfl
theorem evcMaskClr a0 a1 a2 : Statement (.evcMaskClr a0 a1 a2) := nil _ rfl
theorem evcClaim a0 a1 a2 : Statement (.evcClaim a0 a1 a2) := nil _ rfl
theorem evcComplete a0 a1 a2 a3 : Statement (.evcComplete a0 a1 a2 a3) := nil _ rfl
theorem serviceCoreFailure a0 a1 : Statement (.serviceCoreFailure a0 a1) := nil _ rfl
theorem standbyPromoted : Statement (.standbyPromoted) := nil _ rfl
theorem coreRestartDone a0 a1 : Statement (.coreRestartDone a0 a1) := nil _ rfl
theorem bar0Request a0 a1 a2 a3 a4 : Statement (.bar0Request a0 a1 a2 a3 a4) := nil _ rfl
theorem bar2Request a0 a1 a2 a3 a4 a5 : Statement (.bar2Request a0 a1 a2 a3 a4 a5) := nil _ rfl
theorem bar4Request a0 a1 a2 a3 a4 : Statement (.bar4Request a0 a1 a2 a3 a4) := nil _ rfl
theorem hostWindowReadCompletion a0 a1 a2 a3 : Statement (.hostWindowReadCompletion a0 a1 a2 a3) := nil _ rfl
theorem functionLevelReset a0 : Statement (.functionLevelReset a0) := nil _ rfl
theorem hotReset a0 : Statement (.hotReset a0) := nil _ rfl
theorem hostLinkDown a0 : Statement (.hostLinkDown a0) := nil _ rfl
theorem persthN a0 : Statement (.persthN a0) := nil _ rfl
theorem msixEntryUnmask a0 a1 : Statement (.msixEntryUnmask a0 a1) := nil _ rfl
theorem entdaa a0 : Statement (.entdaa a0) := nil _ rfl
theorem mctpControl a0 : Statement (.mctpControl a0) := nil _ rfl
theorem pldmMonitoring a0 : Statement (.pldmMonitoring a0) := nil _ rfl
theorem pldmSetPowerLimit a0 : Statement (.pldmSetPowerLimit a0) := nil _ rfl
theorem pldmFirmwareUpdate a0 : Statement (.pldmFirmwareUpdate a0) := nil _ rfl
theorem stageCheck : Statement (.stageCheck) := nil _ rfl
theorem readRecords a0 : Statement (.readRecords a0) := nil _ rfl
theorem readAudit a0 : Statement (.readAudit a0) := nil _ rfl
theorem getVersion : Statement (.getVersion) := nil _ rfl
theorem getCapabilities : Statement (.getCapabilities) := nil _ rfl
theorem negotiateAlgorithms a0 : Statement (.negotiateAlgorithms a0) := nil _ rfl
theorem getDigests : Statement (.getDigests) := nil _ rfl
theorem getCertificate a0 a1 a2 : Statement (.getCertificate a0 a1 a2) := nil _ rfl
theorem challenge a0 a1 : Statement (.challenge a0 a1) := nil _ rfl
theorem getMeasurements a0 a1 : Statement (.getMeasurements a0 a1) := nil _ rfl
theorem auth a0 a1 : Statement (.auth a0 a1) := nil _ rfl
theorem consoleIdleTimeout : Statement (.consoleIdleTimeout) := nil _ rfl
theorem consoleBreak : Statement (.consoleBreak) := nil _ rfl
theorem consoleLockExpire : Statement (.consoleLockExpire) := nil _ rfl
theorem jtagUnlock a0 : Statement (.jtagUnlock a0) := nil _ rfl
theorem secChallenge a0 : Statement (.secChallenge a0) := nil _ rfl
theorem authGo a0 a1 : Statement (.authGo a0 a1) := nil _ rfl
theorem authVerifyDone a0 a1 : Statement (.authVerifyDone a0 a1) := nil _ rfl
theorem authLockExpire a0 : Statement (.authLockExpire a0) := nil _ rfl
theorem sessionEnd a0 : Statement (.sessionEnd a0) := nil _ rfl
theorem adopt a0 : Statement (.adopt a0) := nil _ rfl
theorem activateFw a0 : Statement (.activateFw a0) := nil _ rfl
theorem activateFwTimeout : Statement (.activateFwTimeout) := nil _ rfl
theorem auditCommit a0 : Statement (.auditCommit a0) := nil _ rfl
theorem doorbellAuditTimer : Statement (.doorbellAuditTimer) := nil _ rfl
theorem brownOut a0 : Statement (.brownOut a0) := nil _ rfl
theorem overVoltage a0 : Statement (.overVoltage a0) := nil _ rfl
theorem thermalTrip a0 a1 : Statement (.thermalTrip a0 a1) := nil _ rfl
theorem emergencyOffEnd : Statement (.emergencyOffEnd) := nil _ rfl
theorem alwaysOnRailsGood : Statement (.alwaysOnRailsGood) := nil _ rfl
theorem inputRestart a0 : Statement (.inputRestart a0) := nil _ rfl
theorem pwrEnRise : Statement (.pwrEnRise) := nil _ rfl
theorem pwrEnFall : Statement (.pwrEnFall) := nil _ rfl
theorem resetN : Statement (.resetN) := nil _ rfl
theorem startPhaseDone a0 : Statement (.startPhaseDone a0) := nil _ rfl
theorem startPhaseTimeout : Statement (.startPhaseTimeout) := nil _ rfl
theorem railFault a0 : Statement (.railFault a0) := nil _ rfl
theorem converterPhaseFail a0 : Statement (.converterPhaseFail a0) := nil _ rfl
theorem regulatorPhaseFail a0 a1 : Statement (.regulatorPhaseFail a0 a1) := nil _ rfl
theorem limiterPeakStep a0 : Statement (.limiterPeakStep a0) := nil _ rfl
theorem limiterSustainedStep a0 : Statement (.limiterSustainedStep a0) := nil _ rfl
theorem limiterStepUp a0 : Statement (.limiterStepUp a0) := nil _ rfl
theorem cdieThermalStepDown a0 a1 : Statement (.cdieThermalStepDown a0 a1) := nil _ rfl
theorem cdieThermalStepUp a0 a1 : Statement (.cdieThermalStepUp a0 a1) := nil _ rfl
theorem opChangeDone a0 : Statement (.opChangeDone a0) := nil _ rfl
theorem idleEntry : Statement (.idleEntry) := nil _ rfl
theorem deepIdleEntry : Statement (.deepIdleEntry) := nil _ rfl
theorem wake : Statement (.wake) := nil _ rfl
theorem dieReset a0 : Statement (.dieReset a0) := nil _ rfl
theorem hostLinkUp a0 a1 a2 a3 : Statement (.hostLinkUp a0 a1 a2 a3) := nil _ rfl
theorem configurationRequest a0 a1 a2 a3 : Statement (.configurationRequest a0 a1 a2 a3) := nil _ rfl
theorem jtagInstruction a0 : Statement (.jtagInstruction a0) := nil _ rfl
theorem vref3v3Loss : Statement (.vref3v3Loss) := nil _ rfl
theorem neighbourRouterDrain a0 a1 : Statement (.neighbourRouterDrain a0 a1) := nil _ rfl

end Sys2Proof.Laws.WF
end

