-- ==== Sys2Proof/Laws/Reports.lean ====
section
/-! SUPPORT. What reports leave unchanged: a record, an event, a condition, a message (`State.Reports`). -/

namespace Sys2Proof.Machine

variable {s0 s : State}

/-! ### Writes leave the host dies alone -/

theorem writeBack_hdies (s : State) (l : Line) : (writeBack s l).hdies = s.hdies := by
  refine foldl_keeps (fun (t : State) => t.hdies = s.hdies) _ _ _ rfl (fun t u ht => ?_)
  split <;> exact ht

theorem evict_hdies (s : State) (l : Line) : (evict s l).hdies = s.hdies := writeBack_hdies s l

theorem makeRoom_hdies (s : State) (st line : Nat) (c : LineClass) : (makeRoom s st line c).1.hdies = s.hdies := by
  unfold makeRoom
  dsimp only
  repeat' split
  all_goals first | rfl | exact evict_hdies _ _

theorem allocate_hdies (s : State) (st line : Nat) (c : LineClass) (o : Option Nat) :
    (allocate s st line c o).1.hdies = s.hdies := makeRoom_hdies s st line c

theorem promote_hdies (s : State) (l : Line) (o : Option Nat) : (promote s l o).1.hdies = s.hdies := by
  unfold promote
  repeat' split
  all_goals rfl

theorem lineWrite_hdies (s : State) (st line off : Nat) (d : List Byte) (hint : Hint) (p : Bool) (o : Option Nat) :
    (lineWrite s st line off d hint p o).hdies = s.hdies := by
  unfold lineWrite
  dsimp only
  repeat' split
  all_goals try dsimp only
  all_goals first
    | rfl
    | rw [promote_hdies]
    | rw [writeBack_hdies]
    | rw [allocate_hdies]

theorem writePiece_hdies (s : State) (j : Option Nat) (a : Nat) (d : List Byte) (hint : Hint) (p : Bool) :
    (writePiece s j a d hint p).hdies = s.hdies := by
  unfold writePiece
  split
  · split
    · rfl
    · rfl
    · rw [lineWrite_hdies]
      split <;> rfl
  · dsimp only
    split <;> rfl
  · split <;> rfl
  · rfl

/-- A write of any length leaves the host dies as they were. -/
theorem writeMem_hdies (s : State) (j : Option Nat) (a : Nat) (d : List Byte) (hint : Hint) (p : Bool) :
    (writeMem s j a d hint p).hdies = s.hdies :=
  foldl_keeps (fun (t : State) => t.hdies = s.hdies) _ _ _ rfl
    (fun t q ht => (writePiece_hdies t j q.1 _ hint p).trans ht)

/-! ### Reports -/

theorem State.Reports.refl (s : State) : s.Reports s := by
  constructor <;> first | rfl | intros; first | rfl | assumption

theorem State.Reports.ringEn {s t : State} (h : s.Reports t) : t.flt.ringEn = s.flt.ringEn := by
  have e := congrArg Flt.ringEn h.flt
  exact e

theorem State.Reports.trans {s t u : State} (h : s.Reports t) (k : t.Reports u) : s.Reports u where
  pending := k.pending.trans h.pending
  tick := k.tick.trans h.tick
  pwr := k.pwr.trans h.pwr
  ctxs := k.ctxs.trans h.ctxs
  cdies := k.cdies.trans h.cdies
  sdies := k.sdies.trans h.sdies
  blocks := k.blocks.trans h.blocks
  passes := k.passes.trans h.passes
  cpr := k.cpr.trans h.cpr
  cols := k.cols.trans h.cols
  far := k.far.trans h.far
  asy := k.asy.trans h.asy
  cfg := k.cfg.trans h.cfg
  sec := k.sec.trans h.sec
  req := k.req.trans h.req
  cores := k.cores.trans h.cores
  mgmt := k.mgmt.trans h.mgmt
  con := k.con.trans h.con
  jtag := k.jtag.trans h.jtag
  rsp := k.rsp.trans h.rsp
  slowEnd := k.slowEnd.trans h.slowEnd
  flt := k.flt.trans h.flt
  evc := k.evc.trans h.evc
  pend := fun e he => k.pend e (h.pend e he)
  ldies := fun l => (k.ldies l).trans (h.ldies l)
  hdies := fun p => (k.hdies p).trans (h.hdies p)
  mem := fun hr => (k.mem (h.ringEn.trans hr)).trans (h.mem hr)

/-- Only what reports may change has changed, but for one thing each that the caller shows. -/
theorem State.Reports.of {s t : State} (h : Quiet s t)
    (flt : { t.flt with seq := 0, recs := [], head := 0, lost := 0 } = { s.flt with seq := 0, recs := [], head := 0, lost := 0 })
    (evc : { t.evc with pend := [], cond := [] } = { s.evc with pend := [], cond := [] })
    (pend : ∀ e ∈ s.evc.pend, e ∈ t.evc.pend)
    (ldies : ∀ l : LIx, { t.ldies[l] with streams := [] } = { s.ldies[l] with streams := [] })
    (hdies : ∀ p : HIx, { t.hdies[p] with pba := [] } = { s.hdies[p] with pba := [] })
    (mem : s.flt.ringEn = false → t.mem = s.mem) : s.Reports t :=
  { h with flt := flt, evc := evc, pend := pend, ldies := ldies, hdies := hdies, mem := mem }

theorem msixOn_hdies (s : State) (p q : HIx) (k : Nat) :
    { (s.msixOn p k).hdies[q] with pba := [] } = { s.hdies[q] with pba := [] } := by
  have h : (s.msixOn p k).hdies = upd s.hdies p (fun d => d.message k) := by
    unfold State.msixOn
    dsimp only
    split <;> rfl
  by_cases e : q = p
  · subst e
    have g : (s.msixOn q k).hdies[q] = s.hdies[q].message k := by rw [h, upd_self]
    rw [g]
    unfold HDie.message
    split <;> rfl
  · have g : (s.msixOn p k).hdies[q] = s.hdies[q] := by rw [h, upd_other _ _ _ _ (Ne.symm e)]
    rw [g]

theorem State.msixOn_reports (s : State) (p : HIx) (k : Nat) : s.Reports (s.msixOn p k) := by
  refine .of (State.msixOn_quiet (.refl s) p k) ?_ ?_ ?_ ?_ (fun q => msixOn_hdies s p q k) ?_
  all_goals
    unfold State.msixOn
    dsimp only
    split <;> simp [State.modHDie]

theorem pushOn_streams (d : LDie) (sel : SrcStream → Bool) (who : Nat × Nat) (p : Packet) :
    { (d.pushOn sel who p) with streams := [] } = { d with streams := [] } := rfl

theorem State.sendSystem_ldies (s : State) (p : Packet) (l : LIx) :
    { (s.sendSystem p).ldies[l] with streams := [] } = { s.ldies[l] with streams := [] } := by
  simp [State.sendSystem, LDie.pushOn]

theorem State.sendMsix_reports (s : State) (c : Nat) : s.Reports (s.sendMsix c) := by
  unfold State.sendMsix
  split
  · refine .of ((Quiet.refl s).put _ _ _ _ _ _ _) rfl rfl (fun _ h => h) ?_ (fun _ => rfl) (fun _ => rfl)
    intro l
    exact State.sendSystem_ldies s _ l
  · exact State.msixOn_reports s _ _

/-- A change of the event controller that keeps its registers and loses no pending event is a report. -/
theorem State.evUpdate_reports (s : State) (f : Evc → Evc)
    (hf : { f s.evc with pend := [], cond := [] } = { s.evc with pend := [], cond := [] })
    (hp : ∀ e ∈ s.evc.pend, e ∈ (f s.evc).pend) : s.Reports (s.evUpdate f) := by
  have h0 : s.Reports { s with evc := f s.evc } :=
    .of ((Quiet.refl s).put _ _ _ _ _ _ _) rfl hf hp (fun _ => rfl) (fun _ => rfl) (fun _ => rfl)
  unfold State.evUpdate
  dsimp only
  repeat' split
  all_goals first
    | exact h0
    | exact h0.trans (State.sendMsix_reports _ _)
    | exact (h0.trans (State.sendMsix_reports _ _)).trans (State.sendMsix_reports _ _)

theorem mem_insertNat (a b : Nat) (l : List Nat) : a ∈ insertNat b l ↔ a = b ∨ a ∈ l := by
  induction l with
  | nil => simp [insertNat]
  | cons x l ih =>
    unfold insertNat
    repeat' split
    all_goals simp_all [or_left_comm]

theorem State.raise_reports (s : State) (e : Nat) : s.Reports (s.raise e) := by
  unfold State.raise
  split
  · exact .refl s
  · exact State.evUpdate_reports s _ rfl (fun x hx => (mem_insertNat x e _).2 (.inr hx))

theorem State.setCond_reports (s : State) (e : Nat) (b : Bool) : s.Reports (s.setCond e b) := by
  unfold State.setCond
  split
  · exact .refl s
  · exact State.evUpdate_reports s _ rfl (fun _ hx => hx)

theorem ringPut_reports (s : State) (r : ErrRec) : s.Reports (ringPut s r) := by
  unfold ringPut
  dsimp only
  split
  · exact .refl s
  · rename_i hr
    split
    · refine State.Reports.trans ?_ (State.raise_reports _ _)
      exact .of ((Quiet.refl s).put _ _ _ _ _ _ _) rfl rfl (fun _ h => h) (fun _ => rfl) (fun _ => rfl) (fun _ => rfl)
    · have q := writeMem_memOnly (MemOnly.refl s) none (s.flt.ringBase + s.flt.head * 64) r.bytes .stream
      refine State.Reports.trans ?_ (State.setCond_reports _ _ _)
      refine .of (q.quiet.put _ _ _ _ _ _ _) ?_ ?_ ?_ ?_ ?_ ?_
      · dsimp only; rw [q.flt]
      · dsimp only; rw [q.evc]
      · dsimp only; rw [q.evc]; exact fun _ h => h
      · dsimp only; rw [q.ldies]; exact fun _ => rfl
      · dsimp only; rw [writeMem_hdies]; exact fun _ => rfl
      · intro h; exact absurd h (by simpa using hr)

/-- A record is a report. -/
theorem State.record_reports (s : State) (r : ErrRec) : s.Reports (s.record r) := by
  unfold State.record
  split
  · exact .refl s
  · refine State.Reports.trans ?_ (ringPut_reports _ _)
    exact .of ((Quiet.refl s).put _ _ _ _ _ _ _) rfl rfl (fun _ h => h) (fun _ => rfl) (fun _ => rfl) (fun _ => rfl)

theorem State.regAccess_reports (s : State) (rq : Requester) (addr reason : Nat) :
    s.Reports (s.regAccess rq addr reason) := State.record_reports s _

/-- An edge event that a source raises is pending. -/
theorem State.raise_pend (s : State) (e : Nat) (h : neverPends e = false) (hl : levelEvent e = false) :
    e ∈ (s.raise e).evc.pend := by
  unfold State.raise
  rw [if_neg (by simp [h, hl]), State.evUpdate_evc]
  exact (mem_insertNat e e _).2 (.inl rfl)

/-- A level source's condition is as it was set. -/
theorem State.setCond_cond (s : State) (e : Nat) (b : Bool) (h : levelEvent e = true) :
    (s.setCond e b).evc.cond = if b then insertNat e s.evc.cond else eraseNat e s.evc.cond := by
  unfold State.setCond
  rw [if_neg (by simp [h]), State.evUpdate_evc]

end Sys2Proof.Machine
end

