-- ==== Sys2Proof/Laws/Regs.lean ====
section
/-! SUPPORT. What a read and a write of one register do, by the kind of the register: cited in place of `readReg`,
`writeWord` and `setReg`, which match on every register. -/

namespace Sys2Proof.Machine

variable (s : State) (rq : Requester)

/-- A write of a register that no command of its own writes goes by its requester's right. -/
theorem State.writeWord_by_right (addr : Nat) (v : Word) (r : Reg) (hi : Bool) (need : Right)
    (h1 : regBase ≤ addr) (h2 : s.pageHeld (addr - regBase) = false) (h3 : regAt (addr - regBase) = some (r, hi))
    (hr : r.right = some need)
    (hn : r ≠ .ctxCmd ∧ (∀ j e, r ≠ .qCtrl j e ∧ r ≠ .qTail j e) ∧ r ≠ .fenceCtrl ∧ r ≠ .secCmd) :
    s.writeWord rq addr v = match s.access rq need with
      | .refused => s.regAccess rq addr 3
      | .atOnce => s.applyWrite rq addr v
      | .audited => s.pend (s.writeRec rq addr r hi v) (.regWrite addr v) := by
  unfold State.writeWord
  simp only [h2, h3, Nat.not_lt.2 h1, decide_false, Bool.or_false, Bool.false_eq_true, if_false]
  split
  · exact absurd rfl hn.1
  · exact absurd rfl (hn.2.1 _ _).1
  · exact absurd rfl (hn.2.1 _ _).2
  · exact absurd rfl hn.2.2.1
  · exact absurd rfl hn.2.2.2
  · rw [hr] <;> rfl

/-- A write of a single register takes effect at once. -/
theorem State.applyAt_single (x : Nat) (v : Word) (r : Reg) (h2 : s.pageHeld x = false)
    (h3 : regAt x = some (r, false)) (hw : r.wide = false) : s.applyAt rq x v = s.setReg rq r v.toNat := by
  unfold State.applyAt
  rw [h3]
  dsimp only
  rw [h2, hw]
  rfl

/-- A write of the low word of a pair is kept for its requester. -/
theorem State.applyAt_low (x : Nat) (v : Word) (r : Reg) (h2 : s.pageHeld x = false)
    (h3 : regAt x = some (r, false)) (hw : r.wide = true) :
    s.applyAt rq x v = s.modReq rq (fun q => { q with writeLatch := relatch q.writeLatch (latchKey r x) v }) := by
  unfold State.applyAt
  rw [h3]
  dsimp only
  rw [h2, hw]
  rfl

/-- A write of the high word of a pair carries the low word kept, or the register's own. -/
theorem State.applyAt_high (x : Nat) (v : Word) (r : Reg) (h2 : s.pageHeld x = false) (h3 : regAt x = some (r, true)) :
    s.applyAt rq x v =
      (s.modReq rq (fun q => { q with writeLatch := unlatch q.writeLatch (latchKey r (x - 4)) })).setReg rq r
        (joinWords ((latched (s.reqOf rq).writeLatch (latchKey r (x - 4))).getD (lowWord (s.regValue rq r))) v) := by
  unfold State.applyAt
  rw [h3]
  dsimp only
  rw [h2]
  rfl

theorem State.applyWrite_eq (addr : Nat) (v : Word) : s.applyWrite rq addr v = s.applyAt rq (addr - regBase) v := rfl

theorem Reg.right_sb (j : JobIx) (k : Fin 64) : Reg.right (.sb j k) = some .anyone := rfl
theorem Reg.right_jobStatus (j : JobIx) : Reg.right (.jobStatus j) = some .anyone := rfl
theorem Reg.right_rowCfg (j : JobIx) : Reg.right (.rowCfg j) = some .operator := rfl
theorem Reg.right_tallyBase : Reg.right .tallyBase = some .anyone := rfl

theorem State.setReg_sb (j : JobIx) (k : Fin 64) (n : Nat) :
    s.setReg rq (.sb j k) n = s.modCtx j (fun c => { c with sb := upd c.sb k (fun _ => BitVec.ofNat 32 n) }) := rfl
theorem State.setReg_jobStatus (j : JobIx) (n : Nat) :
    s.setReg rq (.jobStatus j) n = s.modCtx j (fun c => { c with jobStatus := c.jobStatus &&& ~~~(BitVec.ofNat 32 n) }) := rfl
theorem State.setReg_rowCfg (j : JobIx) (n : Nat) :
    s.setReg rq (.rowCfg j) n = s.modCtx j (fun c => { c with rowCfg := BitVec.ofNat 32 n &&& 0x8000FFFF#32 }) := rfl
theorem State.setReg_tallyBase (n : Nat) :
    s.setReg rq .tallyBase n = s.setFlt (fun f => { f with tallyBase := bitsOf n 47 12 * 4096 }) := rfl

/-- A read of a word of a register whose page answers. -/
theorem State.readWordAt_reg (x : Nat) (r : Reg) (hi : Bool) (h : regAt x = some (r, hi)) (h2 : s.pageHeld x = false) :
    s.readWordAt rq x = s.readReg rq r hi x := by
  unfold State.readWordAt
  rw [h]
  dsimp only
  rw [h2, if_neg (by decide)]

theorem State.readWord_above (addr : Nat) (h : regBase ≤ addr) : s.readWord rq addr = s.readWordAt rq (addr - regBase) := by
  unfold State.readWord
  rw [if_neg (Nat.not_lt.2 h)]

/-- An aligned read answers the word. -/
theorem State.readAnswer_aligned (addr : Nat) (h : addr % 4 = 0) :
    s.readAnswer rq addr = (s.readWord rq addr).2.answer (.word (s.readWord rq addr).1) := by
  unfold State.readAnswer State.readAt
  rw [if_neg (by decide), if_neg (by simp [h])]

/-- A read of a register whose page answers, whole. -/
theorem State.readAnswer_reg (addr : Nat) (r : Reg) (hi : Bool) (h1 : regBase ≤ addr) (h2 : addr % 4 = 0)
    (h3 : s.pageHeld (addr - regBase) = false) (h4 : regAt (addr - regBase) = some (r, hi)) :
    s.readAnswer rq addr =
      (s.readReg rq r hi (addr - regBase)).2.answer (.word (s.readReg rq r hi (addr - regBase)).1) := by
  rw [State.readAnswer_aligned _ _ _ h2, State.readWord_above _ _ _ h1, State.readWordAt_reg _ _ _ _ _ h4 h3]

/-- A read of the low word of a pair keeps the high word. -/
theorem State.readReg_low (r : Reg) (hw : r.wide = true) (x : Nat) :
    s.readReg rq r false x = (lowWord (s.regValue rq r),
      s.modReq rq (fun q => { q with readLatch := relatch q.readLatch (latchKey r x) (highWord (s.regValue rq r)) })) := by
  cases r <;> first | rfl | (simp [Reg.wide] at hw)

/-- A read of the high word of a pair answers what a read of the low word kept. -/
theorem State.readReg_high (r : Reg) (hw : r.wide = true) (x : Nat) (w : Word)
    (h : latched (s.reqOf rq).readLatch (latchKey r (x - 4)) = some w) :
    s.readReg rq r true x =
      (w, s.modReq rq (fun q => { q with readLatch := unlatch q.readLatch (latchKey r (x - 4)) })) := by
  cases r <;> first | (simp [Reg.wide] at hw; done) | (simp [State.readReg, h])

theorem latched_unlatch (l : List (Nat × Word)) (k : Nat) : latched (unlatch l k) k = none := by
  simp [latched, unlatch, List.find?_eq_none]

theorem latched_relatch (l : List (Nat × Word)) (k : Nat) (v : Word) : latched (relatch l k v) k = some v := by
  simp [latched, relatch]

/-- A read of a single register that clears. -/
theorem State.readReg_eccCnt (t : SIx) (x : Nat) :
    s.readReg rq (.eccCnt t) false x = (lowWord (s.sdies[t]).eccCnt.toNat, s.modSDie t (fun d => { d with eccCnt := 0 })) := rfl
theorem State.readReg_thermCnt (t : SIx) (x : Nat) :
    s.readReg rq (.thermCnt t) false x = (lowWord (s.sdies[t]).thermCnt.toNat, s.modSDie t (fun d => { d with thermCnt := 0 })) := rfl
theorem State.readReg_dropCnt (l : LIx) (x : Nat) :
    s.readReg rq (.dropCnt l) false x = (lowWord (s.ldies[l]).drop.toNat, s.modLDie l (fun d => { d with drop := 0 })) := rfl
theorem State.readReg_errCnt (h : HIx) (x : Nat) :
    s.readReg rq (.errCnt h) false x = (lowWord (s.hdies[h]).errCnt.toNat, s.modHDie h (fun d => { d with errCnt := 0 })) := rfl
theorem State.readReg_leaseCnt (x : Nat) :
    s.readReg rq .leaseCnt false x = (lowWord s.flt.leaseCnt.toNat, s.setFlt (fun f => { f with leaseCnt := 0 })) := rfl

end Sys2Proof.Machine
end

