-- ==== Sys2Proof/Tests/Slice0.lean ====
section
/-! SUPPORT. Tests on small states: the checks of WellFormed refuse ill-formed commands, the statements' hypotheses are
met, and commands do on worked values what their rules say. Expected values come from the rules, by hand. -/

namespace Sys2Proof.Tests
open Sys2Proof.Machine
set_option Elab.async false

/-! ### Small states -/

/-- A tensor descriptor's 64 bytes (Table 6-1): base, type, extents with strides, further fields. -/
def desc (base dtype : Nat) (e0 : Nat) (dims : List (Nat × Nat)) (more : Nat := 0) : List Byte :=
  let places := [(242, 266), (296, 320), (350, 374), (404, 428), (458, 482)]
  leBytes 64 (base / 64 + dtype * 2 ^ 42 + (dims.length + 1) * 2 ^ 50 + 0x3F800000 * 2 ^ 72 + e0 * 2 ^ 168 + more +
    ((dims.zip places).map (fun p => p.1.1 * 2 ^ p.2.1 + p.1.2 * 2 ^ p.2.2)).foldl (· + ·) 0)

/-- A command slot (Table 8-2). -/
def slot (op flags job cmd step wait pred signal : Nat) (d : List Nat) (imm : Nat) : List Byte :=
  [BitVec.ofNat 8 op, BitVec.ofNat 8 flags, BitVec.ofNat 8 job, 0] ++ leBytes 4 cmd ++ leBytes 4 step ++
  leBytes 4 wait ++ leBytes 4 pred ++ leBytes 4 signal ++ leBytes 4 0 ++
  ((List.range 5).flatMap (fun k => leBytes 6 (d.getD k 0))) ++ leBytes 6 imm

/-- An admitted list with the given plan length, deadline 1,000. -/
def admitted (n : Nat) : AdmList :=
  ⟨0, 0, 1000, 0, 0, [], [0, 0, 0, 0, 0, 0], [], List.replicate n ⟨false, 0, 0⟩, 0, false, false, false, 0⟩

/-- A queue that runs the commands of one admitted list, from the given slots. -/
def running (l : List (List Byte)) : Queue :=
  { Reset.queue with
    state := .active
    log2 := 6
    base := 0x1000
    held := l.map (fun b => ⟨b, 0, none⟩)
    curList := some 0
    lists := [admitted l.length] }

/-- An OPEN context with 64 MiB of the 12-stack interleave. -/
def openCtx : Ctx := { Reset.ctx with state := .opened, regions := [⟨0, 2 ^ 14, 0, 0, true⟩], jobStatus := 5, fault := 3 }

/-- A module that runs, its units in service and its host ports up. -/
def live : State :=
  { State.reset with
    pwr := { State.reset.pwr with state := .active, conv := 12, pPhases := #v[24, 24, 16], vref := true }
    cdies := Vector.replicate 4 { Reset.cdie with
      powered := true
      held := false
      tiles := Vector.ofFn (fun (i : TileIx) => { Reset.tile with
        state := .idle, role := if i.val < 128 then .service else .spare })
      banks := Vector.ofFn (fun (i : Fin 51) => if i.val < 48 then ⟨.inService, some i.val, Reset.test⟩
        else ⟨.spare, none, Reset.test⟩) }
    sdies := Vector.replicate 12 { Reset.sdie with state := .normal, held := false }
    ldies := Vector.replicate 3 { Reset.ldie with held := false }
    hdies := Vector.replicate 2 { Reset.hdie with held := false, linkUp := true, inReset := false } }

def State.putCtx (s : State) (j : JobIx) (c : Ctx) : State := { s with ctxs := s.ctxs.set j c }
def State.putQ (s : State) (j : JobIx) (e : EngIx) (q : Queue) : State :=
  State.putCtx s j { s.ctx j with queues := (s.ctx j).queues.set e q }
/-- A requester's session open in a role. -/
def State.login (s : State) (rq : Requester) (r : Role) : State := s.modReq rq (fun q => { q with sess := .opened, role := r })
/-- Bytes put where stack addresses lie (R327). -/
def State.putDram (s : State) (l : List (Nat × List Byte)) : State :=
  { s with mem := { s.mem with dram := l.foldl (fun m p =>
    m.writeN (dramKey (stackOf s.sdies[0].split p.1).1 (stackOf s.sdies[0].split p.1).2) p.2) s.mem.dram } }

/-- The state that a command leaves; the reset state where it stops. -/
def next (o : Host.Outcome State Fault Refusal) : State := match o with | .next s => s | _ => State.reset

/-- Host port A logged in as operator, context 3 in a state with one queue. -/
def opJob (c : Ctx) : State := State.putCtx (State.login live .hostA .operator) 3 c
def opQueue (q : Queue) : State := State.putQ (opJob openCtx) 3 1 q

/-- Context 3's vector queue with commands at its front. -/
def front (l : List (List Byte)) : State := State.putQ (State.putCtx live 3 openCtx) 3 1 (running l)

/-! ### Steps and contexts -/

theorem wit_step : ({ live with pending := [.wake] } : State).pending = .wake :: [] ∧ live.pending = [] ∧
    live.pwr.state ≠ .off ∧ live.tick + 1 < 2 ^ 64 ∧
    2 ^ 64 ≤ ({ live with tick := 2 ^ 64 - 1 } : State).tick + 1 ∧
    ({ live with pwr := { live.pwr with state := .off } } : State).pwr.state = .off := by decide +kernel

theorem test_tick : (next (step live)).tick = 1 := by decide +kernel

theorem wit_stop : (∃ t, exec .wake live = .next t) ∧
    exec (.jtagInstruction (.other 3)) { live with sec := { live.sec with unlocked := true } } = .refused .debugInstruction :=
  ⟨⟨_, rfl⟩, rfl⟩

theorem wit_keeps : live.mem.wf ∧ live.sec.sound ∧ (∃ t, step live = .next t) ∧ ∃ t, exec .wake live = .next t :=
  ⟨⟨rfl, rfl, rfl⟩, ⟨trivial, rfl, by decide, by decide⟩, ⟨_, rfl⟩, _, rfl⟩

/-- DSP_CTX_SEED_3, a register of the operator, written by host port B, which holds no role. -/
theorem wit_unprivileged : regAt (regBase + 1073352 - regBase) = some (.ctxSeed 3, false) ∧
    (Reg.ctxSeed 3).right = some .operator ∧ live.roleOf .hostB = .none ∧ (regBase + 1073352) % 4 = 0 := by decide +kernel

theorem test_unprivileged : (next (exec (.registerWrite .hostB (regBase + 1073352) 4 7) live)).ctxs = live.ctxs := by
  decide +kernel

theorem wit_grants : (opJob openCtx).Grants .hostA .operator := ⟨by decide +kernel, rfl, rfl, by decide +kernel⟩

theorem wit_open : (opJob Reset.ctx).Grants .hostA .operator ∧ ((opJob Reset.ctx).ctx 3).state = .free ∧
    (opJob Reset.ctx).ready = true ∧ ((opJob openCtx).ctx 3).state ≠ .free :=
  ⟨⟨by decide +kernel, rfl, rfl, by decide +kernel⟩, by decide +kernel⟩

theorem test_open : ((next (exec (.openCtx .hostA 3) (opJob Reset.ctx))).ctx 3).state = .opening ∧
    ((next (exec (.openCtx .hostA 3) (opJob openCtx))).ctx 3).err = true ∧
    ((next (exec (.openCtx .hostB 3) (opJob Reset.ctx))).ctx 3).state = .free := by decide +kernel

theorem wit_resetJob : (opJob { openCtx with state := .faulted }).Grants .hostA .operator ∧
    ((opJob { openCtx with state := .faulted }).ctx 3).state = .faulted ∧ ((opJob openCtx).ctx 3).state = .opened :=
  ⟨⟨by decide +kernel, rfl, rfl, by decide +kernel⟩, by decide +kernel⟩

theorem test_resetJob : ((next (exec (.resetJob .hostA 3) (opJob openCtx))).ctx 3).state = .resetting ∧
    ((next (exec (.resetJob .hostA 3) (opJob openCtx))).ctx 3).jobStatus = 0 ∧
    ((next (exec (.resetJob .hostA 3) (opJob openCtx))).ctx 3).regions = openCtx.regions := by decide +kernel

theorem wit_close : (∀ l ∈ (opJob openCtx).flt.leases, l.job ≠ 3) ∧ ((opJob openCtx).ctx 3).doorbells = 0 ∧
    ((opJob { openCtx with state := .resetting }).ctx 3).state = .resetting ∧
    ((opJob { openCtx with state := .closing }).ctx 3).state = .closing := by decide +kernel

theorem test_close : ((next (exec (.close .hostA 3) (opJob openCtx))).ctx 3).state = .closing ∧
    ((next (exec (.contextCancelDone 3) (opJob { openCtx with state := .closing }))).ctx 3).state = .scrubbing := by
  decide +kernel

/-- A region table of zeros, which has no valid entry, at the start of C-die 0's scratchpad. -/
def table (c : Ctx) : State := opJob { c with rgn := 0x08 * 2 ^ 40 }
/-- The same with a poisoned unit. -/
def badTable (c : Ctx) : State := { table c with mem := { live.mem with padPoison := [(0, 3)] } }
/-- The write of RELOAD_REGIONS recorded first. -/
def reloading : State :=
  let s := table openCtx
  { s with sec := s.sec.commit (s.auditRec .hostA .regWrite 0 ctxCmdAddr 0 (ctxCmdWord 4 3)) }
def opening : Ctx := { openCtx with state := .opening, regions := [] }

theorem table_zeros {l : List Byte} (n : l.length = 4096) (z : l.all (· == 0) = true) : parseTable l = [] := by
  have : l = List.replicate 4096 0 := List.eq_replicate_iff.2 ⟨n, by simpa using z⟩
  subst this
  simp only [parseTable, List.filterMap_eq_nil_iff, List.mem_range, List.drop_replicate, List.take_replicate]
  intro i hi
  rw [show min 16 (4096 - 16 * i) = 16 by omega]
  decide

theorem table_loads (u : State) {l : List Byte} (n : l.length = 4096) (z : l.all (· == 0) = true) :
    tableOk u 3 (parseTable l) = true := by
  rw [table_zeros n z]; simp [tableOk, pairwiseOk]

theorem wit_table : ((table opening).ctx 3).state = .opening ∧
    (∃ g u, readMem (table opening) none ((table opening).ctx 3).rgn 4096 .stream = (g, u) ∧ g.waits = false ∧
      g.poison = false ∧ tableOk u 3 (parseTable g.data) = true) ∧
    ((badTable opening).ctx 3).state = .opening ∧
    ∃ g u, readMem (badTable opening) none ((badTable opening).ctx 3).rgn 4096 .stream = (g, u) ∧ g.waits = false ∧
      g.poison = true :=
  ⟨by decide +kernel, ⟨_, _, rfl, by decide +kernel, by decide +kernel,
    table_loads _ (by decide +kernel) (by decide +kernel)⟩, by decide +kernel, _, _, rfl, by decide +kernel, by decide +kernel⟩

theorem wit_reload : (table openCtx).Grants .hostA .operator ∧ ((table openCtx).ctx 3).state = .opened ∧
    (∀ e : EngIx, ((table openCtx).queue 3 e).state = .disabled) ∧
    (∃ g u, readMem reloading none ((table openCtx).ctx 3).rgn 4096 .stream = (g, u) ∧ g.waits = false ∧
      g.poison = false ∧ tableOk u 3 (parseTable g.data) = true) ∧
    ((table opening).ctx 3).state ≠ .opened ∧ ((opQueue { Reset.queue with state := .idle }).queue 3 1).state ≠ .disabled :=
  ⟨⟨by decide +kernel, rfl, rfl, by decide +kernel⟩, by decide +kernel, by decide +kernel,
    ⟨_, _, rfl, by decide +kernel, by decide +kernel, table_loads _ (by decide +kernel) (by decide +kernel)⟩,
    by decide +kernel, by decide +kernel⟩

/-- Table 8-1: an entry of 64 MiB from 0, writable, KIND 0; one without its valid bit is none. -/
theorem test_region_entry :
    parseRegion ([0, 0, 0, 0, 0, 0, 0, 0] ++ leBytes 4 0x4000 ++ [0xC0, 0, 0, 0]) = some ⟨0, 0x4000, 0, 0, true⟩ ∧
    parseRegion ([0, 0, 0, 0, 0, 0, 0, 0] ++ leBytes 4 0x4000 ++ [0x40, 0, 0, 0]) = none := by decide

/-- A context whose one region is the first page of the scratchpad of C-die 0, with a byte there. -/
def padJob : State :=
  { opJob { openCtx with state := .scrubbing, regions := [⟨0x08 * 2 ^ 40, 1, 2, 0, true⟩] } with
    mem := { live.mem with pad := [(5, 9), (4096, 7)] } }

theorem wit_scrub : (padJob.ctx 3).state = .scrubbing ∧ padJob.mem.pad.wf = true ∧
    placeOf padJob (0x08 * 2 ^ 40) = .pad 0 0 := by decide +kernel

theorem test_scrub : ((next (exec (.contextScrubDone 3) padJob)).ctx 3).state = .free ∧
    (next (exec (.contextScrubDone 3) padJob)).mem.pad = [(4096, 7)] := by decide +kernel

/-! ### Well-formedness: each check refuses a command that breaks it and takes one at its limit -/

theorem test_wf_coord : Coord.wf ⟨15, 0, 0⟩ = true ∧ Coord.wf ⟨16, 0, 0⟩ = false ∧ Coord.wf ⟨0, 16, 0⟩ = false ∧
    Coord.wf ⟨0, 0, 16⟩ = false := by decide

/-- A packet with every field at 0 and a whole payload. -/
def zeroPkt : Packet := { (default : Packet) with kind := .write, payload := List.replicate 256 0 }

theorem test_wf_packet : zeroPkt.wf = true ∧
    [{ zeroPkt with dst := ⟨16, 0, 0⟩ }, { zeroPkt with src := ⟨0, 16, 0⟩ }, { zeroPkt with kind := .other 16 },
     { zeroPkt with channel := 16 }, { zeroPkt with job := 64 }, { zeroPkt with age := 256 }, { zeroPkt with deflect := 256 },
     { zeroPkt with format := 256 }, { zeroPkt with seq := 2 ^ 16 }, { zeroPkt with srcRank := 2 ^ 12 },
     { zeroPkt with poison := 16 }, { zeroPkt with dstRank := 2 ^ 12 }, { zeroPkt with length := 257 },
     { zeroPkt with addr := 2 ^ 48 }, { zeroPkt with payload := [] }, { zeroPkt with kind := .ack },
     { zeroPkt with kind := .readReq, payload := [], length := 1 }].all (fun p => !p.wf) = true := by decide +kernel

theorem test_wf_frame : LinkFrame.wf ⟨4095, 4095, false, some zeroPkt, 0⟩ = true ∧ LinkFrame.wf ⟨4096, 0, false, none, 0⟩ = false ∧
    LinkFrame.wf ⟨0, 4096, false, none, 0⟩ = false ∧
    LinkFrame.wf ⟨0, 0, false, some { zeroPkt with job := 64 }, 0⟩ = false := by decide +kernel

theorem test_wf_refused : [Instr.registerWrite .hostA (2 ^ 48) 4 0, .registerWrite .hostA 0 3 0, .readLowWord .hostA 2,
    .readLowWord .hostA (2 ^ 48), .readClear .hostA 1, .readClear .hostA (2 ^ 48), .writeHighWord .hostA 2 0,
    .writeHighWord .hostA (2 ^ 48) 0, .queueRingConfigWrite .hostA 2 0, .queueRingConfigWrite .hostA (2 ^ 48) 0,
    .stackTempSample 0 2048, .thermalTrip 0 (-2049), .cdieThermalStepDown 0 2048, .cdieThermalStepUp 0 (-2049),
    .memRead 0 0 0 .keep .clean false, .memRead 0 1 256 .keep .clean false, .memRead 0 (2 ^ 48) 1 .keep .clean false,
    .memWrite 0 0 [] .keep false, .memWrite 0 255 [1, 2] .keep false, .memAdd 0 0 1 [] false,
    .patrolScrub 0 (1597440 * 1024) .clean, .portTrainingDone 0 0 (2 ^ 18) 0, .portTrainingDone 0 0 0 256,
    .laneFail 0 0 18 0, .laneFail 0 0 0 3, .linkFrameReceive 0 0 ⟨4096, 0, false, none, 0⟩, .stackPageTest 0 25165824,
    .bar0Request 0 false (2 ^ 23) 4 [], .bar0Request 0 false 0 0 [], .bar0Request 0 true 0 4 [1],
    .bar2Request 0 false (2 ^ 41) 4 [] false, .bar2Request 0 false 0 0 [] false, .bar2Request 0 false 0 4097 [] false,
    .bar2Request 0 true 0 4 [1] false, .bar4Request 0 false (2 ^ 24) 4 [], .bar4Request 0 false 0 0 [],
    .bar4Request 0 true 0 4 [1], .hostWindowReadCompletion 0 (2 ^ 64) [1] true, .hostWindowReadCompletion 0 0 [] true,
    .msixEntryUnmask 0 130, .entdaa 128, .mctpControl ⟨128, []⟩, .getCertificate 8 0 0, .challenge 8 (List.replicate 32 0),
    .challenge 0 [], .getMeasurements 256 (List.replicate 32 0), .getMeasurements 0 [], .regulatorPhaseFail 2 16,
    .regulatorPhaseFail 0 24, .configurationRequest 0 false 4096 0, .configurationRequest 0 false 2 0,
    .hostLinkUp 0 0 16 false, .hostLinkUp 0 7 16 false, .hostLinkUp 0 6 12 false].all (fun c => !c.wf) = true := by
  decide +kernel

theorem test_wf_taken : [Instr.registerWrite .hostA (2 ^ 48 - 1) 1 0, .readLowWord .hostA (2 ^ 48 - 4), .stackTempSample 0 2047,
    .thermalTrip 0 (-2048), .memRead 0 (2 ^ 48 - 256) 256 .keep .clean false, .patrolScrub 0 (1597440 * 1024 - 1) .clean,
    .portTrainingDone 0 0 (2 ^ 18 - 1) 255, .laneFail 0 0 17 2, .stackPageTest 0 25165823,
    .bar0Request 0 true (2 ^ 23 - 1) 1 [1], .bar2Request 0 false 0 4096 [] false, .msixEntryUnmask 0 129, .entdaa 127,
    .regulatorPhaseFail 2 15, .regulatorPhaseFail 0 23, .configurationRequest 0 false 4092 0, .hostLinkUp 0 6 4 false,
    .getMeasurements 255 (List.replicate 32 0)].all Instr.wf = true := by decide +kernel

/-- No row of the table gives bits, so no word spells a command and a word put in front changes nothing. -/
theorem test_decode : decodeTableWord 8 0x10 = none ∧ (live.withFetchWord 8 0x10).pending = [] := by decide +kernel

/-! ### Queues and control commands -/

theorem wit_enable : (opQueue { Reset.queue with log2 := 6, head := 5, tail := 5 }).Grants .hostA .operator ∧
    (∀ lg ∈ [6, 14, 20], ((opQueue { Reset.queue with log2 := lg }).queue 3 1).state = .disabled ∧
      ((opQueue { Reset.queue with log2 := lg }).queue 3 1).held = [] ∧
      ∃ r ∈ ((opQueue { Reset.queue with log2 := lg }).ctx 3).regions,
        r.base ≤ ((opQueue { Reset.queue with log2 := lg }).queue 3 1).base ∧
        ((opQueue { Reset.queue with log2 := lg }).queue 3 1).base + 2 ^ lg * 64 ≤ r.base + r.bytes) ∧
    (∀ lg ∈ [5, 21], ringOk ((opQueue { Reset.queue with log2 := lg }).ctx 3)
      ((opQueue { Reset.queue with log2 := lg }).queue 3 1) = false) ∧
    ((opQueue { Reset.queue with state := .draining }).queue 3 1).state = .draining :=
  ⟨⟨by decide +kernel, rfl, rfl, by decide +kernel⟩, by decide +kernel⟩

theorem test_enable :
    ((next (exec (.queueEnable .hostA 3 1) (opQueue { Reset.queue with log2 := 6, tail := 63 }))).queue 3 1).state = .admitting ∧
    ((next (exec (.queueEnable .hostA 3 1) (opQueue { Reset.queue with log2 := 5 }))).queue 3 1).state = .disabled ∧
    ((next (exec (.queueEnable .hostB 3 1) (opQueue { Reset.queue with log2 := 6 }))).queue 3 1).state = .disabled := by
  decide +kernel

/-- An ELEMENTWISE add of three descriptors at the bottom of stack 0, its SIGNAL adding 5 to entry 1. -/
def elem : List Byte := slot 0x20 0 3 8 1 0 0 0x541 [0x100, 0x140, 0x180] 1

theorem wit_drain : ((opQueue { running [elem] with state := .admitting }).queue 3 1).state ≠ .disabled ∧
    ((opQueue { Reset.queue with state := .draining }).queue 3 1).inflight = [] ∧
    ((opQueue { Reset.queue with state := .armed, head := 3, tail := 4 }).queue 3 1).admitPend = false ∧
    ((opQueue { Reset.queue with state := .armed, head := 3, tail := 4 }).queue 3 1).held = [] := by decide +kernel

theorem test_drain :
    ((next (exec (.queueDisable .hostA 3 1) (opQueue (running [elem])))).queue 3 1).held.length = 1 ∧
    ((next (exec (.queueDrainDone 3 1) (opQueue { Reset.queue with state := .draining }))).queue 3 1).state = .disabled ∧
    ((next (exec (.queueDrainDone 3 1) (opQueue { Reset.queue with state := .armed, head := 3, tail := 4 }))).queue 3 1).state =
      .admitting := by decide +kernel

def haltedQ : State := opQueue { running [elem, elem] with state := .halted, cause := 3 }

theorem wit_halted : haltedQ.Grants .hostA .operator ∧ (haltedQ.queue 3 1).state = .halted ∧
    (haltedQ.ctx 3).state ≠ .faulted ∧ (haltedQ.queue 3 1).curList.isSome = true ∧ (haltedQ.queue 3 1).cause ≠ 0x11 ∧
    (haltedQ.queue 3 1).held = ⟨elem, 0, none⟩ :: [⟨elem, 0, none⟩] ∧ (⟨elem, 0, none⟩ : HeldCmd).isEnd = false :=
  ⟨⟨by decide +kernel, rfl, rfl, by decide +kernel⟩, by decide +kernel⟩

theorem test_halted : ((next (exec (.queueResume .hostA 3 1) haltedQ)).queue 3 1).state = .active ∧
    ((next (exec (.queueSkip .hostA 3 1) haltedQ)).queue 3 1).held.length = 1 := by decide +kernel

def idleQ : State := opQueue { Reset.queue with state := .idle, log2 := 6, head := 5 }

theorem wit_doorbell : idleQ.access .hostA .operator = .audited ∧
    (63 : Word).field 19 0 < 2 ^ (idleQ.queue 3 1).log2 ∧ 2 ^ (idleQ.queue 3 1).log2 ≤ (64 : Word).field 19 0 ∧
    (idleQ.queue 3 1).curList = none ∧ (idleQ.queue 3 1).head ≠ (63 : Word).field 19 0 := by decide +kernel

theorem test_doorbell : ((next (exec (.doorbell .hostA 3 1 63) idleQ)).queue 3 1).tail = 63 ∧
    ((next (exec (.doorbell .hostA 3 1 63) idleQ)).queue 3 1).state = .admitting ∧
    ((next (exec (.doorbell .hostA 3 1 64) idleQ)).queue 3 1).tail = 0 := by decide +kernel

theorem wit_ringConfig : (opQueue Reset.queue).Grants .hostA .operator ∧
    regAt (regBase + 1082152 - regBase) = some (.qSize 3 1, false) ∧
    regAt (regBase + 1082156 - regBase) = some (.qHead 3 1, false) ∧ (regBase + 1082152) % 4 = 0 ∧
    (opQueue Reset.queue).pageHeld (regBase + 1082152 - regBase) = false ∧
    (opQueue Reset.queue).pageHeld (regBase + 1082156 - regBase) = false ∧
    ((opQueue Reset.queue).queue 3 1).state = .disabled ∧ (idleQ.queue 3 1).state ≠ .disabled :=
  ⟨⟨by decide +kernel, rfl, rfl, by decide +kernel⟩, by decide +kernel⟩

theorem test_ringConfig :
    ((next (exec (.queueRingConfigWrite .hostA (regBase + 1082152) 0x26) (opQueue Reset.queue))).queue 3 1).log2 = 6 ∧
    ((next (exec (.queueRingConfigWrite .hostA (regBase + 1082156) 0x300007) (opQueue Reset.queue))).queue 3 1).head = 7 := by
  decide +kernel

/-- The low word of the ring's address kept for host port A. -/
def baseLatched : State := (opQueue Reset.queue).modReq .hostA (fun q => { q with
  writeLatch := [(latchKey (.qBase 3 1) 1082144, 0x4000)] })

theorem wit_ringBase : regAt (regBase + 1082144 - regBase) = some (.qBase 3 1, false) ∧
    regAt (regBase + 1082148 - regBase) = some (.qBase 3 1, true) ∧
    latched (baseLatched.reqOf .hostA).writeLatch (latchKey (.qBase 3 1) (regBase + 1082148 - regBase - 4)) = some 0x4000 ∧
    baseLatched.pageHeld (regBase + 1082148 - regBase) = false := by decide +kernel

theorem test_ringBase :
    ((next (exec (.queueRingConfigWrite .hostA (regBase + 1082148) 2) baseLatched)).queue 3 1).base = 0x200004000 := by
  decide +kernel

/-- Context 3's vector ring at 0x1000 with its last slot waiting. -/
def fetching : State :=
  State.putDram (opQueue { running [] with head := 63, tail := 5 }) [(0x1000 + 64 * 63, elem)]

theorem wit_fetch : fetching.runs 3 = true ∧ (fetching.queue 3 1).state = .active ∧
    (fetching.queue 3 1).head ≠ (fetching.queue 3 1).tail ∧
    ((fetching.ctx 3).regionOf ((fetching.queue 3 1).base + 64 * ((fetching.queue 3 1).head % 2 ^ (fetching.queue 3 1).log2))
      64).isSome = true ∧
    (∃ g u, readMem fetching (some 3) ((fetching.queue 3 1).base + 64 * ((fetching.queue 3 1).head %
      2 ^ (fetching.queue 3 1).log2)) 64 .stream = (g, u) ∧ g.waits = false ∧ g.poison = false) ∧
    (fetching.queue 3 1).held = [] ∧ (fetching.queue 3 1).plain :=
  ⟨by decide +kernel, by decide +kernel, by decide +kernel, by decide +kernel, ⟨_, _, rfl, by decide +kernel,
    by decide +kernel⟩, by decide +kernel, rfl, rfl⟩

theorem test_fetch : ((next (exec (.commandFetch 3 1) fetching)).queue 3 1).head = 0 ∧
    ((next (exec (.commandFetch 3 1) fetching)).queue 3 1).held = [⟨elem, 63, none⟩] := by decide +kernel

/-- Two commands in flight, whole. -/
def flying : State := State.putQ (State.putCtx live 3 openCtx) 3 1 { running [] with
  inflight := [{ (default : Flight) with bytes := elem, fid := 5 }, { (default : Flight) with bytes := elem, fid := 6 }] }

theorem wit_complete : ∃ f, (flying.queue 3 1).inflight[1]? = some f ∧ f.shares = 0 ∧
    flying.farIdle 3 1 f.fid = true ∧ (flying.ctx 3).state = .opened ∧ f.amax = [] ∧ f.board = none ∧
    (Slot.imm f.bytes).testBit 28 = false ∧ Slot.event f.bytes = false ∧ (Slot.signal f.bytes).field 7 6 = 1 ∧
    (Slot.signal (slot 0 0 3 1 1 0 0 0x785 [] 0)).field 7 6 = 2 ∧ (Slot.signal (slot 0 0 3 1 1 0 0 5 [] 0)).field 7 6 = 0 :=
  ⟨_, rfl, by decide +kernel⟩

/-- R266: ADD 5 to entry 1, modulo 2^32; SET entry 5 to 7. -/
theorem test_complete : ((next (exec (.commandComplete 3 1 1) flying)).ctx 3).sb[1] = 5 ∧
    ((next (exec (.commandComplete 3 1 1) flying)).queue 3 1).inflight.length = 1 ∧
    ({ openCtx with sb := Vector.replicate 64 0xFFFFFFFE }.signalled elem).sb[1] = 3 ∧
    (openCtx.signalled (slot 0 0 3 1 1 0 0 0x785 [] 0)).sb[5] = 7 := by decide +kernel

/-- A well-formed slot of an opcode, with a WAIT and a SIGNAL adding 5 to entry 1; a collective's second
slot gives a timeout and a group of one module. -/
def slotOf (op wait : Nat) : List Byte :=
  match opSpec op with
  | none => []
  | some p =>
    let d := (List.range 5).map (fun k => if p.required.contains k then 0x100 + 64 * k else 0)
    if p.one then slot op 0 3 8 1 wait 0 0x541 d 0 else slot op 1 3 8 1 wait 0 0x541 d 0 ++
      (if op / 16 = 4 then leBytes 8 (2 ^ 32) ++ [0, 0, 1, 1, 1] else List.replicate 13 0) ++ List.replicate 51 0

/-- Context 3 with one slot of an opcode in an engine's queue. -/
def oneCmd (e : EngIx) (b : List Byte) : State := State.putQ (State.putCtx live 3 openCtx) 3 e (running [b])

/-- Scoreboard entry 5 is waited for to reach 1. -/
theorem wit_waits : (engineCommands 3).all (fun x =>
    let b := slotOf x.2.2.1 0x145
    let s := oneCmd x.2.1 b
    s.runs 3 && (s.queue 3 x.2.1).state == .active && (s.queue 3 x.2.1).held == [⟨b, 0, none⟩] &&
    (⟨b, 0, none⟩ : HeldCmd).whole && s.issued 3 x.2.1 && (s.queue 3 x.2.1).curList.isSome && !opcodeRefused x.2.1.val b &&
    Slot.jobOf b == 3 && opcodeOf b == x.2.2.1 && !Slot.fence b && !waitMet (s.ctx 3) b) = true := by decide +kernel

/-- A command with FENCE behind one in flight. -/
def fenced : List Byte := slot 0x20 4 3 8 1 0 0 0x541 [0x100, 0x140, 0x180] 1
def fenceBehind : State := State.putQ (State.putCtx live 3 openCtx) 3 1 { running [fenced] with
  inflight := [{ (default : Flight) with bytes := elem, fid := 5 }] }

theorem wit_fenceFlag : Slot.fence fenced = true ∧ (fenceBehind.queue 3 1).inflight ≠ [] ∧ opcodeRefused 1 fenced = false ∧
    (fenceBehind.queue 3 1).held.head? = some ⟨fenced, 0, none⟩ ∧ opcodeOf fenced = 0x20 ∧ fenceBehind.issued 3 1 = true := by
  decide +kernel

def waited : State := { State.putQ (State.putCtx live 3 { openCtx with sb := Vector.replicate 64 9 }) 3 1
  { running [slotOf 0x20 0x145] with state := .waiting, waitSince := some (5, 4) } with tick := 10 }

theorem wit_waitMet : (waited.queue 3 1).state = .waiting ∧
    (waited.queue 3 1).held.head? = some ⟨slotOf 0x20 0x145, 0, none⟩ ∧
    waitMet (waited.ctx 3) (slotOf 0x20 0x145) = true ∧ (waited.queue 3 1).waitSince = some (5, 4) ∧
    (waited.queue 3 1).lists = [admitted 1] ∧ (waited.queue 3 1).curList = some (admitted 1).lid ∧
    (admitted 1).accounts.length = 6 := by decide +kernel

theorem test_waits : ((next (exec (.elementwise 3) (oneCmd 1 (slotOf 0x20 0x145)))).queue 3 1).state = .waiting ∧
    ((next (exec (.commandWaitMet 3 1) waited)).queue 3 1).state = .active ∧
    ((next (exec (.commandWaitMet 3 1) waited)).queue 3 1).lists.map (·.accounts) = [[0, 0, 0, 0, 0, 264]] := by decide +kernel

/-- `State.FrontReady` as a test. -/
def frontReady (s : State) (j : JobIx) (e : EngIx) (op : Nat) (b : List Byte) : Bool :=
  s.runs j && (s.queue j e).state == .active &&
  (match (s.queue j e).held.head? with | some h => h.bytes == b && h.whole | none => false) && s.issued j e &&
  (s.queue j e).curList.isSome && !opcodeRefused e.val b && Slot.jobOf b == j.val && opcodeOf b == op &&
  ((s.queue j e).inflight == [] || (!Slot.fence b && op != 3)) && waitMet (s.ctx j) b

theorem frontReady_sound {s : State} {j : JobIx} {e : EngIx} {op : Nat} {b : List Byte} (h : frontReady s j e op b = true) :
    s.FrontReady j e op b := by
  simp only [frontReady, Bool.and_eq_true, Bool.or_eq_true, beq_iff_eq, bne_iff_ne, Bool.not_eq_true'] at h
  obtain ⟨⟨⟨⟨⟨⟨⟨⟨⟨h1, h2⟩, h3⟩, h4⟩, h5⟩, h6⟩, h7⟩, h8⟩, h9⟩, h10⟩ := h
  refine ⟨h1, .inl h2, ?_, h4, h5, h6, h7, h8, fun x => h9.elim id (fun y => by simp_all), h10⟩
  split at h3
  · rename_i x hx
    simp only [Bool.and_eq_true, beq_iff_eq] at h3
    exact ⟨x, hx, h3.1, h3.2⟩
  · cases h3

def nopS : List Byte := slot 0 0 3 8 1 0 0 0x541 [] 0
def headS : List Byte := slot 1 0 3 8 1 0 0 0x541 [] 0
def branchS : List Byte := slot 3 0 3 8 1 0 0 0x541 [] 5
def chainS : List Byte := slot 2 0 3 8 1 0 0 0x541 [0x2000] 2

theorem wit_control : (oneCmd 1 nopS).FrontReady 3 1 0 nopS ∧ (oneCmd 1 headS).FrontReady 3 1 1 headS ∧
    (oneCmd 1 branchS).FrontReady 3 1 3 branchS ∧ predHolds ((oneCmd 1 branchS).ctx 3) branchS = true ∧
    ((oneCmd 1 branchS).queue 3 1).held = [⟨branchS, 0, none⟩] ∧ (⟨branchS, 0, none⟩ : HeldCmd).isEnd = false ∧
    ((oneCmd 1 branchS).queue 3 1).plain ∧ Slot.event branchS = false ∧ Slot.event nopS = false ∧
    Slot.event headS = false ∧ (⟨headS, 0, none⟩ : HeldCmd).isHead = true :=
  ⟨frontReady_sound (by decide +kernel), frontReady_sound (by decide +kernel), frontReady_sound (by decide +kernel),
    by decide +kernel, by decide +kernel, by decide +kernel, ⟨rfl, rfl⟩, by decide +kernel, by decide +kernel,
    by decide +kernel, by decide +kernel⟩

def unheaded : State := State.putQ (State.putCtx live 3 openCtx) 3 1 { running [headS] with curList := none, state := .idle }

theorem wit_listHead : unheaded.runs 3 = true ∧ (unheaded.queue 3 1).curList = none ∧ (unheaded.queue 3 1).state = .idle ∧
    (unheaded.queue 3 1).held.head? = some ⟨headS, 0, none⟩ := by decide +kernel

theorem test_control : ((next (exec (.nop 3 1) (oneCmd 1 nopS))).ctx 3).sb[1] = 5 ∧
    ((next (exec (.listHead 3 1) unheaded)).queue 3 1).state = .admitting ∧
    ((next (exec (.branch 3 1) (oneCmd 1 branchS))).queue 3 1).skipLeft = 5 := by decide +kernel

def chaining : State := State.putDram (oneCmd 1 chainS) [(0x2000, elem), (0x2040, nopS)]

theorem wit_chain : chaining.FrontReady 3 1 2 chainS ∧ predHolds (chaining.ctx 3) chainS = true ∧
    (chaining.queue 3 1).held = [⟨chainS, 0, none⟩] ∧ (⟨chainS, 0, none⟩ : HeldCmd).isEnd = false ∧
    (chaining.queue 3 1).plain ∧ Slot.event chainS = false ∧ bitsOf (Slot.imm chainS) 23 0 ≠ 0 ∧
    Slot.d chainS 0 % 64 = 0 ∧ ((chaining.ctx 3).regionOf (Slot.d chainS 0) (64 * bitsOf (Slot.imm chainS) 23 0)).isSome = true ∧
    (match State.readRun 3 (Slot.d chainS 0) (bitsOf (Slot.imm chainS) 23 0) 0
      (chaining.modQ 3 1 (fun q => q.resumeAt chaining.tick 0)) [] with
      | some (.ok _) => true | _ => false) = true :=
  ⟨frontReady_sound (by decide +kernel), by decide +kernel, by decide +kernel, by decide +kernel, ⟨rfl, rfl⟩,
    by decide +kernel, by decide +kernel, by decide +kernel, by decide +kernel, by decide +kernel⟩

theorem test_chain : ((next (exec (.chain 3 1) chaining)).queue 3 1).held.map (·.bytes) = [elem, nopS] := by decide +kernel

/-! ### Commands of the engines -/

/-- One command, with descriptors and values at the bottom of stack 0. -/
def engine (e : EngIx) (b : List Byte) (dram : List (Nat × List Byte)) : State := State.putDram (oneCmd e b) dram

/-- Three FP32 tensors of four elements: 1, 2, 0, 0; 1, 1, 0, 0; zeros. -/
def four : List (Nat × List Byte) :=
  [(0x100, desc 0x400 1 4 []), (0x140, desc 0x440 1 4 []), (0x180, desc 0x480 1 4 []),
   (0x400, leBytes 4 0x3F800000 ++ leBytes 4 0x40000000), (0x440, leBytes 4 0x3F800000 ++ leBytes 4 0x3F800000)]

def addS : List Byte := slot 0x20 0 3 7 1 0 0 0x541 [0x100, 0x140, 0x180] 1
def adding : State := engine 1 addS four

/-- Bytes of a command's second slot, at their places. -/
def extOf (x : List (Nat × List Byte)) : List Byte :=
  x.foldl (fun l p => l.take p.1 ++ p.2 ++ l.drop (p.1 + p.2.length)) (List.replicate 64 0)

/-- A MATMUL of one row and one column over 32 E4M3 elements, of which the first pair is 1 · 1 and B's others are 0. -/
def matS : List Byte := slot 0x10 0 3 7 1 0 0 0x541 [0x100, 0x140, 0x180, 0, 0x1C0] 0
def matX : State := (engine 0 matS
  [(0x100, desc 0x400 3 32 [(1, 32)]), (0x140, desc 0x440 3 32 [(1, 64)] (2 ^ 53)), (0x180, desc 0x480 1 1 [(1, 4)]),
   (0x1C0, desc 0x4C0 0x10 4 []), (0x400, [0x38, 0x38]), (0x440, [0x38])]).modCtx 3 (fun c =>
    { c with regions := c.regions ++ [⟨0x08 * 2 ^ 40, 32, 2, 0, true⟩] })

/-- A sparse UPD_MOMENTUM whose count is 0. -/
def updS : List Byte := slot 0x50 1 3 7 1 0 0 0x541 [0x100, 0x140, 0x180, 0x1C0] 0 ++
  extOf [(44, leBytes 6 0x600), (50, leBytes 6 0x200), (56, leBytes 6 0x640)]
def updX : State := engine 4 updS
  [(0x100, desc 0x400 2 4 []), (0x140, desc 0x440 0x12 4 []), (0x180, desc 0x480 1 4 []), (0x1C0, desc 0x4C0 1 4 []),
   (0x200, desc 0x500 0x10 4 [])]

/-- An ALL_GATHER of a group of one rank. -/
def agS : List Byte := slot 0x42 1 3 7 1 0 0 0x541 [0x100, 0x140] 0 ++ extOf [(4, [1]), (10, [1, 1, 1])]
def agX : State := (engine 3 agS four).modCtx 3 (fun c => { c with rankCfg := 1 })

def begins (b : Begin) : Bool := match b with | .starts .. => true | _ => false

/-- Every engine's commands stand ready at the front, with a predicate that holds and with one that does not. -/
theorem wit_engines : (engineCommands 3).all (fun x =>
    let b := slotOf x.2.2.1 0
    let n := b.take 16 ++ leBytes 4 0x90045 ++ b.drop 20
    frontReady (oneCmd x.2.1 b) 3 x.2.1 x.2.2.1 b && predHolds ((oneCmd x.2.1 b).ctx 3) b &&
    frontReady (oneCmd x.2.1 n) 3 x.2.1 x.2.2.1 n && !predHolds ((oneCmd x.2.1 n).ctx 3) n && !Slot.event n &&
    ((oneCmd x.2.1 n).queue 3 x.2.1).skipLeft == 0 && !((oneCmd x.2.1 n).queue 3 x.2.1).skipHead) = true := by
  decide +kernel

theorem wit_starts : begins (State.vector 3 adding addS 0) = true ∧ begins (State.matmul 3 matX matS 0) = true := by
  decide +kernel

/-- 1 + 1 = 2 and 2 + 1 = 3; the command is in flight. -/
theorem test_add : ((next (exec (.elementwise 3) adding)).mem.dram.readN 0x480 8) =
    leBytes 4 0x40000000 ++ leBytes 4 0x40400000 ∧
    ((next (exec (.elementwise 3) adding)).queue 3 1).inflight.map (·.fid) = [0] := by decide +kernel

theorem wit_units : begins (State.update 3 updX updS 0) = true ∧ begins (State.collective 3 agX agS 0) = true ∧
    (next (exec (.allGather 3) agX)).channelBusy 3 agS = true := by decide +kernel

/-- The MATMUL put before the tiles, its pass taken by tile 0. -/
def passing : State :=
  let s := next (exec (.matmul 3) matX)
  { s with passes := s.passes.map (fun p => { p with tile := some 0 }) }
def onePass : PassWork := passing.passes.headD default
def matFlight : Flight := (passing.flight 3 0 0).getD default
def passEnv : Env := { envOf passing 3 matFlight.bytes 0 with
  gen := matFlight.genOf (passing.ctx 3).seed (unitId 1 0 1 0), die := 0 }
def onePassed : Attempt × Env :=
  let m := Mat.of matFlight.bytes matFlight.ops
  (Eng.pass m 0 0 (passing.blocks.headD default) onePass ((passing.cdies[0]).loomCtrl.bit 1)).run passEnv

theorem wit_pass : nthWhere (fun q => q.die == 0 && q.repeats == 0) 0 passing.passes = some onePass ∧
    passing.runs 3 = true ∧ (passing.cdies[0]).loomRuns = true ∧ (passing.cdies[0]).tiles[0].role = .service ∧
    (passing.cdies[0]).tiles[0].state.takes = true ∧ onePass.tile = some 0 ∧ passing.inOrder onePass = true ∧
    passing.tileFree 0 0 onePass = true ∧ passing.partialRevoked onePass = false ∧ passing.placeFree onePass = true ∧
    (passing.flight 3 0 0).isSome = true ∧ passing.blockOf onePass = some (passing.blocks.headD default) := by
  decide +kernel

theorem wit_passes : onePassed.2.settled ∧ onePassed.1.added = true ∧
    passing.isNext { onePass with tile := none } = true := by decide +kernel

/-- The same block before its only tiles, which are gated, and before one that wakes. -/
def gated : State := passing.modCDie 0 (fun c => { c with tiles := c.tiles.map (fun (t : Tile) => { t with state := .off }) })
def wakingX : State := gated.modTile 0 0 (fun t => { t with state := .waking })

theorem wit_gated : (gated.cdies[0]).tiles[0].state = .off ∧ gated.awakeFor 0 onePass = false ∧
    gated.tileFree 0 0 onePass = true ∧ gated.placeFree onePass = true ∧ gated.inOrder onePass = true ∧
    (wakingX.cdies[0]).tiles[0].state = .waking ∧ wakingX.tileFree 0 0 onePass = true ∧
    wakingX.placeFree onePass = true := by decide +kernel

/-- The block with its one pass added, and no tile. -/
def finishing : State :=
  let s := next (exec (.loomPass 0 0 0) passing)
  { s with blocks := s.blocks.map (fun x => { x with tile := none }) }
def finFlight : Flight := (finishing.flight 3 0 0).getD default
def oneFinish : (List LoomFlags × Nat) × Env :=
  let m := Mat.of finFlight.bytes finFlight.ops
  (Eng.finish m 0 [finishing.blocks.headD default]).run { envOf finishing 3 finFlight.bytes 0 with
    gen := finFlight.genOf (finishing.ctx 3).seed (unitId 1 0 1 0), die := 0, amax := finFlight.amax }

theorem wit_finish : nthWhere (fun y => y.die == 0 && y.arrived == y.passes && !y.finished) 0 finishing.blocks =
      some (finishing.blocks.headD default) ∧ finishing.runs 3 = true ∧ (finishing.cdies[0]).loomRuns = true ∧
    (finishing.cdies[0]).tiles[0].role = .service ∧ (finishing.cdies[0]).tiles[0].state.takes = true ∧
    (finishing.blocks.headD default).tile = none ∧ (finishing.flight 3 0 0).isSome = true ∧
    (Mat.of finFlight.bytes finFlight.ops).banded = false ∧ oneFinish.2.settled := by
  decide +kernel

/-- Two blocks of one band of rows, of which one waits for the other. -/
def banding : State :=
  let x := finishing.blocks.headD default
  { finishing with blocks := [x, { x with idx := 1, arrived := 0 }] }

theorem wit_band : ∃ y ∈ banding.bandOf (finishing.blocks.headD default),
    y.idx ≠ (finishing.blocks.headD default).idx ∧ y.finished = false :=
  ⟨(banding.blocks.getD 1 default), by decide +kernel, by decide +kernel, by decide +kernel⟩

/-- 1 · 1, summed with zeros, is 1. -/
theorem test_matmul : (next (exec (.blockFinish 0 0 0) finishing)).mem.dram.readN 0x480 4 = leBytes 4 0x3F800000 ∧
    (next (exec (.blockFinish 0 0 0) finishing)).blocks = [] := by decide +kernel

/-- C-die 0 with a hysteresis of 3 ticks; its tiles have been IDLE since tick 0. -/
def resting (tick : Nat) : State :=
  { live with tick := tick }.modCDie 0 (fun c => { c with loomCtrl := 0x301 })

theorem wit_tiles : ((live.modTile 0 1 (fun x => { x with state := .waking })).cdies[0]).tiles[1].state = .waking ∧
    ((resting 3).cdies[0]).tiles[0].state = .idle ∧ ((resting 3).cdies[0]).loomCtrl.bit 0 = true ∧
    ((resting 3).cdies[0]).tiles[0].idleSince + ((resting 3).cdies[0]).loomCtrl.field 23 8 = (resting 3).tick ∧
    ((live.modCDie 0 (fun c => { c with loomCtrl := 0 })).cdies[0]).loomCtrl.bit 0 = false := by decide +kernel

theorem test_tiles : ((next (exec (.tileGate 0 0) (resting 3))).cdies[0]).tiles[0].state = .off ∧
    ((next (exec (.tileGate 0 0) (resting 2))).cdies[0]).tiles[0].state = .idle ∧
    ((next (exec (.tileGate 0 0) (resting 3))).cdies[0]).tiles[1].state = .idle := by decide +kernel

/-- LIMIT 2, windows of 2^4 ticks, EXTRA 1; three repeats counted in the window that began at tick 0. -/
def stormy (limit : Nat) : State :=
  { (State.putCtx live 3 { openCtx with stormCfg := BitVec.ofNat 32 (limit + 4 * 2 ^ 16 + 2 ^ 24), stormEnd := 9 }) with
    tick := 16 }.modCDie 0 (fun c => { c with ctxs := c.ctxs.set 3 { c.ctxs[3] with winCount := 3, winStep := 7 } })

theorem wit_storm : ((stormy 2).ctx 3).stormCfg.field 31 24 ≠ 0 ∧ ((stormy 2).cdies[0]).ctxs[3].tripped = false ∧
    ((stormy 2).ctx 3).stormCfg.field 15 0 < ((stormy 2).cdies[0]).ctxs[3].winCount ∧
    ((stormy 2).cdies[0]).ctxs[3].winStart / 2 ^ ((stormy 2).ctx 3).stormCfg.field 20 16 <
      (stormy 2).tick / 2 ^ ((stormy 2).ctx 3).stormCfg.field 20 16 := by decide +kernel

/-- R154: the storm covers at least the step of the repeat plus EXTRA, and no trip comes at the limit itself. -/
theorem test_storm : ((next (exec (.stormTrip 0 3) (stormy 2))).ctx 3).stormEnd = 9 ∧
    ((next (exec (.stormTrip 0 3) (stormy 2))).ctx 3).stormStat.bit 31 = true ∧
    ((next (exec (.stormTrip 0 3) (stormy 3))).ctx 3).stormStat.bit 31 = false ∧
    ((next (exec (.stormWindowEnd 0 3) (stormy 2))).cdies[0]).ctxs[3].winCount = 0 := by decide +kernel

/-- A factored update of no tiles, its first phase done on every S-die. -/
def factored : State :=
  let g : Desc := { (default : Desc) with ndim := 3, exts := [1, 1, 0] }
  let f : Flight := { (default : Flight) with bytes := slotOf 0x52 0, ops := [none, none, some ⟨g, false, 0⟩], shares := 1 }
  { State.putQ (State.putCtx live 3 openCtx) 3 4 { Reset.queue with inflight := [f] } with cpr := some ⟨3, 0, 0x52, 0, []⟩ }
def factoredFlight : Flight := (factored.flight 3 4 0).getD default
def onePhase : Env :=
  ((Eng.updPhase (Upd.of factoredFlight.bytes factoredFlight.ops) 1).run (envOf factored 3 factoredFlight.bytes 0)).2

theorem wit_phase : factored.cpr = some ⟨3, 0, 0x52, 0, []⟩ ∧ (factored.flight 3 4 0).isSome = true ∧
    factored.runs 3 = true ∧ factored.sdies.all (fun d => !d.held && d.cprEng.goes) = true ∧ onePhase.waits = false ∧
    onePhase.stop = none := by decide +kernel

theorem test_phase : (next (exec (.cooperPhaseAdvance 3) factored)).cpr = some ⟨3, 0, 0x52, 1, []⟩ := by decide +kernel
theorem pairOf {α β : Type} (p : α × β) : p = (p.1, p.2) := rfl
theorem pairOf' {α β γ : Type} (p : (α × β) × γ) : p = ((p.1.1, p.1.2), p.2) := rfl
theorem endOf {α γ : Type} {p : α × Option γ} (h : p.2.isNone = true) : p = (p.1, none) := by
  rw [Option.isNone_iff_eq_none] at h; rw [← h]
theorem unitOf {β γ : Type} {p : Unit × β × Option γ} (h : p.2.2.isNone = true) : p = ((), p.2.1, none) := by
  rw [Option.isNone_iff_eq_none] at h; rw [← h]
theorem tripleOf {α β γ δ : Type} (p : (α × β × γ) × δ) : p = ((p.1.1, p.1.2.1, p.1.2.2), p.2) := rfl
theorem runOf {α β γ : Type} {p : α × β × Option γ} (h : p.2.2.isNone = true) : p = (p.1, p.2.1, none) := by
  rw [Option.isNone_iff_eq_none] at h; rw [← h]


/-- The C-dies that the front command's engine takes for it; none for a collective or an update. -/
def diesFor (s : State) (j : JobIx) (e : EngIx) (b : List Byte) : List CIx :=
  if e.val < 3 then (s.begins j e b).diesOf j e b else []

/-- What the operands of the front command read as, and the state after. -/
def decoded (s : State) (j : JobIx) (e : EngIx) (b : List Byte) (uses : List (Nat × Use)) :
    (List (Option Desc) × List (Nat × Nat)) × Env :=
  (Eng.operands ((s.begins j e b).ctx j) uses).run (envOf (s.begins j e b) j b (s.ctx j).nextFid)

/-- `State.Passes` as a test of the operands read. -/
def passes (s : State) (j : JobIx) (e : EngIx) (op : Nat) (b : List Byte) (uses : List (Nat × Use))
    (own : State → List (Option Desc) → List (Nat × Nat)) : Bool :=
  frontReady s j e op b && predHolds (s.ctx j) b && (decide (3 ≤ e.val) || diesFor s j e b != []) &&
  !(s.begins j e b).overtaken j e (diesFor s j e b) && !((s.begins j e b).ctx j).staleStep (cmdStep b) &&
  (decoded s j e b uses).1.2 == [] && !(decoded s j e b uses).2.waits && (decoded s j e b uses).2.stop.isNone &&
  own (decoded s j e b uses).2.s (decoded s j e b uses).1.1 == []

theorem passes_sound {s : State} {j : JobIx} {e : EngIx} {op : Nat} {b : List Byte} {uses : List (Nat × Use)}
    {own : State → List (Option Desc) → List (Nat × Nat)} (h : passes s j e op b uses own = true) :
    s.Passes j e op b (diesFor s j e b) uses own (decoded s j e b uses).1.1 (decoded s j e b uses).2.s := by
  simp only [passes, Bool.and_eq_true, Bool.or_eq_true, beq_iff_eq, bne_iff_ne, Bool.not_eq_true', decide_eq_true_eq,
    Option.isNone_iff_eq_none] at h
  obtain ⟨⟨⟨⟨⟨⟨⟨⟨h1, h2⟩, h3⟩, h4⟩, h5⟩, h6⟩, h7⟩, h8⟩, h9⟩ := h
  refine ⟨frontReady_sound h1, h2, ?_, h4, h5, _, Prod.ext (Prod.ext rfl h6) rfl, ⟨h7, h8⟩, rfl, h9⟩
  split
  · exact ⟨by simp [diesFor, *], h3.resolve_left (by omega)⟩
  · simp [diesFor, *]

theorem wit_vector : ∃ (dies : List CIx) (ds : List (Option Desc)) (p : VecPlan) (u r : State) (row : Bool) (vi : VecIn)
    (w x : Env), p = vecPlan addS ds ∧
    adding.Passes 3 1 0x20 addS dies (vecUses addS) (fun _ ds => vecChecks addS (vecPlan addS ds)) ds u ∧
    u.fixRow 3 (cmdStep addS) = (row, r) ∧ p.x.empty = false ∧ p.o.empty = false ∧
    (Eng.vecIn addS p row).run (envOf r 3 addS 0) = (vi, w) ∧ w.settled ∧
    runWhole 1 3 vuUnits (rowItems vi.o) (fun n l => Eng.items l (Eng.vecItem addS vi n)) (fun _ => CDie.wakeVec) dies
      (envOf w.s 3 addS 0) = (x, none) ∧ x.waits = false :=
  ⟨_, _, _, _, _, _, _, _, _, rfl, passes_sound (by decide +kernel), pairOf _, by decide +kernel, by decide +kernel, pairOf _,
    ⟨by decide +kernel, by decide +kernel⟩, endOf (by decide +kernel), by decide +kernel⟩

/-- A ROUTE_TOPK of one row of two experts, of which it takes one. -/
def topS : List Byte := slot 0x24 0 3 7 1 0 0 0x541 [0x100, 0, 0x140, 0x180] 1
def topX : State := engine 1 topS
  [(0x100, desc 0x400 1 2 []), (0x140, desc 0x440 0x10 1 []), (0x180, desc 0x480 1 1 []), (0x400, leBytes 8 0x3F800000)]

theorem wit_topk : ∃ (dies : List CIx) (ds : List (Option Desc)) (p : VecPlan) (u r : State) (row : Bool) (x : Env),
    p = vecPlan topS ds ∧
    topX.Passes 3 1 0x24 topS dies (vecUses topS) (fun _ ds => vecChecks topS (vecPlan topS ds)) ds u ∧
    u.fixRow 3 (cmdStep topS) = (row, r) ∧ p.x.empty = false ∧ p.o.empty = false ∧
    runWhole 1 3 vuUnits ((List.range p.x.rows).map p.x.coords) (fun _ l => Eng.items l (Eng.routeItem topS p row))
      (fun _ => CDie.wakeVec) dies (envOf r 3 topS 0) = (x, none) ∧ x.waits = false :=
  ⟨_, _, _, _, _, _, _, rfl, passes_sound (by decide +kernel), pairOf _, by decide +kernel, by decide +kernel,
    endOf (by decide +kernel), by decide +kernel⟩

/-- The same sum with nothing to write. -/
def noneX : State := engine 1 addS [(0x100, desc 0x400 1 0 []), (0x140, desc 0x440 1 0 []), (0x180, desc 0x480 1 0 [])]

theorem wit_vecEmpty : ∃ (dies : List CIx) (ds : List (Option Desc)) (u r : State) (row : Bool),
    noneX.Passes 3 1 0x20 addS dies (vecUses addS) (fun _ ds => vecChecks addS (vecPlan addS ds)) ds u ∧
    u.fixRow 3 (cmdStep addS) = (row, r) ∧ (vecPlan addS ds).x.empty = true :=
  ⟨_, _, _, _, _, passes_sound (by decide +kernel), pairOf _, by decide +kernel⟩

def copyS : List Byte := slot 0x30 0 3 7 1 0 0 0x541 [0x100, 0x180] 0
def copyX : State := engine 2 copyS four

theorem wit_copy : ∃ (dies : List CIx) (ds : List (Option Desc)) (u r : State) (row : Bool) (cc : CopyCmd)
    (snap : List HeldRow) (w z : Env),
    copyX.Passes 3 2 0x30 copyS dies (copyUses copyS)
      (fun _ ds => copyOwn (operand ds 0) (operand ds 1) (ds.getD 2 none)) ds u ∧
    u.fixRow 3 (cmdStep copyS) = (row, r) ∧ (operand ds 1).empty = false ∧
    overlapOf ((copyX.begins 3 2 copyS).ctx 3) (operand ds 0) (operand ds 1) (ds.getD 2 none) (firstDie dies) = .no ∧
    (Eng.copyPrep copyS row .no (operand ds 0) (operand ds 1) (ds.getD 2 none)).run (envOf r 3 copyS 0) = ((cc, snap), w) ∧
    w.settled ∧ copyRun .no cc snap (operand ds 1) dies
      (envOf (w.staged .no (firstDie dies) (operand ds 0) (ds.getD 2 none)).s 3 copyS 0) = (z, none) ∧ z.waits = false :=
  ⟨_, _, _, _, _, _, _, _, _, passes_sound (by decide +kernel), pairOf _, by decide +kernel, by decide +kernel,
    pairOf' _, ⟨by decide +kernel, by decide +kernel⟩, endOf (by decide +kernel), by decide +kernel⟩

/-- A WINDOW of two places, one element of padding, over two rows of four bytes. -/
def windowS : List Byte := slot 0x31 0 3 7 1 0 0 0x541 [0x100, 0x140] (2 + 16 + 65536)
def windowX : State := engine 2 windowS
  [(0x100, desc 0x400 0x12 4 [(2, 1)]), (0x140, desc 0x480 0x12 4 [(2, 1), (2, 2)]), (0x400, [1, 2, 3, 4])]

theorem wit_window : ∃ (dies : List CIx) (ds : List (Option Desc)) (u r : State) (row : Bool) (xs ys : Scaled) (w z : Env),
    windowX.Passes 3 2 0x31 windowS dies (windowUses windowS) (fun _ ds => oneDie windowS ++
      windowChecks (operand ds 0) (operand ds 1) (spatials windowS) (windowX.begins 3 2 windowS).cdies[firstDie dies]) ds u ∧
    u.fixRow 3 (cmdStep windowS) = (row, r) ∧ (operand ds 1).empty = false ∧
    rangesMeet (footprint (operand ds 0)) (footprint (operand ds 1)) = false ∧ windowUnits r.cdies[firstDie dies] ≠ [] ∧
    (Eng.scaledPair windowS row (operand ds 0) (operand ds 1)).run (envOf r 3 windowS 0) = ((xs, ys), w) ∧ w.settled ∧
    windowRun windowS xs ys (firstDie dies) (envOf w.s 3 windowS 0) = (z, none) ∧ z.waits = false :=
  ⟨_, _, _, _, _, _, _, _, _, passes_sound (by decide +kernel), pairOf _, by decide +kernel, by decide +kernel,
    by decide +kernel, pairOf' _, ⟨by decide +kernel, by decide +kernel⟩, endOf (by decide +kernel), by decide +kernel⟩

/-- Three rows gathered: rows 1, 0 and 0 of two. -/
def gatherS : List Byte := slot 0x32 0 3 7 1 0 0 0x541 [0x100, 0x140, 0x180] 0
def gatherX : State := engine 2 gatherS
  [(0x100, desc 0x400 1 4 [(2, 1)]), (0x140, desc 0x480 1 4 [(3, 1)]), (0x180, desc 0x600 0x10 3 []),
   (0x400, [1, 2, 3, 4, 5, 6, 7, 8]), (0x600, leBytes 4 1)]

theorem wit_indexed : ∃ (dies : List CIx) (ds : List (Option Desc)) (x : Indexed) (u r : State) (rows : Option (List Nat))
    (n : Nat) (v : Env) (row : Bool) (src dst : Scaled) (w z : Env), x = indexedOf gatherS ds ∧
    gatherX.Passes 3 2 0x32 gatherS dies (indexedUses gatherS)
      (fun _ ds => indexedOwn ((gatherX.begins 3 2 gatherS).ctx 3) gatherS ds) ds u ∧
    (Eng.indexedPrep gatherS ds).run (envOf u 3 gatherS 0) = ((rows, n), v) ∧ v.settled ∧ x.short gatherS n = false ∧
    v.s.fixRow 3 (cmdStep gatherS) = (row, r) ∧ x.c.d.empty = false ∧
    (Eng.scaledPair gatherS row x.c.s x.c.d).run (envOf r 3 gatherS 0) = ((src, dst), w) ∧ w.settled ∧
    indexedRun { x with c := copyCmd 0x32 src dst, rows := rows } n dies (envOf w.s 3 gatherS 0) = (z, none) ∧
    z.waits = false :=
  ⟨_, _, _, _, _, _, _, _, _, _, _, _, _, rfl, passes_sound (by decide +kernel), pairOf' _,
    ⟨by decide +kernel, by decide +kernel⟩, by decide +kernel, pairOf _, by decide +kernel, rfl,
    ⟨by decide +kernel, by decide +kernel⟩, endOf (by decide +kernel), by decide +kernel⟩

/-- Two assignments to two experts. -/
def dispS : List Byte := slot 0x37 1 3 7 1 0 0 0x541 [0x100, 0x140, 0x180, 0x1C0, 0x200] (1 + 2 ^ 20) ++
  extOf [(0, leBytes 6 0x600)]
def dispX : State := engine 2 dispS
  [(0x100, desc 0x400 0x10 2 []), (0x140, desc 0x440 1 2 []), (0x180, desc 0x480 0x12 64 []), (0x1C0, desc 0x4C0 0x10 4 []),
   (0x200, desc 0x500 1 4 []), (0x400, leBytes 4 1)]

theorem wit_dispatch : ∃ (dies : List CIx) (ds : List (Option Desc)) (u r : State) (row : Bool) (n : Nat) (z : Env),
    dispX.Passes 3 2 0x37 dispS dies (dispatchUses dispS)
      (fun _ ds => dispatchOwn ((dispX.begins 3 2 dispS).ctx 3) dispS (dispatchOf dispS ds)) ds u ∧
    u.fixRow 3 (cmdStep dispS) = (row, r) ∧
    oneUnit (firstDie dies) dispS (Eng.dispatch (dispatchOf dispS ds)) (envOf r 3 dispS 0) = (n, z, none) ∧ z.waits = false :=
  ⟨_, _, _, _, _, _, _, passes_sound (by decide +kernel), pairOf _,
    runOf (by decide +kernel), by decide +kernel⟩

/-- Rows 1 and 0 of ten touched. -/
def touchS : List Byte := slot 0x38 1 3 7 1 0 0 0x541 [0x100, 0x140, 0x180, 0x600] (10 * 8) ++ extOf [(0, leBytes 6 0x1C0)]
def touchX : State := (engine 2 touchS
  [(0x100, desc 0x400 0x10 4 []), (0x140, desc 0x440 0x10 4 []), (0x180, desc (0x08 * 2 ^ 40) 0x12 64 []),
   (0x1C0, desc 0x4C0 0x10 2 []), (0x4C0, leBytes 4 1)]).modCtx 3 (fun c =>
    { c with regions := c.regions ++ [⟨0x08 * 2 ^ 40, 32, 2, 0, true⟩] })

theorem wit_touch : ∃ (dies : List CIx) (ds : List (Option Desc)) (x : TouchCmd) (u r : State) (row : Bool) (z : Env),
    x = touchOf touchS ds ∧ touchX.Passes 3 2 0x38 touchS dies (touchUses touchS)
      (fun _ ds => touchOwn ((touchX.begins 3 2 touchS).ctx 3) touchS (touchOf touchS ds)) ds u ∧
    u.fixRow 3 (cmdStep touchS) = (row, r) ∧
    oneUnit (firstDie dies) touchS (Eng.touchBuild x.touch x.slots x.ins x.bitmap x.e x.count)
      (envOf (r.grant 1 3 (unitId 1 (firstDie dies).val 2 0) 0 x.bitmap.base (x.bitmap.ext 0)) 3 touchS 0) = ((), z, none) ∧
    z.waits = false :=
  ⟨_, _, _, _, _, _, _, rfl, passes_sound (by decide +kernel), pairOf _,
    unitOf (by decide +kernel), by decide +kernel⟩

/-- What the engines do on those values: the row that leads into the window, the rows named, counts of kept and touched. -/
theorem test_engines :
    (next (exec (.window 3) windowX)).mem.dram.readN 0x4C0 4 = [1, 2, 3, 4] ∧
    (next (exec (.gather 3) gatherX)).mem.dram.readN 0x4C0 8 = [1, 2, 3, 4, 5, 6, 7, 8] ∧
    (next (exec (.dispatchBuild 3) dispX)).mem.dram.readN 0x600 4 = [2, 0, 0, 0] ∧
    (next (exec (.touchBuild 3) touchX)).mem.dram.readN 0x400 8 = [0, 0, 0, 0, 1, 0, 0, 0] := by decide +kernel

theorem wit_matmul : ∃ (dies : List CIx) (ds : List (Option Desc)) (m : Mat) (u r : State) (row : Bool)
    (ops : List (Option Scaled)) (grid : List BlockWork) (words : List (Nat × Nat)) (v : Env) (z : State) (n : Nat),
    m = matOf matS ds ∧
    matX.Passes 3 0 0x10 matS dies (matUses matS) (fun _ ds => matChecks (matOf matS ds)) ds u ∧
    u.fixRow 3 (cmdStep matS) = (row, r) ∧ m.o.d.empty = false ∧
    (Eng.matPrep matS ds row 3 0).run (envOf (r.matBegin 3 m) 3 matS 0) = ((ops, grid, words), v) ∧ v.settled ∧
    v.s.putBlocks 3 0 (Mat.of matS ops) dies grid ((Mat.of matS ops).keeps words grid) = (z, n) :=
  ⟨_, _, _, _, _, _, _, _, _, _, _, _, rfl, passes_sound (by decide +kernel), pairOf _, by decide +kernel, tripleOf _,
    ⟨by decide +kernel, by decide +kernel⟩, pairOf _⟩

/-- A SIDE_DOWN of one row over 32 E4M3 elements, of rank 4. -/
def sideS : List Byte := slot 0x12 0 3 7 1 0 0 0x541 [0x100, 0x140, 0x180] 0
def sideX : State := engine 0 sideS
  [(0x100, desc 0x400 3 32 [(1, 1)]), (0x140, desc 0x480 2 4 [(32, 1)]), (0x180, desc 0x1000 2 4 [(1, 1)]), (0x400, [0x38]),
   (0x480, [0x80, 0x3F])]

theorem wit_side : ∃ (dies : List CIx) (ds : List (Option Desc)) (u r : State) (row : Bool) (xs : List Scaled)
    (segs : List LoomSeg) (v z : Env),
    sideX.Passes 3 0 0x12 sideS dies (sideUses sideS) (fun _ ds =>
      sideChecks sideS (operand ds 0) (operand ds 1) ((ds.drop 2).map (fun d => d.getD default))) ds u ∧
    u.fixRow 3 (cmdStep sideS) = (row, r) ∧ (operand ds 1).empty = false ∧
    (Eng.sidePrep sideS (operand ds 0) (operand ds 1) ((ds.drop 2).map (fun d => d.getD default)) row).run
      (envOf r 3 sideS 0) = ((xs, segs), v) ∧ v.settled ∧
    runWhole 0 1 tileUnits (sideItems segs)
      (fun n l => Eng.items l (Eng.sideBlock sideS (xs.getD 0 default) (xs.getD 1 default) (xs.drop 2) n))
      (fun _ d => d) dies (envOf v.s 3 sideS 0) = (z, none) ∧ z.waits = false :=
  ⟨_, _, _, _, _, _, _, _, _, passes_sound (by decide +kernel), pairOf _, by decide +kernel, pairOf' _,
    ⟨by decide +kernel, by decide +kernel⟩, endOf (by decide +kernel), by decide +kernel⟩

theorem wit_update : ∃ (ds : List (Option Desc)) (u r : State) (row : Bool) (ops : List (Option Scaled))
    (left : List (Nat × Nat)) (v : Env), updX.cpr = none ∧ (∀ st : SIx, updX.sdies[st].held = false) ∧
    updX.Passes 3 4 0x50 updS [] (updUses updS) (fun w ds => updChecks w (updOf updS ds)) ds u ∧
    u.fixRow 3 (cmdStep updS) = (row, r) ∧ (updOf updS ds).allEmpty = false ∧
    ((updOf updS ds).op = 0x52 → r.sdies.all SDie.cooperRuns = true) ∧
    (Eng.updPrep updS ds row).run (envOf r 3 updS 0) = ((ops, left), v) ∧ v.settled :=
  ⟨_, _, _, _, _, _, _, rfl, by decide +kernel, passes_sound (by decide +kernel), pairOf _, by decide +kernel,
    by decide +kernel, pairOf' _, by decide +kernel, by decide +kernel⟩

theorem wit_collective : ∃ (ds : List (Option Desc)) (x : ColPlan) (u r : State) (row : Bool) (ops : List (Option Scaled))
    (q : ColRun) (v : Env), agX.channelBusy 3 agS = false ∧ (∀ l : LIx, agX.ldies[l].held = false) ∧
    x = colOf ((agX.begins 3 3 agS).ctx 3) agS ds ∧
    agX.Passes 3 3 0x42 agS [] (colUses ((agX.begins 3 3 agS).ctx 3) agS) (fun _ ds => colChecks ((agX.begins 3 3 agS).ctx 3)
      (colOf ((agX.begins 3 3 agS).ctx 3) agS ds) (ds.map Option.isSome)) ds u ∧ u.fixRow 3 (cmdStep agS) = (row, r) ∧
    x.idle agS = false ∧ (Eng.colPrep ((agX.begins 3 3 agS).ctx 3) agS ds row (x.fresh 3 agS 0 r.tick)).run
      (envOf (r.colLease 3 0 x (x.fresh 3 agS 0 r.tick)) 3 agS 0) = ((ops, q), v) ∧ v.settled :=
  ⟨_, _, _, _, _, _, _, _, by decide +kernel, by decide +kernel, rfl, passes_sound (by decide +kernel), pairOf _,
    by decide +kernel, pairOf' _, by decide +kernel, by decide +kernel⟩

/-- A second collective of its channel meets the first, which is under way, ready and with its PRED true. -/
theorem wit_busy : let s := agX.modQ 3 3 (fun q => { q with inflight := [{ (default : Flight) with bytes := agS, fid := 9 }] })
    s.channelBusy 3 agS = true ∧ s.FrontReady 3 3 0x42 agS ∧ predHolds (s.ctx 3) agS = true :=
  ⟨by decide +kernel, frontReady_sound (by decide +kernel), by decide +kernel⟩

/-! ### Registers, addresses and numbers -/

theorem wit_registerWrite : regAt (regBase + 1098748 - regBase) = some (.sb 3 63, false) ∧
    regAt (regBase + 1073368 - regBase) = some (.jobStatus 3, false) ∧ (regBase + 1098748) % 4 = 0 ∧
    (regBase + 1073368) % 4 = 0 ∧ live.pageHeld (regBase + 1098748 - regBase) = false ∧
    live.pageHeld (regBase + 1073368 - regBase) = false ∧ regBase ≤ regBase + 1098748 ∧ (3 < 4 ∨ regBase % 4 ≠ 0) ∧
    (4 < 4 ∨ (regBase + 2) % 4 ≠ 0) := by decide +kernel

/-- R264: an entry is written whole; R276: a job status bit is cleared by writing 1 to it. -/
theorem test_registerWrite : ((next (exec (.registerWrite .mgmt (regBase + 1098748) 4 9) live)).ctx 3).sb[63] = 9 ∧
    ((next (exec (.registerWrite .hostB (regBase + 1073368) 4 4) (State.putCtx live 3 openCtx))).ctx 3).jobStatus = 1 ∧
    ((next (exec (.registerWrite .hostB (regBase + 1098748) 2 9) live)).ctx 3).sb[63] = 0 := by decide +kernel

def audited : State := State.login live .hostA .operator
def rowRec : AuditRec := audited.writeRec .hostA (regBase + 1053232) (.rowCfg 3) false 0x80001234
def waiting : State :=
  { audited with sec := { audited.sec with pending := [⟨rowRec, .regWrite (regBase + 1053232) 0x80001234⟩] } }

theorem wit_privileged : regAt (regBase + 1053232 - regBase) = some (.rowCfg 3, false) ∧ (regBase + 1053232) % 4 = 0 ∧
    audited.pageHeld (regBase + 1053232 - regBase) = false ∧ waiting.pageHeld (regBase + 1053232 - regBase) = false ∧
    audited.access .hostA .operator = .audited ∧ audited.sec.auditFail = false ∧ audited.sec.pending.length < 64 ∧
    waiting.flashOk = true := by decide +kernel

theorem wit_privileged_pending : waiting.sec.pending = ⟨rowRec, .regWrite (regBase + 1053232) 0x80001234⟩ :: [] := rfl

theorem test_privileged : (next (exec (.registerWrite .hostA (regBase + 1053232) 4 0x80001234) audited)).sec.pending.length = 1 ∧
    ((next (exec (.registerWrite .hostA (regBase + 1053232) 4 0x80001234) audited)).ctx 3).rowCfg = (audited.ctx 3).rowCfg ∧
    ((next (exec (.auditCommit .pass) waiting)).ctx 3).rowCfg = 0x80001234 ∧
    (next (exec (.auditCommit .fail) waiting)).sec.auditFail = true := by decide +kernel

/-- FLT_TALLY_BASE with its low word kept for host port A, both ways. -/
def latchedA : State := live.modReq .hostA (fun q => { q with
  readLatch := [(latchKey .tallyBase 131840, 0x77)], writeLatch := [(latchKey .tallyBase 131840, 0x5000)] })

theorem wit_pairs : Reg.tallyBase.wide = true ∧ regAt (regBase + 131840 - regBase) = some (.tallyBase, false) ∧
    regAt (regBase + 131840 + 4 - regBase) = some (.tallyBase, true) ∧
    live.pageHeld (regBase + 131840 - regBase) = false ∧ latchedA.pageHeld (regBase + 131840 + 4 - regBase) = false ∧
    latched (latchedA.reqOf .hostA).readLatch (latchKey .tallyBase (regBase + 131840 - regBase)) = some 0x77 ∧
    latched (latchedA.reqOf .hostA).writeLatch (latchKey .tallyBase (regBase + 131840 - regBase)) = some 0x5000 := by
  decide +kernel

theorem wit_counters : regAt (regBase + 2228256 - regBase) = some (.eccCnt 2, false) ∧
    regAt (regBase + 2228264 - regBase) = some (.thermCnt 2, false) ∧
    regAt (regBase + 3211548 - regBase) = some (.dropCnt 1, false) ∧
    regAt (regBase + 4259872 - regBase) = some (.errCnt 1, false) ∧
    regAt (regBase + 131588 - regBase) = some (.leaseCnt, false) ∧
    [2228256, 2228264, 3211548, 4259872, 131588].all (fun a => !live.pageHeld (regBase + a - regBase) && (regBase + a) % 4 == 0) =
      true := by decide +kernel

theorem test_pairs : (next (exec (.readLowWord .hostA (regBase + 131844)) latchedA)).rsp = .word 0x77 ∧
    (next (exec (.writeHighWord .hostA (regBase + 131844) 2) latchedA)).flt.tallyBase = 0x200005000 := by decide +kernel

theorem test_readClear :
    (next (exec (.readClear .hostB (regBase + 2228256)) (live.modSDie 2 (fun d => { d with eccCnt := 6 })))).rsp = .word 6 ∧
    ((next (exec (.readClear .hostB (regBase + 2228256)) (live.modSDie 2 (fun d => { d with eccCnt := 6 })))).sdies[2]).eccCnt = 0 := by
  decide +kernel

theorem wit_unpopulated : regAt (regBase + 4 - regBase) = none ∧ (regBase + 4) % 4 = 0 ∧ regBase ≤ regBase + 4 := by
  decide +kernel

theorem wit_addressMaps : (0 : Nat) ≤ 96 ∧ 12 * 96 * gib - 1 < 12 * 96 * gib ∧ (11 : Nat) < 12 ∧ 96 * gib - 1 < 96 * gib ∧
    (⟨63, 3, 15, 0⟩ : RowId).pc < 64 ∧ (3 : Nat) < 4 ∧ (255 : Nat) < 256 := by decide

/-- R327: stack 0 holds the first 4,096 bytes of the interleave, stack 1 the next. -/
theorem test_addressMaps : stackOf 12 0xFFF = (0, 0xFFF) ∧ stackOf 12 0x1000 = (1, 0) ∧ stackOf 12 (12 * 4096) = (0, 0x1000) := by
  decide +kernel

/-- The largest E4M3 value is 448, the largest FP32 value 2^128 − 2^104; byte 254 is the last scale that is a power of two. -/
theorem wit_exact : Fp.e4m3 ∈ [Fp.e2m1, Fp.e2m3, Fp.e3m2, Fp.e4m3, Fp.e5m2, Fp.bf16, Fp.fp32] ∧
    Fp.e4m3.decode 0x7E = .fin false 14 5 ∧ 0x7E < 2 * Fp.e4m3.signAt ∧
    Fp.fp32.decode 0x7F7FFFFF = .fin false (2 ^ 24 - 1) 104 ∧ isMx dtMx8 = true ∧
    scaleValue dtMx8 254 = .fin false 1 127 ∧ scaleValue dtMx8 255 = .nan := by decide +kernel

/-! ### Reckoner, engines, stacks and memory -/

/-- A list of a LIST_HEAD with a deadline and a reserve, and one command of a COST in clocks that ends it. -/
def headSlot (deadline : Nat) (reserve : Nat := 10) : List Byte :=
  [1, 0, 3, 0] ++ leBytes 4 7 ++ leBytes 4 1 ++ List.replicate 16 0 ++ leBytes 8 deadline ++ leBytes 2 reserve ++ List.replicate 26 0
def costSlot (cost : Nat) : List Byte :=
  let b := slot 0x20 2 3 8 1 0 0 0 [0x100, 0x140, 0x180] 1
  b.take 24 ++ leBytes 4 cost ++ b.drop 28
def admitting (d : Nat) (cost : Nat := 44000) (reserve : Nat := 10) (more : Queue → Queue := id) : State :=
  State.putQ (State.putCtx live 3 openCtx) 3 1 (more { Reset.queue with
    state := .admitting, log2 := 6, base := 0x1000, held := [⟨headSlot d reserve, 0, none⟩, ⟨costSlot cost, 1, none⟩] })

/-- What admission reads and charges of that list. -/
def walked (s : State) : Option (State × List Planned) :=
  match State.walk 3 1 walkFuel 0 0 [] s with | .whole u l => some (u, l) | _ => none
def charged (s : State) : Charges × State :=
  let (u, l) := (walked s).getD default
  ((List.range l.length).zip l).foldl (fun r p => Charges.add 3 1 r p.1 p.2) (⟨false, [], 0, 0, [], none, false, none⟩, u)
def admTime (s : State) : Nat := ceilDiv (ceilDiv (charged s).1.clocks 44 * 110) 100
def feasible (s : State) (d k : Nat) : Bool :=
  (charged s).2.feasibleOn ((charged s).2.admitTick (charged s).1.engines) k ((charged s).2.tick + d) (admTime s)

theorem wit_admission : (admitting 1100).runs 3 = true ∧ ((admitting 1100).queue 3 1).state = .admitting ∧
    ((admitting 1100).reckoner 3).isSome = true ∧
    ((admitting 1100).queue 3 1).held.head? = some ⟨headSlot 1100, 0, none⟩ ∧ (⟨headSlot 1100, 0, none⟩ : HeldCmd).whole = true ∧
    (⟨headSlot 1100, 0, none⟩ : HeldCmd).isHead = true ∧
    (walked (admitting 1100)).map (fun w => (w.2.length, w.2.head?.map (fun p => p.cmd.bytes))) =
      some (2, some (headSlot 1100)) ∧
    headRefused (headSlot 1100) = false ∧ headReserve (headSlot 1100) = 10 ∧ headDeadline (headSlot 1100) = 1100 ∧
    (⟨elem, 0, none⟩ : HeldCmd).isHead = false ∧ (⟨elem, 0, none⟩ : HeldCmd).whole = true := by
  decide +kernel

theorem wit_charges : (charged (admitting 1100)).1.waits = false ∧ (charged (admitting 1100)).1.field = false ∧
    (charged (admitting 1100)).1.bad = none ∧ (charged (admitting 1100)).1.engines ≠ [] ∧
    ((charged (admitting 1100)).2.queue 3 1).lists = [] ∧ ((charged (admitting 1100)).2.queue 3 1).admitPend = false ∧
    (charged (admitting 1100)).1.colls = 0 ∧
    (∀ k ∈ (charged (admitting 1100)).1.engines, feasible (admitting 1100) 1100 k = true) ∧
    (∃ k ∈ (charged (admitting 1099)).1.engines, feasible (admitting 1099) 1099 k = false) := by
  decide +kernel

/-- The reasons in their order: a reserve of 101 %, a command over 55,000,000 clocks, a list due before one accepted. -/
def longAdmit : State := admitting 1100 55000001
def ordered : State := admitting 1100 44000 10 (fun q => { q with lists := [{ admitted 1 with deadlineTick := 1101 }] })

theorem wit_reasons : headRefused (headSlot 1100 101) = true ∧ (charged (admitting 1100 44000 101)).1.waits = false ∧
    (charged longAdmit).1.bad = some (1, 3) ∧ (charged longAdmit).1.waits = false ∧ (charged longAdmit).1.field = false ∧
    (charged ordered).1.bad = none ∧ (charged ordered).1.waits = false ∧
    (∃ x ∈ ((charged ordered).2.queue 3 1).lists, (charged ordered).2.tick + 1100 < x.deadlineTick) := by decide +kernel

/-- A queue that holds LIST_HEADs only, more than a list may have. -/
def overlong : State := admitting 1100 44000 10 (fun q => { q with held := List.replicate 5000 ⟨headSlot 1100, 0, none⟩ })

theorem walk_long (n : Nat) : ∀ (k : Nat) (acc : List Planned), acc.length + n = 4097 → n < k →
    ∃ l, State.walk 3 1 k acc.length 0 acc overlong = .length overlong l := by
  have held : ∀ i, i < 5000 → ((overlong.queue 3 1).held[i]?).filter HeldCmd.whole = some ⟨headSlot 1100, 0, none⟩ := by
    intro i hi
    have : (overlong.queue 3 1).held = List.replicate 5000 ⟨headSlot 1100, 0, none⟩ := rfl
    rw [this, List.getElem?_replicate, if_pos hi]
    rfl
  have op : opcodeOf (headSlot 1100) = 1 := by decide +kernel
  have fin : HeldCmd.isEnd ⟨headSlot 1100, 0, none⟩ = false := by decide +kernel
  induction n with
  | zero =>
    intro k acc h hk
    obtain ⟨k, rfl⟩ := Nat.exists_eq_add_of_lt hk
    exact ⟨acc, by rw [State.walk, if_pos (by omega)]⟩
  | succ n ih =>
    intro k acc h hk
    obtain ⟨k, rfl⟩ := Nat.exists_eq_add_of_lt (Nat.lt_of_le_of_lt (Nat.zero_le _) hk)
    rw [State.walk, if_neg (by omega), held _ (by omega)]
    simp only [op, fin]
    have := ih (0 + k) (acc ++ [⟨⟨headSlot 1100, 0, none⟩, false, 0⟩]) (by simp; omega) (by omega)
    simpa using this

theorem wit_overlong : ∃ l, State.walk 3 1 walkFuel 0 0 [] overlong = .length overlong l :=
  walk_long 4097 walkFuel [] rfl (by decide)

/-- 44,000 clocks are 1,000 ticks, 1,100 with the reserve (R301). -/
theorem test_admission : ((next (exec (.listAdmission 3 1) (admitting 1100))).queue 3 1).lists.map (·.adm) = [1100] ∧
    [admitting 1099, admitting 1100 44000 101, longAdmit, ordered].map (fun s =>
      ((next (exec (.listAdmission 3 1) s)).ctx 3).admitStat.field 3 0) = [1, 4, 3, 5] ∧
    ((next (exec (.listAdmission 3 1) (admitting 1099))).queue 3 1).cause = 0x11 := by decide +kernel

def missing (abandon : Word) : State :=
  { State.putQ (State.putCtx live 3 { openCtx with rknCfg := abandon }) 3 1 (running [elem]) with tick := 1000 }

theorem wit_miss : ((missing 0).queue 3 1).lists.find? (fun x => !x.missed && decide (x.deadlineTick ≤ 1000)) =
      some (admitted 1) ∧ ((missing 0).ctx 3).state = .opened ∧ ((missing 0).ctx 3).rknCfg.bit 8 = false ∧
    ((missing 0x100).ctx 3).rknCfg.bit 8 = true := by decide +kernel

theorem test_miss : ((next (exec (.deadlineMiss 3 1) (missing 0))).ctx 3).state = .opened ∧
    ((next (exec (.deadlineMiss 3 1) (missing 0x100))).ctx 3).state = .faulted ∧
    ((next (exec (.deadlineMiss 3 1) { missing 0x100 with tick := 999 })).ctx 3).state = .opened := by decide +kernel

/-- A GATHER, an update and a reducing collective in flight. -/
def copying : State := next (exec (.gather 3) gatherX)
def updating : State := next (exec (.updMomentum 3) updX)
def reducing : State := { State.putCtx live 3 openCtx with
  cols := [{ (default : ColRun) with job := 3, opcode := 0x41, phase := 1, bytes := agS }] }

theorem wit_engineReset : (∀ j, (live.queue j 2).inflight = []) ∧ live.cpr = none ∧ live.cols = [] ∧
    (∀ k, k ≠ 3 → (copying.queue k 2).inflight = []) ∧
    (copying.queue 3 2).inflight.map (fun f => (copying.diesOf 3 2 f.bytes).contains 0) = [true] ∧
    (copying.ctx 3).state = .opened := by decide +kernel

theorem wit_engineResets : (match updating.cpr with
      | some r => r.job == 3 && (updating.flight 3 4 r.fid).isSome && r.left == []
      | none => false) = true ∧ (updating.ctx 3).state = .opened ∧
    reducing.cols.map (fun r => (r.job, r.opcode, r.phase)) = [(3, 0x41, 1)] ∧ (reducing.ctx 3).state = .opened := by
  decide +kernel

theorem test_engineReset :
    ((next (exec (.engineReset (.loom 1)) (live.modTile 1 5 (fun t => { t with state := .running })))).cdies[1]).tiles[5].state =
      .idle := by decide +kernel

/-- Stack 4 in a state, 25,000 ticks from reset. -/
def stack4 (f : SDie → SDie) : State := { live with tick := 25000 }.modSDie 4 f

theorem wit_temperature : ((stack4 (fun d => { d with state := .off })).sdies[4]).state = .off ∧ live.tick % 25 = 0 ∧
    ({ live with tick := 24 } : State).tick % 25 ≠ 0 ∧ (live.sdies[4]).state = .normal ∧ (live.sdies[4]).powerHold = 0 ∧
    (live.sdies[4]).levelAt ((live.sdies[4]).t1 * 16 - 1) = 0 ∧ (live.sdies[4]).state.level = some 0 ∧
    (live.sdies[4]).levelAt ((live.sdies[4]).t1 * 16) = 1 ∧ (live.sdies[4]).levelAt ((live.sdies[4]).t3 * 16) = 3 ∧
    (live.sdies[4]).levelAt ((live.sdies[4]).tcrit * 16) = 4 ∧
    ((live.sdies[4]).tcrit * 16 : Int) < ((live.sdies[4]).tcrit + 5) * 16 ∧ live.cols = [] ∧ live.mem.waiting = [] := by
  decide +kernel

/-- Stack 4 one step down, 3 °C below its threshold since a tick. -/
def cooling (since : Nat) : State := stack4 (fun d => { d with state := .step50, temp := 0, coolSince := some since })

theorem wit_cooling : ((cooling 0).sdies[4]).state.level = some (1 + 1) ∧ ((cooling 0).sdies[4]).coolSince = some 0 ∧
    0 + 25000 ≤ (cooling 0).tick ∧ ((cooling 0).sdies[4]).powerHold ≤ 1 ∧ (cooling 1).tick < 1 + 25000 ∧
    ((stack4 (fun d => { d with state := .step50, powerHold := 2 })).sdies[4]).powerHold = 2 := by decide +kernel

theorem wit_fenceLimit : ((stack4 (fun d => { d with state := .fenced, fenceLimit := 25000 })).sdies[4]).state = .fenced ∧
    ((stack4 (fun d => { d with state := .fenced, fenceLimit := 25000 })).sdies[4]).fencedSince +
      ((stack4 (fun d => { d with state := .fenced, fenceLimit := 25000 })).sdies[4]).fenceLimit ≤ 25000 := by decide +kernel

/-- An ALL_REDUCE of context 3 with an operand on stack 0. -/
def stackReducing : State := { State.putQ (State.putCtx live 3 openCtx) 3 3 { running [] with
    inflight := [{ (default : Flight) with fid := 2, ops := [some ⟨{ (default : Desc) with ndim := 1, dtype := 1, exts := [4] }, false, 0⟩] }] } with
  cols := [{ (default : ColRun) with job := 3, fid := 2, opcode := 0x41, bytes := agS }] }

theorem wit_fencedOperand : stackReducing.cols.map (fun r => (r.job, stackReducing.colOnStack 0 r)) = [(3, true)] ∧
    (stackReducing.ctx 3).state = .opened ∧ (stackReducing.ctx 3).colFlt.bit 8 = false := by decide +kernel

theorem test_temperature : ((next (exec (.stackTempSample 4 ((live.sdies[4]).t2 * 16)) live)).sdies[4]).state = .step50 ∧
    ((next (exec (.stackTempSample 4 ((live.sdies[4]).tcrit * 16)) live)).sdies[4]).state = .fenced ∧
    ((next (exec (.stackStepDown 4) (cooling 0))).sdies[4]).state = .step75 ∧
    ((next (exec (.stackStepDown 4) (cooling 1))).sdies[4]).state = .step50 ∧
    ((next (exec (.stackTempSample 0 ((live.sdies[0]).tcrit * 16)) stackReducing)).ctx 3).state = .faulted := by
  decide +kernel

theorem wit_training : ((stack4 (fun d => { d with state := .training, retained := true })).sdies[4]).state = .training ∧
    ((stack4 (fun d => { d with state := .training, retained := true })).sdies[4]).retained = true ∧
    (∀ l ∈ (stack4 id).mem.cache, l.stack ≠ 4) ∧ ((stack4 (fun d => { d with state := .training })).sdies[4]).level < 4 ∧
    ((stack4 (fun d => { d with state := .selfRefresh })).sdies[4]).level < 4 ∧ live.flashOk = true ∧
    (live.setPwr (fun p => { p with state := .emergency })).flashOk = false ∧
    (live.sdies[4]).scrubUnit + 1 < (live.sdies[4]).scrubUnits ∧ (live.sdies[4]).tracker = [] ∧ 1 < (live.sdies[4]).ceLimit ∧
    ((stack4 (fun d => { d with scrubUnit := d.scrubUnits - 1 })).sdies[4]).scrubUnits ≤
      ((stack4 (fun d => { d with scrubUnit := d.scrubUnits - 1 })).sdies[4]).scrubUnit + 1 ∧
    ((stack4 (fun d => { d with state := .training, retained := false })).sdies[4]).retained = false ∧ firstPool - 1 < firstPool ∧
    (live.sdies[4]).state.access = .serves ∧ 0 ≤ (live.sdies[4]).tables.retired.length ∧
    (∀ p ∈ (live.sdies[4]).tables.retired, firstPool ≤ p.2 ∧ p.2 ≠ firstPool + 0) := by decide +kernel

theorem test_training :
    ((next (exec (.stackTrainingDone 4 .fail) (stack4 (fun d => { d with state := .training })))).sdies[4]).state = .offline ∧
    ((next (exec (.selfRefreshExit 4) (stack4 (fun d => { d with state := .selfRefresh })))).sdies[4]).state = .normal ∧
    ((next (exec (.patrolScrub 4 0 .clean) live)).sdies[4]).scrubUnit = 1 := by decide +kernel

/-- The first bytes of C-die 0's scratchpad. -/
def padded : State := { live with mem := { live.mem with pad := [(4, 255), (5, 255), (200, 1)] } }
def padBase : Nat := 0x08 * 2 ^ 40

theorem wit_memory : placeOf padded padBase = .pad 0 0 ∧ 256 ≤ 256 - padBase % 256 ∧
    placeOf padded (padBase + 4) = .pad 0 4 ∧ padGone padded 0 4 = false ∧ padded.mem.pad.wf = true ∧
    60 ≤ 64 - (padBase + 4) % 64 ∧ (padBase + 4) % 4 = 0 ∧ padded.mem.padPoison = [] ∧
    placeOf live 0 = .stack 0 0 ∧ slotAccess (live.modSDie 0 (fun d => { d with state := .offline })) 0 0 = .gone ∧
    slotAccess (live.modSDie 0 (fun d => { d with state := .fenced })) 0 0 = .waits ∧ addFormat 9 = false ∧
    (padBase + 1) % addWidth dtInt32 ≠ 0 ∧ 3 % addWidth dtInt32 ≠ 0 := by decide +kernel

/-- An add of one element into the first unit, which is poisoned or not. -/
def adds (p : Ranges) : Added × State :=
  addMem { (State.putCtx padded 3 openCtx) with mem := { padded.mem with padPoison := p } } 3 (padBase + 4) dtInt32 .rne false
    false .stream (genSeed 0 (unitId 2 (stackAt padded (padBase + 4)) 0x12 0) 0 0) [1, 0, 0, 0]

theorem wit_adds : addFormat dtInt32 = true ∧ (padBase + 4) % addWidth dtInt32 = 0 ∧ 4 % addWidth dtInt32 = 0 ∧
    (adds []).1.consumed = false ∧ (adds [(padKey 0 0 / 64, padKey 0 0 / 64 + 1)]).1.consumed = true ∧
    ((adds [(padKey 0 0 / 64, padKey 0 0 / 64 + 1)]).2.ctx 3).state = .opened := by decide +kernel

/-- R331: 0x0000FFFF + 0xFFFFFFFF = 0x0000FFFE modulo 2^32. -/
theorem test_memory : (next (exec (.memAdd 3 (padBase + 4) dtInt32 [255, 255, 255, 255] false) padded)).mem.pad =
      [(4, 254), (5, 255), (200, 1)] ∧
    (next (exec (.memWrite 3 (padBase + 5) [0, 7] .keep false) padded)).mem.pad = [(4, 255), (6, 7), (200, 1)] ∧
    (next (exec (.memRead 3 (padBase + 4) 2 .keep .clean false) padded)).rsp = .bytes [255, 255] false := by decide +kernel

/-! ### The fabric -/

/-- Port 1 of L-die 1 changed, at a tick, in a torus of 4 by 4 by 4. -/
def portAt (tick : Nat) (f : Port → Port) : State :=
  ({ live with
    tick := tick
    cfg := { live.cfg with inForce := { live.cfg.inForce with extent := ⟨4, 4, 4⟩ } } } : State).modPort 1 1 f
def inPort (st : PortState) (tick : Nat := 7) : State := portAt tick (fun x => { x with state := st })
def upLanes (n : Nat) : State := portAt 7 (fun x => { x with state := .up, lanes := trainedLanes n })

theorem wit_portCommands : (inPort .off).access .coreA .installerOrCore = .atOnce ∧ ((inPort .off).ldies[1]).held = false ∧
    ((inPort .off).port 1 1).state = .off ∧ (inPort .off).extentOf 1 ≠ 1 ∧ ((inPort .draining).port 1 1).state = .draining ∧
    ((inPort .armed).port 1 1).state = .armed ∧ ((inPort .dead).port 1 1).state = .dead := by decide +kernel

/-- For a core at once, for an installer with its record, for no other (R519). -/
theorem wit_portActs (r : AuditRec) : (inPort .off).Acts .coreA .installerOrCore r (inPort .off) ∧
    (∃ u, (State.login (inPort .off) .hostA .installer).Acts .hostA .installerOrCore r u) ∧
    (inPort .off).access .hostB .installerOrCore = .refused :=
  ⟨.inl ⟨by decide +kernel, rfl⟩, ⟨_, .inr ⟨⟨by decide +kernel, rfl, rfl, by decide +kernel⟩, rfl⟩⟩, by decide +kernel⟩

theorem wit_portTraining : ((inPort .training 250000000).port 1 1).stateSince + 250000000 ≤ (inPort .training 250000000).tick ∧
    8 ≤ ((trainedLanes 0xFF).toList.filter (·.inService)).length ∧ (160 : Nat) ≤ 160 ∧
    ((inPort .training).ldies[1]).router ≠ .training ∧ ((inPort .training).port 1 1).retry = [] ∧
    ((inPort .draining 500).port 1 1).stateSince + 500 ≤ (inPort .draining 500).tick ∧
    ((inPort .draining).port 1 1).fencing = false ∧
    (inPort .retrain 250000).tick ≤ ((inPort .retrain 250000).port 1 1).stateSince + 250000 ∧
    ((inPort .retrain 250001).port 1 1).stateSince + 250000 < (inPort .retrain 250001).tick ∧
    (inPort .training 249999999).tick < ((inPort .training 249999999).port 1 1).stateSince + 250000000 := by decide +kernel

theorem test_ports : ((next (exec (.portEnable .coreA 1 1) (inPort .draining))).port 1 1).state = .armed ∧
    ((next (exec (.portEnable .hostB 1 1) (inPort .off))).port 1 1).state = .off ∧
    ((next (exec (.portTrainingDone 1 1 0x7F 10) (inPort .training))).port 1 1).state ≠ .up ∧
    ((next (exec (.portTrainingDone 1 1 0xFF 10) (inPort .training))).port 1 1).state = .up := by decide +kernel

theorem wit_lanes : ((upLanes 0x1FF).port 1 1).trained = true ∧ (((upLanes 0x1FF).port 1 1).lane 3).bad = false ∧
    8 ≤ (((upLanes 0x1FF).port 1 1).takeOut 3 true).width ∧
    (∀ i, i < 18 → (((upLanes 0x1FF).port 1 1).lane i).underTest = false) ∧
    (((upLanes 0x1FF).port 1 1).spare.isSome = true ∨ 8 < ((upLanes 0x1FF).port 1 1).width) ∧
    ((((upLanes 0x1FF).modPort 1 1 (fun y => y.takeOut 3 false)).port 1 1).lane 3).underTest = true ∧
    (((upLanes 0x1FF).modPort 1 1 (fun y => y.takeOut 3 false)).port 1 1).trained = true := by decide +kernel

/-- A WRITE of 64 bytes of 7 to an address, the stream's packet 10. -/
def writePkt (addr : Nat) : Packet := { (default : Packet) with
  kind := .write, job := 3, srcRank := 2, channel := 4, seq := 10, addr := addr, length := 64, payload := List.replicate 64 7 }
def goodFrame : LinkFrame := LinkFrame.sealed ⟨4095, 2, false, some (writePkt 0), 0⟩
def badFrame : LinkFrame := { LinkFrame.sealed ⟨9, 2, false, none, 0⟩ with nak := true }

theorem wit_frames : (inPort .up).port 1 1 = { (inPort .off).port 1 1 with state := .up } ∧
    ((portAt 7 (fun x => { x with state := .up, rxLseq := 4095 })).port 1 1).state = .up ∧
    goodFrame.lseq = ((portAt 7 (fun x => { x with state := .up, rxLseq := 4095 })).port 1 1).rxLseq ∧
    goodFrame.nak = false ∧ goodFrame.pkt.isSome = true ∧ crc32 badFrame.covered ≠ badFrame.crc := by decide +kernel

/-- Frame 9 waits for its acknowledgement, sent some times; a NAK names it. -/
def unacked (n : Nat) : State := portAt 7 (fun x => { x with state := .up, txLseq := 10, retry := [⟨9, writePkt 0, n⟩] })
def nakFrame : LinkFrame := LinkFrame.sealed ⟨0, 9, true, none, 0⟩
def bareFrame : LinkFrame := LinkFrame.sealed ⟨0, 9, false, none, 0⟩

theorem wit_naks : nakFrame.nak = true ∧ nakFrame.pkt = none ∧ bareFrame.nak = false ∧ bareFrame.pkt = none ∧
    ((unacked 16).port 1 1).retry.findIdx? (fun r => r.lseq == nakFrame.rack) = some 0 ∧
    ((unacked 16).port 1 1).retry[0]? = some ⟨9, writePkt 0, 16⟩ ∧ 16 ≤ (⟨9, writePkt 0, 16⟩ : SentFrame).sends ∧
    (⟨9, writePkt 0, 15⟩ : SentFrame).sends < 16 ∧ goodFrame.lseq ≠ ((inPort .up).port 1 1).rxLseq ∧
    ((inPort .up).port 1 1).nakSent = false ∧
    ((portAt 7 (fun x => { x with state := .up, nakSent := true })).port 1 1).nakSent = true := by decide +kernel

theorem test_naks : ((next (exec (.linkFrameReceive 1 1 nakFrame) (unacked 15))).port 1 1).retry.map (·.sends) = [16] ∧
    ((next (exec (.linkFrameReceive 1 1 nakFrame) (unacked 16))).port 1 1).state = .retrain := by decide +kernel

theorem sealed_crc (f : LinkFrame) : crc32 f.sealed.covered = f.sealed.crc := rfl

theorem wit_frame_crc : crc32 goodFrame.covered = goodFrame.crc := sealed_crc _

theorem test_lanes : (((next (exec (.laneFail 1 1 3 0) (upLanes 0x1FF))).port 1 1).lane 3).inService = false ∧
    ((next (exec (.laneFail 1 1 3 0) (upLanes 0xFF))).port 1 1).state ≠ .up ∧
    ((next (exec (.linkFrameReceive 1 1 badFrame) (inPort .up))).port 1 1).nakSent = true := by decide +kernel

/-- A lease of stream (3, 2, channel 4) at L-die 1 that expects packet 10, and its context with one page of scratchpad. -/
def lease (held : List Packet) : Reorder := ⟨3, 2, ⟨1, 0, 0⟩, 4, false, 10, held, 3, none, 0, none, false, false, true, none, []⟩
def leased (r : Reorder) : State := State.putCtx (live.modLDie 1 (fun d => { d with leases := [r] })) 3
  { openCtx with regions := [⟨padBase, 1, 2, 0, true⟩] }

theorem wit_delivery : ((.write 1 0, .write, deliverWrite) : Instr × PktKind × (State → Reorder → Packet → Option (State × Bool)))
      ∈ packetDeliveries 1 0 := by simp [packetDeliveries]

theorem wit_delivered : (leased (lease [writePkt padBase])).leaseAt 1 0 = some (lease [writePkt padBase]) ∧
    (lease [writePkt padBase]).ready = some (writePkt padBase) ∧ (lease []).ready = none ∧
    (deliverWrite (leased (lease [writePkt padBase])) (lease [writePkt padBase]) (writePkt padBase)).isSome = true ∧
    (lease []).sinceAck + 1 < 16 ∧ writable (leased (lease [])) (writePkt padBase) false = true ∧
    writable (leased (lease [])) (writePkt (padBase + 4096)) false = false ∧
    stackWaits (leased (lease [])) (writePkt padBase).addr = false ∧ (writePkt padBase).length = 64 ∧
    (writePkt padBase).payload.length = 64 := by decide +kernel

/-- Packets that a lease of the stream holds next, and what keeps them: a format that no table gives, a stack that sleeps, an
element that no adder adds. -/
def oddPkt : Packet := { writePkt padBase with format := 0x3F }
def addPkt : Packet := { writePkt padBase with kind := .add, format := dtInt32 }
def dozing : State := (leased (lease [])).modSDie 0 (fun d => { d with state := .fenced }) |>.modCtx 3
  (fun c => { c with regions := [⟨0, 1, 0, 0, true⟩] })

theorem wit_packets : (lease [oddPkt]).ready = some oddPkt ∧ oddPkt.format ≠ 0 ∧ dtypeKnown oddPkt.format = false ∧
    oddPkt.job < 64 ∧ ((lease [oddPkt]).step oddPkt true 7).sinceAck < 16 ∧
    16 ≤ ({ lease [writePkt padBase] with sinceAck := 15 }.step (writePkt padBase) false 7).sinceAck ∧
    writable (leased (lease [])) addPkt true = true ∧ addFormat addPkt.format = true ∧ addFormat oddPkt.format = false ∧
    writable dozing (writePkt 0) false = true ∧ stackWaits dozing (writePkt 0).addr = true ∧
    writable dozing { addPkt with addr := 0 } true = true := by decide +kernel

theorem test_delivered : (next (exec (.write 1 0) (leased (lease [writePkt padBase])))).mem.pad.readN 0 64 = List.replicate 64 7 ∧
    ((next (exec (.write 1 0) (leased (lease [writePkt padBase])))).ldies[1]).leases.map (·.next) = [11] ∧
    (next (exec (.write 1 0) (leased (lease [writePkt (padBase + 4096)])))).mem.pad = [] := by decide +kernel

/-- L-die 0 with port 0 UP and what its router holds. -/
def routing (f : LDie → LDie) : State := (live.modPort 0 0 (fun x => { x with state := .up, txLseq := 9 })).modLDie 0 f
def passingPkt : Packet := { writePkt 0 with dst := ⟨1, 0, 0⟩, age := 255 }
def arriving : State := routing (fun d => { d with inputs := [(3, passingPkt)], router := .draining })
def stream : SrcStream :=
  ⟨3, 2, ⟨1, 0, 0⟩, 5, 4, false, 12, 10, 0, [{ passingPkt with seq := 11 }], [(2, 1), (2, 1)], false⟩
def injecting : State := routing (fun d => { d with router := .forwarding, streams := [stream] })
def injected : Packet := { passingPkt with age := 0, seq := 11, src := live.cfg.inForce.coord }

theorem wit_arrive : (arriving.ldies[0]).held = false ∧ (arriving.ldies[0]).inputs = [(3, passingPkt)] ∧
    PktKindKnown passingPkt.kind = true ∧ (productive arriving 0 passingPkt).head? = some (.port 0) ∧
    (arriving.port 0 0).sends passingPkt = true := by decide +kernel

theorem wit_inject : (injecting.ldies[0]).router = .forwarding ∧ (injecting.ldies[0]).inputs = [] ∧
    (injecting.ldies[0]).toInject.map (fun x => { x.1 with age := 0, deflect := 0, golden := false, src := live.cfg.inForce.coord }) =
      some injected ∧ (productive injecting 0 injected).head? = some (.port 0) ∧
    (injecting.port 0 0).sends injected = true ∧ (live.ldies[0]).toInject = none := by decide +kernel

theorem test_route : ((next (exec (.packetArrive 0) arriving)).ldies[0]).inputs = [] ∧
    ((next (exec (.packetArrive 0) arriving)).port 0 0).retry.map (fun r => (r.lseq, r.pkt.age)) = [(9, 255)] := by
  decide +kernel

/-- One packet at an input of L-die 0: for this module, without a port that takes it, of a reserved KIND; two that contest. -/
def atInput (l : List (Nat × Packet)) : State := routing (fun d => { d with inputs := l })
def ownPkt : Packet := { writePkt 0 with kind := .ack, dst := live.cfg.inForce.coord, srcRank := 0, channel := 3 }
def stuck : State := (atInput [(1, passingPkt)]).modPort 0 0 (fun x => { x with state := .off })
def youngPkt : Packet := { passingPkt with age := 3 }

theorem wit_routes : 1 < 4 ∧ productive (atInput [(1, ownPkt)]) 0 ownPkt = [.eject] ∧
    (((atInput [(1, ownPkt)]).modLDie 0 (fun d => { d with inputs := [] })).eject 0 ownPkt).isSome = true ∧
    productive stuck 0 passingPkt = [.port 0] ∧ (∀ x, (stuck.port 0 x).sends passingPkt = false) ∧
    PktKindKnown (.other 15) = false ∧ before passingPkt youngPkt = true ∧ PktKindKnown youngPkt.kind = true ∧
    (atInput [(2, youngPkt), (1, passingPkt)]).ldies[0].inputs = [(2, youngPkt), (1, passingPkt)] ∧
    ((atInput []).ldies[0]).inputs = [] := by decide +kernel

theorem test_routes : ((next (exec (.packetArrive 0) stuck)).ldies[1]).inputs.map (fun x => (x.1, x.2.deflect)) = [(2, 1)] ∧
    ((next (exec (.packetArrive 0) (atInput [(2, youngPkt), (1, passingPkt)]))).port 0 0).retry.map (·.pkt.age) = [255] := by
  decide +kernel

def ackPkt : Packet := { writePkt 0 with kind := .ack, seq := 11 }

theorem wit_ack : stream.closed = false ∧ ackPkt.err = false ∧ (ackPkt.seq + 65536 - stream.acked) % 65536 = 1 ∧
    1 ≤ stream.sent.length - stream.waiting.length ∧
    [stream].find? (fun y => y.sys == ackPkt.sys && (y.sys || y.job == ackPkt.job) && y.dstRank == ackPkt.srcRank &&
      y.channel == ackPkt.channel) = some stream := by decide +kernel

/-- Times: an ACK after 25 ticks, an idle lease after 25,000, a gap and a stream after 2,500. -/
theorem wit_timers : (some 15 : Option Nat) = some 15 ∧ 15 + 25 ≤ 40 ∧ 39 < 15 + 25 ∧
    ({ lease [] with sys := true } : Reorder).leased = true ∧ (lease []).held = [] ∧ (lease []).lastArrival + 25000 ≤ 25000 ∧
    24999 < (lease []).lastArrival + 25000 ∧ live.isMember = false ∧ (lease []).closed = false ∧ (lease []).gapSince = none ∧
    stream.lastAck + 2500 ≤ 2500 ∧ 2499 < stream.lastAck + 2500 ∧ stream.waiting.length < stream.sent.length := by
  decide +kernel

/-- A copy command of context 3 whose packet of a stream is not acknowledged. -/
def sendingX : State := (State.putQ (State.putCtx live 3 openCtx) 3 2 { running [] with
  inflight := [{ (default : Flight) with fid := 1 }] }).modLDie 0 (fun d => { d with
    acksIn := [{ ackPkt with err := true }], streams := [stream] })

theorem wit_sending : (sendingX.ldies[0]).acksIn[0]? = some { ackPkt with err := true } ∧ (sendingX.ctx 3).state = .opened ∧
    (stream.sent.take (max 1 1)).getLast? = some (2, 1) ∧ stream.sent.headD nobody = (2, 1) ∧
    (sendingX.flight 3 2 1).isSome = true ∧ (sendingX.ldies[0]).streams[0]? = some stream ∧ stream.sys = false ∧
    (live.ctx 3).streamCfg.field 31 16 = 2500 ∧ ({ stream with closed := true } : SrcStream).closed = true ∧
    (sendingX.ldies[0]).acksIn[1]? = none ∧ ({ stream with sent := [(1, 1)] } : SrcStream).sent.headD nobody = (1, 1) := by
  decide +kernel

/-- A system lease of a member and one of no group, with a gap. -/
def gapped : Reorder := { lease [] with sys := true, gapSince := some 0 }
def membered : State := { live with cfg := { live.cfg with inForce := { live.cfg.inForce with group := 1, proxy := false } } }

theorem wit_gaps : gapped.closed = false ∧ gapped.gapSince = some 0 ∧ 0 + 2500 ≤ 2500 ∧ membered.isMember = true ∧
    live.isMember = false ∧ ({ gapped with sys := false } : Reorder).sys = false ∧
    (∀ x ∈ live.cols, ¬(x.job = 3 % 64 ∧ x.ch = 4)) ∧ (live.ctx 3).streamCfg.field 15 0 = 2500 := by decide +kernel

theorem test_acks : ((next (exec (.ack 0 0) sendingX)).ctx 3).state = .faulted ∧
    ((next (exec (.streamTimeout 0 0) { sendingX with tick := 2500 })).ctx 3).fault ≠ 3 ∧
    ((next (exec (.streamTimeout 0 0) { sendingX with tick := 2499 })).ctx 3).state = .opened := by decide +kernel

theorem test_timers :
    ((next (exec (.ackTimer 1 0) { leased { lease [] with unackedSince := some 15 } with tick := 40 })).ldies[1]).acksOut.length = 1 ∧
    ((next (exec (.ackTimer 1 0) { leased { lease [] with unackedSince := some 15 } with tick := 39 })).ldies[1]).acksOut.length = 0 := by
  decide +kernel

/-- L-die 2 with its router in a state, port 1 UP. -/
def router (r : RouterState) : State := (live.modPort 2 1 (fun x => { x with state := .up })).modLDie 2 (fun d => { d with router := r })
def drained : State := live.modLDie 2 (fun d => { d with
  router := .draining, ports := d.ports.map (fun (p : Port) => { p with state := .dead }) })

theorem wit_routers : (router .forwarding).access .coreA .installerOrCore = .atOnce ∧ ((router .forwarding).ldies[2]).held = false ∧
    ((router .forwarding).ldies[2]).router = .forwarding ∧ (drained.ldies[2]).router = .draining ∧
    (drained.ldies[2]).clear = true ∧ (∀ q : PortIx, (drained.port 2 q).state = .dead) ∧
    ((drained.modLDie 2 (fun d => { d with inputs := [(0, passingPkt)] })).ldies[2]).clear = false ∧
    drained.tick < (drained.ldies[2]).drainStart + 500 := by decide +kernel

theorem test_routers : ((next (exec (.routerReset .coreA 2) (router .forwarding))).port 2 1).state = .draining ∧
    ((next (exec (.routerLoss 2) (router .forwarding))).port 2 1).state = .dead ∧
    ((next (exec (.routerDrainEnd 2) drained)).ldies[2]).router = .forwarding := by decide +kernel

/-- A collective on channel 4 whose timeout is 1. -/
def timing : State :=
  { State.putCtx live 3 openCtx with
    tick := 1
    cols := [{ (default : ColRun) with job := 3, ch := 4, bytes := agS }] }

theorem wit_colTimeout : (timing.cols.find? (fun c => c.job == 3 && c.ch == 4)).isSome = true ∧
    Slot.colTimeout agS = 1 ∧ (timing.ctx 3).state = .opened ∧ (timing.ctx 3).colFlt.bit 8 = false ∧
    timing.cols.find? (fun c => c.job == 3 && c.ch == 5) = none := by decide +kernel

theorem test_colTimeout : ((next (exec (.collectiveTimeout 3 4) timing)).ctx 3).colFlt.field 3 0 = 1 ∧
    ((next (exec (.collectiveTimeout 3 4) { timing with tick := 0 })).ctx 3).state = .opened := by decide +kernel

/-! ### Containment, tests, events and cores -/

theorem wit_watchdog : unitExists (unitId 9 0 0 0) = false ∧
    (live.modSDie 2 (fun d => { d with pcFenced := [7] })).unitStat (unitId 2 2 0x10 7) = 3 ∧
    unitName (unitId 1 3 3 15) = ⟨1, 3, 3, 15⟩ ∧ (live.cdies[3]).vus[15].state ≠ .fenced ∧
    unitName (unitId 2 11 0x10 63) = ⟨2, 11, 0x10, 63⟩ ∧ 63 ∉ (live.sdies[11]).pcFenced ∧
    unitName (unitId 1 1 1 127) = ⟨1, 1, 1, 127⟩ ∧ (live.cdies[1]).tiles[127].role = .service ∧
    (live.cdies[1]).tiles[127].state ≠ .fenced ∧ (live.cdies[1]).tiles[127].state ≠ .migrating ∧
    (live.cdies[1]).spareTile = some 128 := by decide +kernel

theorem test_watchdog : ((next (exec (.unitWatchdog (unitId 1 1 1 127)) live)).cdies[1]).tiles[128].role = .service ∧
    ((next (exec (.unitWatchdog (unitId 1 3 3 15)) live)).cdies[3]).vus[15].state = .fenced ∧
    322 ∈ (next (exec (.unitWatchdog (unitId 1 3 3 15)) live)).evc.pend := by decide +kernel

/-- The other kinds of unit that a watchdog fences, in service: a copy channel, an engine scheduler, a Cooper, a stack's
controller, a router, a spare tile, a bank with and without a spare bank. -/
def spareless : State := live.modCDie 1 (fun c => { c with banks := c.banks.map (fun (b : Bank) =>
  if b.state == .spare then { b with state := .fenced } else b) })

theorem wit_otherUnits : unitName (unitId 1 3 4 15) = ⟨1, 3, 4, 15⟩ ∧ (live.cdies[3]).cps[15].state ≠ .fenced ∧
    (∀ j, (live.queue j 2).inflight = []) ∧ unitName (unitId 1 3 5 0) = ⟨1, 3, 5, 0⟩ ∧ unitExists (unitId 1 3 5 0) = true ∧
    (live.cdies[3]).loomEng ≠ .fenced ∧ unitName (unitId 2 11 0x13 0) = ⟨2, 11, 0x13, 0⟩ ∧
    (live.sdies[11]).cprEng ≠ .fenced ∧ live.cpr = none ∧ unitName (unitId 2 11 0x15 0) = ⟨2, 11, 0x15, 0⟩ ∧
    (live.sdies[11]).state ≠ .offline ∧ live.mem.waiting = [] ∧ unitName (unitId 3 2 0x22 0) = ⟨3, 2, 0x22, 0⟩ ∧
    unitExists (unitId 3 2 0x22 0) = true ∧ live.unitStat (unitId 3 2 0x22 0) ≠ 3 ∧
    ((live.modLDie 2 (fun d => { d with router := .forwarding })).ldies[2]).held = false ∧
    (live.cdies[1]).tiles[135].role ≠ .service ∧
    ((live.modTile 1 5 (fun x => { x with state := .migrating })).cdies[1]).tiles[5].state = .migrating ∧
    unitName (unitId 1 1 2 0) = ⟨1, 1, 2, 0⟩ ∧ (live.cdies[1]).banks[0].pos = some 0 ∧ (live.cdies[1]).spareBank = some 48 ∧
    (spareless.cdies[1]).spareBank = none ∧ (spareless.cdies[1]).banks[0].pos = some 0 ∧ spareless.flt.leases = [] ∧
    (live.cdies[1]).banks[50].pos = none ∧ live.flt.ringEn = false := by decide +kernel

theorem test_units : ((next (exec (.unitWatchdog (unitId 1 1 2 0)) live)).cdies[1]).banks[48].pos = some 0 ∧
    ((next (exec (.unitWatchdog (unitId 2 11 0x15 0)) live)).sdies[11]).state = .offline ∧
    ((next (exec (.unitWatchdog (unitId 1 3 5 0)) live)).cdies[3]).cpyEng = .draining := by decide +kernel

/-- Host port A as installer with a unit in FLT_FENCE_UNIT. -/
def fencing (w : Word) (f : State → State := id) : State :=
  f { State.login live .hostA .installer with flt := { live.flt with fenceUnit := w } }
def fencedPc : State := fencing (unitId 2 4 0x10 63) (fun s => s.modSDie 4 (fun d => { d with pcFenced := [2, 63] }))
def fencedVu : State := fencing (unitId 1 2 3 5) (fun s => s.modCDie 2 (fun c => { c with vus := upd c.vus 5 SimpleUnit.fence }))

theorem wit_fence : (fencing (unitId 1 2 3 5)).access .hostA .installerOrCore ≠ .refused ∧
    unitExists (fencing (unitId 9 0 0 0)).flt.fenceUnit = false ∧ (fencing 0).sec.auditFail = false ∧
    (fencing 0).sec.pending = [] ∧ (fencing 0).flashOk = true ∧
    unitName (fencing (unitId 1 2 3 5)).flt.fenceUnit = ⟨1, 2, 3, 5⟩ ∧ ((fencing (unitId 1 2 3 5)).cdies[2]).vus[5].state ≠ .fenced ∧
    63 ∈ (fencedPc.sdies[4]).pcFenced ∧ unitName fencedPc.flt.fenceUnit = ⟨2, 4, 0x10, 63⟩ ∧
    (fencedVu.cdies[2]).vus[5].state = .fenced := by decide +kernel

/-- Fenced units of the other kinds that UNFENCE reaches. -/
def fencedCp : State := fencing (unitId 1 2 4 5) (fun s => s.modCDie 2 (fun c => { c with cps := upd c.cps 5 SimpleUnit.fence }))
def fencedTile : State := fencing (unitId 1 2 1 5) (fun s => s.modTile 2 5 (fun x => { x with state := .fenced, role := .none }))
def fencedEng : State := fencing (unitId 1 2 5 0) (fun s => s.modCDie 2 (fun c => { c with loomEng := .fenced }))
def fencedCpr : State := fencing (unitId 2 4 0x13 0) (fun s => s.modSDie 4 (fun d => { d with cprEng := .fenced }))

theorem wit_unfences : (fencedCp.cdies[2]).cps[5].state = .fenced ∧ (fencedTile.cdies[2]).tiles[5].state = .fenced ∧
    (fencedEng.cdies[2]).loomEng = .fenced ∧ (fencedCpr.sdies[4]).cprEng = .fenced ∧
    unitName fencedCp.flt.fenceUnit = ⟨1, 2, 4, 5⟩ ∧ unitName fencedTile.flt.fenceUnit = ⟨1, 2, 1, 5⟩ ∧
    unitName fencedEng.flt.fenceUnit = ⟨1, 2, 5, 0⟩ ∧ unitName fencedCpr.flt.fenceUnit = ⟨2, 4, 0x13, 0⟩ ∧
    (fencing (unitId 1 2 3 5)).unitStat (unitId 1 2 3 5) ≠ 3 ∧ (fencing (unitId 1 2 3 5)).unitStat (unitId 1 2 3 5) ≠ 1 ∧
    live.access .hostB .installerOrCore = .refused := by decide +kernel

/-- Tile 5 of C-die 1 at the end of its migration, with and without a fence that waits for it. -/
def migrated (f : Option Nat) : State := live.modTile 1 5 (fun x => { x with state := .migrating, fencePend := f })

theorem wit_migrated : ((migrated (some 3)).cdies[1]).tiles[5].fencePend = some 3 ∧
    ((migrated none).cdies[1]).tiles[5].fencePend = none ∧ ((migrated none).cdies[1]).tiles[5].state = .migrating ∧
    live.engIdle 1 = true ∧ (live.cdies[1]).tiles[5].state ≠ .migrating := by decide +kernel

theorem test_migrated : ((next (exec (.unitDrainDone (unitId 1 1 1 5)) (migrated none))).cdies[1]).tiles[5].state = .underTest ∧
    ((next (exec (.unitDrainDone (unitId 1 1 1 5)) (migrated (some 3)))).cdies[1]).tiles[5].state = .fenced ∧
    ((next (exec (.unfence .hostA) fencedEng)).cdies[2]).loomEng = .none := by decide +kernel

def bank50 (x : UnitState) : State :=
  live.modCDie 1 (fun c => { c with banks := upd c.banks 50 (fun b => { b with state := x }) })

theorem wit_bankDrain : unitName (unitId 1 1 2 50) = ⟨1, 1, 2, 50⟩ ∧ ((bank50 .draining).cdies[1]).banks[50].state = .draining ∧
    ((bank50 .armed).cdies[1]).banks[50].state = .armed := by decide +kernel

theorem test_fence : ((next (exec (.fence .hostA true false) (fencing (unitId 1 2 3 5)))).cdies[2]).vus[5].state = .fenced ∧
    ((next (exec (.fence .hostB true false) (fencing (unitId 1 2 3 5)))).cdies[2]).vus[5].state ≠ .fenced ∧
    ((next (exec (.unfence .hostA) fencedPc)).sdies[4]).pcFenced = [2] ∧
    ((next (exec (.unfence .hostA) fencedVu)).cdies[2]).vus[5].state = .underTest := by decide +kernel

/-- A lease that expires at tick 50. -/
def leaseOf (rev : Option (Nat × Nat)) : Lease := ⟨0, 4, 3, unitId 1 0 3 2, 0, 0, 8192, [], 50, rev⟩
def leasing (tick : Nat) (rev : Option (Nat × Nat)) : State :=
  { State.putCtx live 3 openCtx with tick := tick, flt := { live.flt with leases := [leaseOf rev] } }

theorem wit_lease : (leasing 50 none).flt.leases[0]? = some (leaseOf none) ∧ (leaseOf none).revoking = none ∧
    (leaseOf none).expiry ≤ (leasing 50 none).tick ∧ (leaseOf none).kind ≠ 2 ∧ (leaseOf none).kind ≠ 3 ∧
    (leasing 49 none).tick < (leaseOf none).expiry ∧ (leasing 50 (some (3, 1))).flt.leases[0]? = some (leaseOf (some (3, 1))) ∧
    (leaseOf (some (3, 1))).revoking = some (3, 1) ∧ live.flt.ringEn = false := by decide +kernel

/-- A reorder lease of stream (3, 2, channel 4) with a packet held, and the stage lease of a collective, both expired. -/
def reordering : State := { leased (lease [writePkt padBase]) with
  tick := 50
  flt := { live.flt with leases := [⟨2, 4, 3, leaseUnit 1, 2 * 16 + 4, 0, 0, [], 50, none⟩] } }
def stageRun : ColRun := { (default : ColRun) with job := 3, ch := 4, fid := 2, opcode := 0x41, bytes := agS }
def staging : State := { State.putCtx live 3 openCtx with
  tick := 50
  cols := [stageRun]
  flt := { live.flt with leases := [⟨3, 4, 3, unitId 1 0 3 2, 2, 0, 64, [], 50, none⟩] } }

theorem wit_leases : (unitName (leaseUnit 1)).die = 1 ∧
    (reordering.ldies[1]).leases.find? (fun r => r.job == 3 && r.srcRank * 16 + r.channel == 36 && !r.sys) =
      some (lease [writePkt padBase]) ∧
    staging.cols.find? (fun c => c.job == 3 && c.fid == 2) = some stageRun ∧
    staging.cols.find? (fun c => c.job == 3 && c.ch == stageRun.ch) = some stageRun ∧
    (staging.ctx 3).state = .opened ∧ (staging.ctx 3).colFlt.bit 8 = false := by decide +kernel

theorem test_leases : ((next (exec (.leaseExpiry 0) reordering)).ldies[1]).leases.map (fun r => (r.held, r.closed)) = [([], true)] ∧
    ((next (exec (.leaseExpiry 0) staging)).ctx 3).colFlt.field 3 0 = 6 := by decide +kernel

theorem test_lease : (next (exec (.leaseExpiry 0) (leasing 50 none))).flt.leases.map (·.revoking) = [some (50, 1)] ∧
    (next (exec (.leaseExpiry 0) (leasing 49 none))).flt.leases.map (·.revoking) = [none] ∧
    (next (exec (.leaseRevokeDone 0) (leasing 50 (some (3, 1))))).flt.leases = [] := by decide +kernel

def dueAt : State := { live with tick := live.dueAfter 3 }
def testing : State := dueAt.modCDie 1 (fun c => { c with vus := upd c.vus 5 (fun x => x.begin 0) })

theorem wit_tests : unitName (unitId 1 1 3 5) = ⟨1, 1, 3, 5⟩ ∧ (dueAt.cdies[1]).vus[5].state = .inService ∧
    (dueAt.cdies[1]).vus[5].test.passStart + dueAt.dueAfter 3 ≤ dueAt.tick ∧ dueAt.mayTest 1 3 = true ∧
    live.tick < (live.cdies[1]).vus[5].test.passStart + live.dueAfter 3 ∧ (testing.cdies[1]).vus[5].state = .underTest ∧
    (testing.cdies[1]).vus[5].test.unfencing = false ∧ (live.cdies[1]).vus[5].state ≠ .underTest := by decide +kernel

/-- A copy channel, a bank and a spare tile that are due; a vector unit that UNFENCE sent to its test. -/
def dueOf (n : Nat) : State := { live with tick := live.dueAfter n }

theorem wit_dues : unitName (unitId 1 1 4 5) = ⟨1, 1, 4, 5⟩ ∧ ((dueOf 4).cdies[1]).cps[5].state = .inService ∧
    ((dueOf 4).cdies[1]).cps[5].test.passStart + (dueOf 4).dueAfter 4 ≤ (dueOf 4).tick ∧
    unitName (unitId 1 1 2 5) = ⟨1, 1, 2, 5⟩ ∧ ((dueOf 2).cdies[1]).banks[5].state = .inService ∧
    ((dueOf 2).cdies[1]).banks[5].test.passStart + (dueOf 2).dueAfter 2 ≤ (dueOf 2).tick ∧ (dueOf 2).mayTest 1 2 = true ∧
    ((dueOf 2).cdies[1]).banks[5].pos = some 5 ∧ ((dueOf 2).cdies[1]).spareBank = some 48 ∧
    unitName (unitId 1 1 1 130) = ⟨1, 1, 1, 130⟩ ∧ ((dueOf 1).cdies[1]).tiles[130].role = .spare ∧
    ((dueOf 1).cdies[1]).tiles[130].state = .idle ∧ (dueOf 1).mayTest 1 1 = true ∧
    ((dueOf 1).cdies[1]).tiles[130].test.passStart + (dueOf 1).dueAfter 1 ≤ (dueOf 1).tick ∧
    testable (unitId 1 1 3 5) = true ∧ testing.unitStat (unitId 1 1 3 5) = 4 ∧ testable (unitId 2 1 0x13 0) = false ∧
    (((fencedVu.modCDie 2 (fun c => { c with vus := upd c.vus 5 (fun x =>
      { x with state := .underTest, test := x.test.unfence 0 }) })).cdies[2]).vus[5]).test.unfencing = true := by decide +kernel

/-- Tile 5 of C-die 1 due for its test; a list that has no slack left. -/
def migrating (tick : Nat) : State :=
  { live with tick := tick }.modTile 1 5 (fun t => { t with test := { t.test with due := true } })
def slackless (tick : Nat) : State := State.putQ (State.putCtx (migrating tick) 3 openCtx) 3 0
  { running [[]] with lists := [{ admitted 1 with engines := [0, 1, 2, 3], adm := 5 }] }

theorem wit_migration : ((migrating 5).cdies[1]).tiles[5].test.due = true ∧ ((migrating 5).cdies[1]).tiles[5].role = .service ∧
    (migrating 5).atBoundary 1 5 = true ∧ (migrating 5).mayTest 1 1 = true ∧ (migrating 5).slackOn 1 = true ∧
    ((migrating 5).cdies[1]).spareTile = some 128 ∧ (slackless 996).slackOn 1 = false ∧ (slackless 996).atBoundary 1 5 = true ∧
    (slackless 996).tick < ((slackless 996).cdies[1]).tiles[5].test.passStart + (slackless 996).dueAfter 1 + 3000000000 ∧
    ((slackless 996).cdies[1]).tiles[5].test.deferredSince = none := by decide +kernel

theorem wit_deferLimit : unitName (unitId 1 1 1 5) = ⟨1, 1, 1, 5⟩ ∧
    ((slackless (live.dueAfter 1 + 3000000000)).cdies[1]).tiles[5].test.passStart + live.dueAfter 1 + 3000000000 ≤
      (slackless (live.dueAfter 1 + 3000000000)).tick ∧ (slackless (live.dueAfter 1 + 3000000000)).mayTest 1 1 = true ∧
    live.heldTallies = [] := by decide +kernel

theorem test_tests : ((next (exec (.assayerTestDue (unitId 1 1 3 5)) dueAt)).cdies[1]).vus[5].state = .underTest ∧
    ((next (exec (.assayerTestPass (unitId 1 1 3 5)) testing)).cdies[1]).vus[5].state = .inService ∧
    ((next (exec (.assayerTestFail (unitId 1 1 3 5) default) testing)).cdies[1]).vus[5].state = .fenced ∧
    ((next (exec (.tileMigration 1 5) (migrating 5))).cdies[1]).tiles[5].state = .migrating ∧
    ((next (exec (.tileMigration 1 5) (slackless 996))).cdies[1]).tiles[5].state = .idle := by decide +kernel

/-- The record ring at 0x40000, of 2^6 records. -/
def ringOff : State := { live with flt := { live.flt with ringEn := false, head := 3, tail := 2, ringBase := 0x40000 } }
def ringOn : State := { live with flt := { live.flt with ringEn := true, ringLog2 := 6, ringBase := 0x40000, head := 5 } }

theorem wit_ring : ringOff.flt.ringEn = false ∧ 6 ≤ (6 : Word).field 4 0 ∧ (20 : Word).field 4 0 ≤ 20 ∧
    ringPlace ringOff.flt.ringBase (64 * 2 ^ (6 : Word).field 4 0) = true ∧
    ringPlace ringOff.flt.ringBase (64 * 2 ^ (20 : Word).field 4 0) = true ∧ (5 : Word).field 4 0 < 6 ∧
    20 < (21 : Word).field 4 0 ∧ ringOn.flt.ringEn = true ∧ ringOn.flt.ringLog2 < 32 ∧
    (63 : Word).field 19 0 < 2 ^ ringOn.flt.ringLog2 ∧ 2 ^ ringOn.flt.ringLog2 ≤ (64 : Word).field 19 0 := by decide +kernel

theorem test_ring : (next (exec (.ringEnable .hostA 6) ringOff)).flt.ringEn = true ∧
    (next (exec (.ringEnable .hostA 5) ringOff)).flt.ringEn = false ∧
    320 ∈ (next (exec (.ringTailWrite .hostA 4) ringOn)).evc.cond ∧
    320 ∉ (next (exec (.ringTailWrite .hostA 5) ringOn)).evc.cond := by decide +kernel

/-- Every event unmasked, routed everywhere, above its threshold; three pending. -/
def eventful : State := { live with evc := { live.evc with
  pend := [5, 40, 322], mask := Vector.replicate 32 0, routes := Vector.replicate 128 0x77777777, groupEn := 0xFFFFFFFF,
  thresh := Vector.replicate 6 0x7FF } }

theorem wit_events : levelEvent 322 = false ∧ reservedEvent 322 = false ∧ levelEvent 320 = true ∧
    eventful.access .hostA .evcPending = .atOnce ∧ eventful.access .hostA .evcMasks = .atOnce ∧
    eventful.evc.lowest 0 0 = some 5 ∧ eventful.evc.lowest 0 1 = none ∧
    eventful.access .coreA (.evcBank 0) = .atOnce ∧ live.evc.insvc[bankIx 0 0] ≠ some ((5 : Word).field 9 0) := by
  decide +kernel

theorem wit_eventActs (r : AuditRec) : (∃ u, (State.login eventful .mgmt .installer).Acts .mgmt .evcMasks r u) ∧
    eventful.Acts .hostB .evcMasks r eventful ∧ eventful.access .jtag (.evcBank 0) = .refused :=
  ⟨⟨_, .inr ⟨⟨by decide +kernel, rfl, rfl, by decide +kernel⟩, rfl⟩⟩, .inl ⟨by decide +kernel, rfl⟩, by decide +kernel⟩

theorem wit_complete_event : ({ eventful with evc := { eventful.evc with insvc := Vector.replicate 6 (some 5) } } : State).evc.insvc[bankIx 0 0] =
    some ((5 : Word).field 9 0) := by decide +kernel

theorem test_events : (next (exec (.evcClaim .hostA 0 0) eventful)).rsp = .word 5 ∧
    (next (exec (.evcClaim .hostA 0 0) eventful)).evc.pend = [40, 322] ∧
    (next (exec (.evcClaim .hostA 0 1) eventful)).rsp = .word 1023 ∧
    (next (exec (.evcPendClr .hostA 10 4) eventful)).evc.pend = [5, 40] := by decide +kernel

def twoCores (a b : Core) : State := { live with cores := #v[a, b] }
def promoting : State := twoCores ⟨.failed, some 0, false, false⟩ ⟨.standby, none, true, false⟩
def restarting (fenced : Bool) : State := twoCores ⟨.restarting, some 0, false, fenced⟩ ⟨.active, none, false, false⟩

theorem wit_cores : live.cfg.activating = none ∧ (live.core 0).state = .active ∧ (live.core 1).state = .standby ∧
    (promoting.core 0).state = .failed ∧ (promoting.core 1).promoting = true ∧ (promoting.core 0).promoting = false ∧
    (promoting.core 0).fenced = false ∧ ((restarting false).core 0).state = .restarting ∧
    ((restarting false).core 0).fenced = false ∧ ((restarting true).core 0).fenced = true := by decide +kernel

/-- An activation of the standby slot under way: core 1 promotes for core 0's new firmware. -/
def activatingCores : State := { twoCores ⟨.failed, some 0, false, false⟩ ⟨.standby, none, true, false⟩ with
  cfg := { live.cfg with activating := some (0, 0) } }
def failingAgain : State := { restarting false with tick := 5 }

theorem wit_activating : activatingCores.cfg.activating = some (0, (otherCore 1).val) ∧
    (activatingCores.core 1).state = .standby ∧ (activatingCores.core 1).promoting = true ∧
    (activatingCores.core 0).promoting = false ∧ (failingAgain.core 0).failedLately failingAgain.tick = true ∧
    (∀ c : Fin 2, (live.core c).promoting = false) := by decide +kernel

theorem test_activating : (next (exec .standbyPromoted activatingCores)).cfg.fwSlot = 1 - live.cfg.fwSlot ∧
    ((next (exec .standbyPromoted activatingCores)).core 0).state = .restarting ∧
    ((next (exec (.coreRestartDone 0 .fail) failingAgain)).core 0).fenced = true ∧
    (next (exec (.serviceCoreFailure 0 true) { live with cfg := { live.cfg with activating := some (0, 0) } })).cfg.activating =
      none := by decide +kernel

theorem test_cores : ((next (exec (.serviceCoreFailure 0 true) live)).core 1).promoting = true ∧
    ((next (exec .standbyPromoted promoting)).core 1).state = .active ∧
    ((next (exec (.coreRestartDone 0 .pass) (restarting false))).core 0).state = .standby := by decide +kernel

/-! ### Host ports and the management port -/

def linkDown : State := { live with hdies := live.hdies.map (fun (d : HDie) => { d with linkUp := false }) }
/-- Host port A as operator, its BAR2 window at C-die 0's scratchpad. -/
def windowed : State := { State.login live .hostA .operator with
  hdies := live.hdies.map (fun (d : HDie) => { d with bar2Win := padBase })
  mem := { live.mem with pad := [(3, 7)] } }
def starting : State := live.setPwr (fun p => { p with state := .starting })

theorem wit_hostRequests : (linkDown.hdies[0]).down = true ∧ (live.hdies[0]).down = false ∧ 64 < 65 ∧ 0x43FFFC % 4 = 0 ∧
    0x43FFFC < 0x440000 ∧ live.roleOf (Requester.ofPort 0) = .none ∧ windowed.roleOf (Requester.ofPort 0) = .operator ∧
    256 + 256 ≤ 2 ^ (windowed.hdies[0]).bar2Log2 ∧ 256 ≤ 256 - ((windowed.hdies[0]).bar2Win + 256) % 256 ∧
    placeOf windowed ((windowed.hdies[0]).bar2Win + 256) = .pad 0 256 ∧
    bar2Reach windowed ((windowed.hdies[0]).bar2Win + 256) 256 = true ∧ windowed.pwr.state = .active ∧
    (windowed.hdies[0]).down = false ∧ live.cfg.inForce.group = 0 ∧ starting.ready = false ∧ (starting.hdies[0]).down = false ∧
    live.ready = true := by decide +kernel

/-- The proxy of a group, member 0, with a stream to member 1, and requests of its window and of an absent member's. -/
def memberX (closed : Bool) : SrcStream := { (default : SrcStream) with sys := true, dstRank := 1, closed := closed }
def proxied (closed : Bool := false) : State :=
  ({ live with cfg := { live.cfg with inForce := { live.cfg.inForce with group := 1, proxy := true, member := 0 } } } : State).modLDie 0
    (fun d => { d with streams := [memberX closed] })

theorem wit_proxied : (proxied.hdies[0]).down = false ∧ proxied.cfg.inForce.proxy = true ∧ proxied.cfg.inForce.group ≠ 0 ∧
    0x10000 / 0x40000 = proxied.cfg.inForce.member ∧ 0x10000 % 4 = 0 ∧ 0x80000 / 0x40000 ≠ proxied.cfg.inForce.member ∧
    proxied.memberStream (0x80000 / 0x40000) = none ∧ proxied.memberStream (0x40000 / 0x40000) = some (memberX false) ∧
    (proxied true).memberStream (0x40000 / 0x40000) = some (memberX true) ∧ (proxied.hdies[0]).msixWord 0x500000 = none ∧
    (live.hdies[0]).msixWord 0x5FFFFC = none ∧ 10 ≤ (0xA00 : Word).field 13 8 ∧ (0x1500 : Word).field 13 8 ≤ 21 ∧
    0x500000 % 4 + 4 ≤ 4 ∧ 0x440000 ≤ 0x500000 ∧ 0x43FFF8 + 4 < 0x440000 := by decide +kernel

theorem test_proxied : ((next (exec (.bar4Request 0 false 0x40000 4 []) proxied)).hdies[0]).bar4Waiting = [(1, 0x40000)] ∧
    (next (exec (.bar4Request 0 false 0x40000 4 []) (proxied true))).rsp = .completerAbort ∧
    (next (exec (.bar4Request 0 false 0x80000 4 []) proxied)).rsp = .bytes [0, 0, 0, 0] false ∧
    ((next (exec (.bar0Request 0 true 0x60000C 0 [0, 0, 0, 0]) live)).hdies[0]).msixMask.contains 0 = false := by decide +kernel

theorem test_hostRequests : (next (exec (.configurationRequest 0 false 0 0) live)).rsp = .word 0x04121F3D ∧
    (next (exec (.bar0Request 0 false 0 65 []) live)).rsp = .unsupportedRequest ∧
    (next (exec (.bar2Request 0 false 2 2 [] false) windowed)).rsp = .bytes [0, 7] false ∧
    (next (exec (.bar2Request 1 false 2 2 [] false) windowed)).rsp = .unsupportedRequest := by decide +kernel

def msixPort : State := { live with hdies := live.hdies.map (fun (d : HDie) => { d with msixEnable := true, pba := [129] }) }

theorem wit_hostPorts : live.railsUp = true ∧ (linkDown.hdies[0]).live = true ∧ (msixPort.hdies[1]).msixEnable = true ∧
    129 ∈ (msixPort.hdies[1]).pba ∧ 129 < 130 ∧
    (Instr.functionLevelReset 1 = .functionLevelReset 1 ∧ true = (live.hdies[1]).linkUp) := by decide +kernel

theorem wit_hostPortBounds : ((msixPort.hdies[1]).down = false) ∧ (linkDown.hdies[0]).down = true ∧
    hostKey 1 0x1000 / 64 ≤ hostKey 1 0x1000 / 64 ∧ hostKey 1 0x1000 / 64 < (hostKey 1 0x1000 + 1 + 63) / 64 ∧
    (live.hdies[1]).msixEnable = false ∧ ¬(7 ≤ 6) := by decide +kernel

theorem test_hostPorts : ((next (exec (.hotReset 1) msixPort)).hdies[1]).linkUp = false ∧
    ((next (exec (.functionLevelReset 1) msixPort)).hdies[1]).pba = [] ∧
    (next (exec (.msixEntryUnmask 1 129) msixPort)).outs = [.msix 1 129] ∧
    ((next (exec (.hostLinkUp 0 6 16 true) linkDown)).hdies[0]).width = 16 := by decide +kernel

/-- The management port comes up after 20 ms. -/
def managed : State := { live with tick := 500000 }
def agreed (v c a : Bool) : State :=
  { managed with mgmt := { managed.mgmt with versionSeen := v, capsSeen := c, algsSeen := a } }
def limiting : State := State.login managed .mgmt .operator
def newImage : Image := { Reset.image with serial := 7 }
def checking : State := { managed with cfg := { managed.cfg with transferOpen := true, staged := some newImage } }

theorem wit_management : ({ live with tick := 499999 } : State).mgmtUp = false ∧ managed.mgmtUp = true ∧
    slotField [0x85, 2] 1 1 = 2 ∧ managed.access .mgmt .adoptRight = .refused ∧
    (State.login managed .mgmt .installer).access .mgmt .installer ≠ .refused ∧
    (State.login managed .mgmt .installer).flashOk = true ∧ managed.cfg.adopting = false ∧ checking.cfg.transferOpen = true ∧
    checking.cfg.staged = some newImage ∧ imageCheck newImage checking.cfg = 0 ∧ checking.cfg.serial < newImage.serial ∧
    checking.mgmtUp = true ∧ managed.cfg.transferOpen = false ∧ managed.mgmt.versionSeen = false ∧
    managed.mgmt.capsSeen = false ∧ managed.mgmt.algsSeen = false ∧ (agreed true true true).mgmt.algsSeen = true ∧
    (agreed true true true).mgmtUp = true ∧ [extFalcon].contains extFalcon = true ∧ [extShake].contains extShake = true := by
  decide +kernel

/-- A power limit behind a record, a damaged and an old image, another firmware. -/
def limitedLate : State := { limiting with sec := { limiting.sec with pending := [⟨rowRec, .regWrite 0 0⟩] } }
def fwX : Firmware := ⟨[], 5, true⟩

theorem wit_management' : limitedLate.sec.pending ≠ [] ∧ limitedLate.sec.pending.length < 64 ∧
    limitedLate.sec.auditFail = false ∧ limitedLate.access .mgmt .adoptRight ≠ .refused ∧
    imageCheck { newImage with sigOk := false } checking.cfg = 3 ∧
    ({ newImage with serial := 0 } : Image).serial ≤ checking.cfg.serial ∧
    imageCheck { newImage with serial := 0 } checking.cfg = 0 ∧ managed.cfg.activating = none ∧
    ({ managed.cfg with activating := some (0, 0) } : Cfg).activating.isSome = true ∧ (agreed true false false).mgmt.versionSeen = true ∧
    (agreed true true false).mgmt.capsSeen = true ∧ [extShake].contains extFalcon = false ∧
    (agreed true true false).mgmt.algsSeen = false ∧ 4 ≠ 0xFF ∧ 3 ≤ 3 ∧ slotField [0x85, 9] 1 1 ∉ [1, 2, 4, 5] ∧
    (managed.setPwr (fun p => { p with state := .emergency })).flashOk = false := by decide +kernel

theorem test_firmware : ((next (exec (.pldmFirmwareUpdate (.firmware fwX)) managed)).cfg.fw[Fin.ofNat 2 (1 - managed.cfg.fwSlot)]).fw =
      some fwX ∧ (next (exec (.pldmSetPowerLimit 70000) limitedLate)).sec.pending.length = 2 ∧
    (next (exec .getCapabilities (agreed true false false))).mgmt.capsSeen = true := by decide +kernel

theorem wit_powerLimit : limiting.Grants .mgmt .adoptRight ∧ limiting.mgmtUp = true :=
  ⟨⟨by decide +kernel, rfl, rfl, by decide +kernel⟩, by decide +kernel⟩

theorem wit_early : Instr.getDigests ∈ [Instr.getDigests, .getCertificate 0 0 0, .challenge 0 [], .getMeasurements 0 []] ∧
    Instr.challenge 0 [] ∈ [Instr.challenge 0 [], .getMeasurements 1 []] ∧
    Instr.stageCheck ∉ [Instr.getDigests, .getCertificate 0 0 0, .challenge 0 [], .getMeasurements 0 []] := by decide

theorem test_management : (next (exec (.pldmSetPowerLimit 70000) limiting)).pwr.sustained = 4464 ∧
    (next (exec .stageCheck checking)).cfg.stagedValid = true ∧
    (next (exec .getVersion managed)).rsp = .bytes [0x10, 4, 0, 0, 0, 1, 0, 0x13] false ∧
    (next (exec .getDigests managed)).rsp = .bytes [0x13, 0x7F, 4, 0] false := by decide +kernel

/-! ### Sessions, trust, power -/

/-- A host port's requester in a session state. -/
def session (x : SessState) (tries lock : Nat) : State := live.modReq .hostA (fun q => { q with
  sess := x, tries := tries, lockUntil := lock, chalLive := true })

theorem wit_sessions : Requester.isHost .hostA = true ∧ ((session .none 0 0).reqOf .hostA).sess = .none ∧
    ((session .none 0 0).reqOf .hostA).chalLive = true ∧ (0x20 : Word).bit 1 = false ∧ (0x20 : Word).field 5 4 = 2 ∧
    ((session .verifying 1 0).reqOf .hostA).sess = .verifying ∧ ((session .verifying 1 0).reqOf .hostA).tries + 1 < 3 ∧
    3 ≤ ((session .verifying 2 0).reqOf .hostA).tries + 1 ∧ ((session .locked 0 0).reqOf .hostA).sess = .locked ∧
    ((session .locked 0 0).reqOf .hostA).lockUntil ≤ (session .locked 0 0).tick ∧
    (session .locked 0 1).tick < ((session .locked 0 1).reqOf .hostA).lockUntil := by decide +kernel

/-- A GO without a challenge, with and without a failure to come that locks. -/
def stale (tries : Nat) : State := (session .none tries 0).modReq .hostA (fun q => { q with chalLive := false })

theorem wit_failedGo : ((stale 1).reqOf .hostA).chalLive = false ∧ ((stale 1).reqOf .hostA).tries + 1 < 3 ∧
    3 ≤ ((stale 2).reqOf .hostA).tries + 1 ∧ Requester.isHost .mgmt = false ∧
    ((session .opened 0 0).reqOf .hostA).sess ≠ .verifying := by decide +kernel

def consoled (f : Console → Console) (sess : SessState) : State :=
  { live with con := f live.con }.modReq .console (fun q => { q with sess := sess })

theorem wit_console : live.pwr.vref = true ∧ (live.reqOf .console).sess ≠ .locked ∧
    ((consoled (fun c => { c with chalPending := true }) .none).reqOf .console).sess = .none ∧
    (consoled (fun c => { c with chalPending := true }) .none).con.chalPending = true ∧
    live.con.lastInput + 22500000000 ≤ ({ live with tick := 22500000000 } : State).tick ∧
    live.tick < live.con.lastInput + 22500000000 ∧ ((consoled id .locked).reqOf .console).sess = .locked ∧
    (consoled id .locked).con.lockUntil ≤ (consoled id .locked).tick := by decide +kernel

theorem wit_consoleTries : (consoled (fun c => { c with tries := 1 }) .none).con.tries + 1 < 3 ∧
    3 ≤ (consoled (fun c => { c with tries := 2 }) .none).con.tries + 1 ∧
    (consoled id .none).con.chalPending = false ∧ Role.operator ≠ .installer ∧ Role.operator ≠ .maker ∧
    (live.setPwr (fun p => { p with vref := false })).pwr.vref = false := by decide +kernel

theorem test_console :
    ((next (exec (.authGo .hostA 0x20) (stale 2))).reqOf .hostA).sess = .locked ∧
    ((next (exec (.auth .installer (some .pass)) (consoled (fun c => { c with chalPending := true }) .none))).roleOf .console) =
      .installer ∧
    ((next (exec (.auth .installer (some .fail)) (consoled (fun c => { c with tries := 2 }) .none))).reqOf .console).sess =
      .locked := by decide +kernel

theorem test_sessions : ((next (exec (.authGo .hostA 0x20) (session .none 0 0))).reqOf .hostA).sess = .verifying ∧
    ((next (exec (.authVerifyDone .hostA .fail) (session .verifying 2 0))).reqOf .hostA).sess = .locked ∧
    ((next (exec (.authLockExpire .hostA) (session .locked 0 1))).reqOf .hostA).sess = .locked ∧
    (next (exec (.sessionEnd .hostA) (State.login live .hostA .operator))).roleOf .hostA = .none := by decide +kernel

def staged : State := { State.login live .hostA .operator with
  cfg := { live.cfg with staged := some newImage, stagedValid := true } }

theorem wit_adopt : staged.Grants .hostA .adoptRight ∧ staged.cfg.adopting = false ∧ staged.cfg.transferOpen = false ∧
    staged.cfg.stagedValid = true ∧ staged.cfg.staged = some newImage ∧ imageCheck newImage staged.cfg = 0 ∧
    imageCheck { newImage with sigOk := false } staged.cfg ≠ 0 ∧ live.access .hostB .adoptRight = .refused ∧
    live.access .hostB .installer = .refused ∧ live.cfg.stagedValid = false :=
  ⟨⟨by decide +kernel, rfl, rfl, by decide +kernel⟩, by decide +kernel⟩

/-- Adoption behind a record, and during a transfer. -/
def stagedLate : State := { staged with sec := { staged.sec with pending := [⟨rowRec, .regWrite 0 0⟩] } }

theorem wit_adoptWaits : stagedLate.access .hostA .adoptRight ≠ .refused ∧ stagedLate.sec.pending ≠ [] ∧
    stagedLate.cfg.stagedValid = true ∧ stagedLate.cfg.transferOpen = false ∧
    checking.cfg.transferOpen = true := by decide +kernel

def activating : State := { State.login live .hostA .installer with cfg := { live.cfg with fw := #v[live.cfg.fw[0], live.cfg.fw[0]] } }
def aborting (tick : Nat) : State := { live with tick := tick, cfg := { live.cfg with activating := some (0, 0) } }

theorem wit_activate : activating.Grants .hostA .installer ∧ activating.cfg.activating = none ∧
    (activating.cfg.fw[Fin.ofNat 2 (1 - activating.cfg.fwSlot)]).valid activating.cfg.minSvn = true ∧
    (live.cfg.fw[Fin.ofNat 2 (1 - live.cfg.fwSlot)]).valid live.cfg.minSvn = false ∧
    (activating.core 0).state = .active ∧ (activating.core (otherCore 0)).state ≠ .active ∧
    (∀ k : Fin 2, ((twoCores ⟨.failed, some 0, true, true⟩ ⟨.standby, none, false, false⟩).core k).state ≠ .active) ∧
    (aborting 250000).cfg.activating = some (0, 0) ∧ 0 + 250000 ≤ (aborting 250000).tick ∧
    (aborting 249999).tick < 0 + 250000 :=
  ⟨⟨by decide +kernel, rfl, rfl, by decide +kernel⟩, by decide +kernel⟩

/-- Doorbells of context 3 counted for an hour; a TAP that is unlocked. -/
def rung : State := { State.putCtx live 3 { openCtx with doorbells := 4 } with tick := 90000000000 }

theorem wit_unlock : live.sec.auditFail = false ∧ live.sec.pending = [] ∧ live.flashOk = true ∧ stagedLate.sec.pending ≠ [] ∧
    live.tick < live.sec.lastDoorbell + 90000000000 ∧ rung.sec.lastDoorbell + 90000000000 ≤ rung.tick ∧
    live.sec.unlocked = false := by decide +kernel

theorem test_trust : (next (exec (.adopt .hostA) staged)).cfg.serial = 7 ∧
    ((next (exec (.activateFw .hostA) activating)).core 1).promoting = true ∧
    (next (exec (.jtagInstruction .idcode) live)).rsp = .word 0x204129A5 ∧
    (next (exec (.jtagUnlock .pass) live)).sec.unlocked = true ∧
    (next (exec .activateFwTimeout (aborting 250000))).cfg.activating = none ∧
    (next (exec (.adopt .hostA) stagedLate)).cfg.adopting = true ∧
    ((next (exec .doorbellAuditTimer rung)).ctx 3).doorbells = 0 := by decide +kernel

/-- Every C-die one or two points down by heat, 5 °C below THROTTLE since a tick. -/
def warm (thermOp : Nat) (since : Option Nat := some 0) : State :=
  { live with tick := 25000, cdies := live.cdies.map (fun (d : CDie) => { d with thermOp := thermOp, coolSince := since }) }

theorem wit_limits : live.railsUp = true ∧ live.pwr.peakNow < live.pwr.peakNow + 1 ∧
    live.pwr.sustainedNow < live.pwr.sustainedNow + 1 ∧ (0 : Nat) * 100 < live.pwr.sustainedNow * 95 ∧
    live.pwr.stepUpSince + 250000 ≤ ({ live with tick := 250000 } : State).tick ∧
    ({ live with tick := 249999 } : State).tick < live.pwr.stepUpSince + 250000 ∧
    live.pwr.sustainedNow * 95 ≤ live.pwr.sustainedNow * 100 ∧ ((warm 1).cdies[1]).thermSince + 25000 ≤ (warm 1).tick ∧
    (live.cdies[1]).thermOp = 0 ∧ live.tick < (live.cdies[1]).thermSince + 25000 ∧
    ((warm 2).cdies[1]).coolSince = some 0 ∧ 0 + 25000 ≤ (warm 2).tick ∧
    (warm 2).tick < ((warm 2 (some 1)).cdies[1]).coolSince.getD 0 + 25000 ∧
    (((warm 2).pwr.throttle * 16 : Nat) : Int) - 81 < (((warm 2).pwr.throttle * 16 : Nat) : Int) - 80 ∧
    live.pwr.conv ≠ 0 ∧ (live.setPwr (fun p => { p with conv := 0 })).pwr.conv = 0 ∧ 15 < classSize 6 2 0x50 ∧
    live.pwr.pPhases[2] ≠ 0 := by decide +kernel

theorem test_limits : ((next (exec (.limiterPeakStep (live.pwr.peakNow + 1)) live)).cdies[2]).powerOp = 1 ∧
    ((next (exec (.cdieThermalStepUp 1 0) (warm 2))).cdies[1]).thermOp = 1 ∧
    ((next (exec (.cdieThermalStepUp 1 0) (warm 2 (some 1)))).cdies[1]).thermOp = 2 ∧
    ((next (exec (.opChangeDone 1) (warm 2))).cdies[1]).op = 1 ∧
    (next (exec (.converterPhaseFail 3) live)).pwr.conv = 11 ∧
    ((next (exec (.regulatorPhaseFail 2 15) (live.setPwr (fun p => { p with pPhases := #v[24, 24, 12] })))).sdies[5]).powerHold =
      2 := by decide +kernel

def powered (x : PwrState) (f : Power → Power := id) (tick : Nat := 0) : State :=
  { live with tick := tick, pwr := f { live.pwr with state := x } }
def atRest : State := { live with
  pwr := { live.pwr with idleCfg := 0x30000 }
  sdies := live.sdies.map (fun (d : SDie) => { d with state := .selfRefresh }) }

theorem wit_emergency : live.pwr.state ≠ .off ∧ live.pwr.state ≠ .emergency ∧ 5399 < 5400 ∧ 7600 < 7601 ∧
    3 ≤ (unitName (unitId 3 1 0 0)).dieType ∧ (powered .emergency id 625000).pwr.emergencyAt + 625000 ≤ 625000 ∧
    624999 < (powered .emergency id 624999).pwr.emergencyAt + 625000 ∧ (powered .off).pwr.state = .off ∧
    (powered .off (fun p => { p with pwrEn := true, thermtripN := true })).pwr.pwrEn = true ∧
    (powered .off (fun p => { p with pwrEn := true, thermtripN := true })).pwr.thermtripN = true ∧ 5700 ≤ 5700 := by decide +kernel

theorem wit_power : (powered .standby (fun p => { p with phase := 2, pwrEn := false })).pwr.phase = 2 ∧
    (powered .standby (fun p => { p with phase := 2, pwrEn := false })).pwr.pwrEn = false ∧
    (powered .active (fun p => { p with pwrEn := true })).pwr.pwrEn = true ∧ live.pwr.state = .active ∧ live.ready = true ∧
    (powered .standby).ready = false ∧ (powered .standby).pwr.phase = live.pwr.phase ∧
    (powered .standby (fun p => { p with phase := 0 })).pwr.phase = 0 ∧
    (powered .standby (fun p => { p with phase := 1 }) 50000000).pwr.startTick[0] + 50000000 ≤
      (powered .standby (fun p => { p with phase := 1 }) 50000000).tick ∧ live.railsUp = true ∧
    (∀ rail : Fin 12, live.pwr.orderFlt.testBit rail.val = false) := by decide +kernel

theorem wit_rest : atRest.pwr.state = .active ∧ atRest.pwr.idleCfg.bit 16 = true ∧ atRest.restful = true ∧
    (∀ st : SIx, (atRest.sdies[st]).state ≠ .normal) ∧ (oneCmd 1 addS).restful = false ∧
    (atRest.setPwr (fun p => { p with state := .idle })).pwr.idleCfg.bit 17 = true ∧
    (atRest.setPwr (fun p => { p with state := .idle })).pwr.idleSince +
      (atRest.setPwr (fun p => { p with state := .idle })).pwr.idleCfg.field 31 24 * 25000 ≤ atRest.tick ∧
    (∀ j : JobIx, (atRest.ctx j).state = .free) ∧ (powered .deepIdle).pwr.state = .deepIdle := by decide +kernel

theorem test_power : (next (exec (.brownOut 5399) live)).pwr.state = .emergency ∧
    (next (exec (.brownOut 5400) live)).pwr.state = .active ∧
    (next (exec .pwrEnRise (powered .standby (fun p => { p with phase := 2, pwrEn := false })))).pwr.state = .starting ∧
    (next (exec (.railFault 2) live)).pwr.state = .safe ∧ (next (exec .idleEntry atRest)).pwr.state = .idle ∧
    (next (exec .wake (powered .deepIdle))).pwr.state = .active := by decide +kernel

/-- Start-up in a phase: the stacks and ports as the phase leaves them. -/
def phased (n : Nat) (st : StackState := .normal) (p : PortState := .up) : State :=
  { powered .starting (fun x => { x with phase := n }) with
    sdies := live.sdies.map (fun (d : SDie) => { d with state := st })
    ldies := live.ldies.map (fun (d : LDie) => { d with ports := d.ports.map (fun (x : Port) => { x with state := p }) }) }
/-- Phase 1 with an image that holds, with a damaged one and with none. -/
def booting (i : Option (Nat × Image)) : State :=
  { powered .standby (fun p => { p with phase := 1 }) with cfg := { live.cfg with
    copies := #v[i.map (fun x => (x.2, 1)), none] } }

theorem wit_boot : live.cfg.bootSlot [] = some 0 ∧ live.cfg.bootSlot [0] = none ∧ (booting none).cfg.active = none ∧
    (booting (some (0, newImage))).cfg.active = some (0, newImage) ∧ imageCheck newImage (booting none).cfg = 0 ∧
    imageCheck { newImage with sigOk := false } (booting none).cfg ≠ 0 ∧ (booting none).pwr.state = .standby ∧
    (booting none).pwr.phase = 1 := by decide +kernel

theorem wit_phases : (phased 2).pwr.state = .starting ∧ (∀ k, k < 12 → (0xFFF : Nat).testBit k = true) ∧
    (∀ st : SIx, ((phased 3 .training).sdies[st]).state = .training) ∧ (∀ st : SIx, ((phased 3).sdies[st]).state ≠ .training) ∧
    (∀ (l : LIx) (p : PortIx), ((phased 4 .normal .training).port l p).state = .training) ∧
    (∀ (l : LIx) (p : PortIx), ((phased 4).port l p).state ≠ .training) ∧
    (∀ (d : CIx) (i : TileIx), ((phased 5).cdies[d]).tiles[i].state ≠ .fenced) ∧
    (powered .starting (fun p => { p with phase := 3 }) 100000000).pwr.phaseStart + phaseLimit 3 ≤ 100000000 ∧
    99999999 < (powered .starting (fun p => { p with phase := 3 }) 99999999).pwr.phaseStart + phaseLimit 3 := by
  decide +kernel

theorem test_phases : (next (exec (.startPhaseDone default) (phased 3 .training))).pwr.phase = 3 ∧
    (next (exec (.startPhaseDone default) (phased 3))).pwr.phase = 4 ∧
    ((next (exec (.startPhaseDone default) (phased 4))).cdies[3]).tiles[135].state = .underTest ∧
    (next (exec (.startPhaseDone default) (phased 5))).pwr.state = .active ∧
    (next (exec (.startPhaseDone default) (booting (some (0, newImage))))).cfg.serial = 7 ∧
    (next (exec (.startPhaseDone default) (booting none))).pwr.safeCause = 1 := by decide +kernel

/-- Rest that has not lasted IDLE_DELAY, and deep idle's contexts with and without a scratchpad region. -/
def restless : State := { atRest with tick := 2, pwr := { atRest.pwr with idleCfg := 0x10003, busyAt := 0 } }

theorem wit_idles : restless.pwr.idleCfg.bit 16 = true ∧ restless.tick < restless.pwr.busyAt + restless.pwr.idleCfg.field 15 0 ∧
    atRest.pwr.busyAt + atRest.pwr.idleCfg.field 15 0 ≤ atRest.tick ∧
    (∀ x ∈ openCtx.regions, x.kind ≠ 2) ∧ (powered .idle).pwr.state = .idle ∧
    (∀ j, (live.queue j 2).inflight = []) ∧ live.pwr.orderFlt.testBit 2 = false ∧
    (powered .emergency).railsUp = false := by decide +kernel

theorem test_idles : (next (exec .idleEntry restless)).pwr.state = .active ∧
    ((next (exec .wake (powered .deepIdle (fun p => p) 9))).cdies[2]).wakeEnd = 1259 ∧
    (next (exec (.dieReset (.l 1)) (leased (lease [])))).ldies[1].leases = [] := by decide +kernel

theorem wit_reset : State.reset.mem.dram = [] ∧ State.reset.sec.log = [] ∧ State.reset.pending = [] := ⟨rfl, rfl, rfl⟩

theorem test_start : (next (exec (.startPhaseDone default) (powered .standby (fun p => { p with phase := 0 })))).pwr.phase = 1 ∧
    (next (exec .startPhaseTimeout (powered .standby (fun p => { p with phase := 1 }) 50000000))).pwr.state = .safe ∧
    (next (exec .startPhaseTimeout (powered .standby (fun p => { p with phase := 1 }) 49999999))).pwr.state = .standby := by
  decide +kernel

end Sys2Proof.Tests
end

section
/-! The registers (chapter 0, R4, R5, R7, R10): what the commands REGISTER_WRITE, READ_LOW_WORD, WRITE_HIGH_WORD and
READ_CLEAR make of a register whose kind is known. -/

namespace Sys2Proof.Machine

variable (s : State) (rq : Requester)

/-! ### Addresses -/

theorem regBase_add_four_sub (addr : Nat) : addr + 4 - regBase - 4 = addr - regBase := by omega

/-! ### Writes -/

/-- A narrow or an unaligned write is an error record and nothing else (R4). -/
theorem State.writeAt_bad (addr size : Nat) (v : Word) (h : size < 4 ∨ addr % 4 ≠ 0) :
    ∃ reason, s.writeAt rq addr size v = s.regAccess rq addr reason := by
  unfold State.writeAt
  by_cases hs : size < 4
  · exact ⟨1, if_pos hs⟩
  · have ha : (addr % 4 != 0) = true := bne_iff_ne.2 (h.resolve_left hs)
    exact ⟨2, (if_neg hs).trans (if_pos ha)⟩

theorem State.writeAt_aligned (addr : Nat) (v : Word) (h : addr % 4 = 0) :
    s.writeAt rq addr 4 v = s.writeWord rq addr v := by
  unfold State.writeAt
  rw [if_neg (by decide), if_neg (by simp [h])]

theorem exec_registerWrite (addr size : Nat) (v : Word) :
    exec (.registerWrite rq addr size v) s = .next (s.writeAt rq addr size v) := rfl

theorem exec_writeHighWord (addr : Nat) (v : Word) :
    exec (.writeHighWord rq addr v) s = .next (s.writeAt rq addr 4 v) := rfl

/-- A write at an unpopulated offset is ignored (R10). -/
theorem State.writeWord_unpopulated (addr : Nat) (v : Word) (h : regAt (addr - regBase) = none) :
    s.writeWord rq addr v = s := by
  unfold State.writeWord
  dsimp only
  rw [h]
  exact ite_self s

/-- No register that a command of its own writes is open to anyone. -/
theorem Reg.no_own_command_of_anyone (r : Reg) (hr : r.right = some .anyone) :
    r ≠ .ctxCmd ∧ (∀ j e, r ≠ .qCtrl j e ∧ r ≠ .qTail j e) ∧ r ≠ .fenceCtrl ∧ r ≠ .secCmd := by
  refine ⟨?_, fun j e => ⟨?_, ?_⟩, ?_, ?_⟩ <;> rintro rfl <;> cases hr

/-- A register open to anyone takes an aligned write at once (R519). -/
theorem State.writeAt_anyone (addr : Nat) (v : Word) (r : Reg) (hi : Bool) (hbase : regBase ≤ addr)
    (halign : addr % 4 = 0) (hheld : s.pageHeld (addr - regBase) = false) (hreg : regAt (addr - regBase) = some (r, hi))
    (hr : r.right = some .anyone) : s.writeAt rq addr 4 v = s.applyAt rq (addr - regBase) v := by
  rw [State.writeAt_aligned _ _ _ _ halign,
    State.writeWord_by_right _ _ _ _ r hi .anyone hbase hheld hreg hr (Reg.no_own_command_of_anyone r hr)]
  rfl

/-- A single register open to anyone is set at once. -/
theorem exec_registerWrite_single (addr : Nat) (v : Word) (r : Reg) (hbase : regBase ≤ addr)
    (halign : addr % 4 = 0) (hheld : s.pageHeld (addr - regBase) = false)
    (hreg : regAt (addr - regBase) = some (r, false))
    (hr : r.right = some .anyone) (hw : r.wide = false) :
    exec (.registerWrite rq addr 4 v) s = .next (s.setReg rq r v.toNat) := by
  rw [exec_registerWrite, State.writeAt_anyone _ _ _ _ _ _ hbase halign hheld hreg hr,
    State.applyAt_single _ _ _ _ _ hheld hreg hw]

/-- Bits 47 to 12 of a pair, in place, from its two words. -/
theorem bitsOf_joinWords_page (lo hi : Word) :
    bitsOf (joinWords lo hi) 47 12 * 4096 = (hi.field 15 0 * 2 ^ 32 + lo.toNat) / 4096 * 4096 := by
  have hlo := lo.isLt
  simp only [bitsOf, joinWords, Word.field]
  omega

/-- The low word of FLT_TALLY_BASE is kept for its requester (R5, R548). -/
theorem registerWrite_tallyBase_low (addr : Nat) (v : Word) (hbase : regBase ≤ addr)
    (halign : addr % 4 = 0) (hheld : s.pageHeld (addr - regBase) = false)
    (hreg : regAt (addr - regBase) = some (.tallyBase, false)) :
    exec (.registerWrite rq addr 4 v) s = .next (s.modReq rq (fun q =>
      { q with writeLatch := relatch q.writeLatch (latchKey .tallyBase (addr - regBase)) v })) := by
  rw [exec_registerWrite, State.writeAt_anyone _ _ _ _ _ _ hbase halign hheld hreg Reg.right_tallyBase,
    State.applyAt_low _ _ _ _ _ hheld hreg rfl]

/-- WRITE_HIGH_WORD of FLT_TALLY_BASE takes effect with the low word kept (R5, R548). -/
theorem writeHighWord_tallyBase (addr : Nat) (v low : Word) (hbase : regBase ≤ addr)
    (halign : addr % 4 = 0) (hheld : s.pageHeld (addr + 4 - regBase) = false)
    (hreg : regAt (addr + 4 - regBase) = some (.tallyBase, true))
    (hl : latched (s.reqOf rq).writeLatch (latchKey .tallyBase (addr - regBase)) = some low) :
    exec (.writeHighWord rq (addr + 4) v) s = .next ((s.modReq rq (fun q =>
      { q with writeLatch := unlatch q.writeLatch (latchKey .tallyBase (addr - regBase)) })).setFlt (fun f =>
      { f with tallyBase := (v.field 15 0 * 2 ^ 32 + low.toNat) / 4096 * 4096 })) := by
  rw [exec_writeHighWord, State.writeAt_anyone _ _ _ _ _ _ (by omega) (by omega) hheld hreg Reg.right_tallyBase,
    State.applyAt_high _ _ _ _ _ hheld hreg, regBase_add_four_sub, hl, Option.getD_some, State.setReg_tallyBase,
    bitsOf_joinWords_page]

/-! ### Reads -/

theorem exec_readLowWord (addr : Nat) : exec (.readLowWord rq addr) s = .next (s.readAnswer rq addr) := rfl

theorem exec_readClear (addr : Nat) : exec (.readClear rq addr) s = .next (s.readAnswer rq addr) := rfl

theorem lowWord_toNat (w : Word) : lowWord w.toNat = w := (BitVec.ofNat_toNat 32 w).trans (BitVec.setWidth_eq w)

theorem State.readWordAt_unpopulated (x : Nat) (h : regAt x = none) : s.readWordAt rq x = (0, s) := by
  unfold State.readWordAt
  rw [h]

/-- A read at an unpopulated offset returns zero (R10). -/
theorem State.readAnswer_unpopulated (addr : Nat) (hbase : regBase ≤ addr) (halign : addr % 4 = 0)
    (h : regAt (addr - regBase) = none) : s.readAnswer rq addr = s.answer (.word 0) := by
  rw [State.readAnswer_aligned _ _ _ halign, State.readWord_above _ _ _ hbase, State.readWordAt_unpopulated _ _ _ h]

theorem State.reqOf_modReq_answer (f : ReqState → ReqState) (a : Answer) :
    ((s.modReq rq f).answer a).reqOf rq = f (s.reqOf rq) := State.reqOf_modReq s rq f

/-- What a change of one requester's latches and an answer leave unchanged. -/
theorem State.modReq_answer_frame (f : ReqState → ReqState) (a : Answer) :
    (∀ q, q ≠ rq → ((s.modReq rq f).answer a).reqOf q = s.reqOf q) ∧
      { (s.modReq rq f).answer a with req := s.req, rsp := s.rsp } = s :=
  ⟨fun q hq => State.reqOf_modReq_other s rq q f (Ne.symm hq), rfl⟩

/-- READ_LOW_WORD of a pair (R5). -/
theorem exec_readLowWord_pair (addr : Nat) (r : Reg) (hw : r.wide = true) (hbase : regBase ≤ addr)
    (halign : addr % 4 = 0) (hheld : s.pageHeld (addr - regBase) = false)
    (hreg : regAt (addr - regBase) = some (r, false)) :
    exec (.readLowWord rq addr) s = .next ((s.modReq rq (fun q => { q with
      readLatch := relatch q.readLatch (latchKey r (addr - regBase)) (highWord (s.regValue rq r)) })).answer
        (.word (lowWord (s.regValue rq r)))) := by
  rw [exec_readLowWord, State.readAnswer_reg _ _ _ _ _ hbase halign hheld hreg, State.readReg_low _ _ _ hw]

/-- The read of the high word that follows it (R5). -/
theorem exec_readLowWord_high (addr : Nat) (r : Reg) (w : Word) (hw : r.wide = true) (hbase : regBase ≤ addr)
    (halign : addr % 4 = 0) (hheld : s.pageHeld (addr + 4 - regBase) = false)
    (hreg : regAt (addr + 4 - regBase) = some (r, true))
    (hl : latched (s.reqOf rq).readLatch (latchKey r (addr - regBase)) = some w) :
    exec (.readLowWord rq (addr + 4)) s = .next ((s.modReq rq (fun q => { q with
      readLatch := unlatch q.readLatch (latchKey r (addr - regBase)) })).answer (.word w)) := by
  rw [← regBase_add_four_sub] at hl
  rw [exec_readLowWord, State.readAnswer_reg _ _ _ _ _ (by omega) (by omega) hheld hreg,
    State.readReg_high _ _ _ hw _ _ hl, regBase_add_four_sub]

/-- READ_CLEAR answers what the read of the register gives, in the state that the read leaves (R7). -/
theorem exec_readClear_reg (addr : Nat) (r : Reg) (w : Word) (t : State) (hbase : regBase ≤ addr)
    (halign : addr % 4 = 0) (hheld : s.pageHeld (addr - regBase) = false)
    (hreg : regAt (addr - regBase) = some (r, false))
    (hr : s.readReg rq r false (addr - regBase) = (lowWord w.toNat, t)) :
    exec (.readClear rq addr) s = .next (t.answer (.word w)) := by
  rw [exec_readClear, State.readAnswer_reg _ _ _ _ _ hbase halign hheld hreg, hr, lowWord_toNat]

end Sys2Proof.Machine

namespace Sys2Proof.Proofs

open Sys2Proof.Machine

/-- Settles O33: with no register at the offset, the read has no value and the write no register to go to. -/
theorem unpopulatedOffsetsIgnored : Obligations.UnpopulatedOffsetsIgnored := by
  intro rq addr v s hbase halign h
  constructor
  · rw [exec_readLowWord, State.readAnswer_unpopulated _ _ _ hbase halign h]
    rfl
  · rw [exec_registerWrite, State.writeAt_aligned _ _ _ _ halign, State.writeWord_unpopulated _ _ _ _ h]

/-- Settles O30: scoreboards and the job status are single registers open to anyone; a narrow or an unaligned write is a
record. -/
theorem registerWriteTakesEffect : Obligations.RegisterWriteTakesEffect := by
  intro rq addr v s
  refine ⟨fun j k hbase halign hheld hreg => ?_, fun j hbase halign hheld hreg => ?_, fun size h => ?_⟩
  · rw [exec_registerWrite_single _ _ _ _ _ hbase halign hheld hreg (Reg.right_sb j k) rfl, State.setReg_sb,
      BitVec.ofNat_toNat, BitVec.setWidth_eq]
    rfl
  · rw [exec_registerWrite_single _ _ _ _ _ hbase halign hheld hreg (Reg.right_jobStatus j) rfl, State.setReg_jobStatus,
      BitVec.ofNat_toNat, BitVec.setWidth_eq]
    rfl
  · obtain ⟨reason, hbad⟩ := State.writeAt_bad s rq addr size v h
    exact ⟨_, by rw [exec_registerWrite, hbad], State.regAccess_reports s rq addr reason⟩

/-- Settles O32: the latches by the two reads and the two writes of a pair, the counters by the read of each. -/
theorem pairsLatchAndCountersClear : Obligations.PairsLatchAndCountersClear := by
  intro rq addr v low s hbase halign
  refine ⟨fun r hw => ⟨fun hreg hheld => ⟨_, exec_readLowWord_pair s rq addr r hw hbase halign hheld hreg, rfl, ?_,
        State.modReq_answer_frame s rq _ _⟩,
      fun w hreg hheld hl => ⟨_, exec_readLowWord_high s rq addr r w hw hbase halign hheld hreg hl, rfl, ?_,
        State.modReq_answer_frame s rq _ _⟩⟩,
    fun hreg hheld => registerWrite_tallyBase_low s rq addr v hbase halign hheld hreg,
    fun hreg hheld hl => writeHighWord_tallyBase s rq addr v low hbase halign hheld hreg hl,
    fun hheld => ⟨fun st hreg => ?_, fun st hreg => ?_, fun l hreg => ?_, fun h hreg => ?_, fun hreg => ?_⟩⟩
  · rw [State.reqOf_modReq_answer, latched_relatch]
  · rw [State.reqOf_modReq_answer, latched_unlatch]
  · exact exec_readClear_reg s rq addr _ _ _ hbase halign hheld hreg (State.readReg_eccCnt s rq st _)
  · exact exec_readClear_reg s rq addr _ _ _ hbase halign hheld hreg (State.readReg_thermCnt s rq st _)
  · exact exec_readClear_reg s rq addr _ _ _ hbase halign hheld hreg (State.readReg_dropCnt s rq l _)
  · exact exec_readClear_reg s rq addr _ _ _ hbase halign hheld hreg (State.readReg_errCnt s rq h _)
  · exact exec_readClear_reg s rq addr _ _ _ hbase halign hheld hreg (State.readReg_leaseCnt s rq _)

end Sys2Proof.Proofs
end

section
/-! Numbers (R38, R41, R55 to R57): the value of a magnitude code in units of the smallest, its order, and the rounding of a value
that a format holds. -/

namespace Sys2Proof.Machine

/-! ### Fractions of powers of two -/

theorem pow2den_pos (e : Int) : 0 < pow2den e := Nat.two_pow_pos _

theorem pow2num_pos (e : Int) : 0 < pow2num e := Nat.two_pow_pos _

/-- A comparison of multiples of powers of two depends on the difference of the exponents alone. -/
theorem mul_two_pow_le_iff (m n : Nat) {a b x y : Nat} (h : x + b = y + a) :
    m * 2 ^ x ≤ n * 2 ^ y ↔ m * 2 ^ a ≤ n * 2 ^ b := by
  have hm : m * 2 ^ x * 2 ^ b = m * 2 ^ a * 2 ^ y := by
    rw [Nat.mul_assoc, ← Nat.pow_add, h, Nat.add_comm, Nat.pow_add, Nat.mul_assoc]
  have hn : n * 2 ^ y * 2 ^ b = n * 2 ^ b * 2 ^ y := Nat.mul_right_comm _ _ _
  rw [← Nat.mul_le_mul_right_iff (Nat.two_pow_pos b), hm, hn, Nat.mul_le_mul_right_iff (Nat.two_pow_pos y)]

/-- Two fractions `m × 2^e` compared by cross multiplication, as the roundings compare them. -/
theorem fraction_le_iff (m n : Nat) {e k : Int} {a b : Nat} (h : e + b = k + a) :
    m * pow2num e * pow2den k ≤ n * pow2num k * pow2den e ↔ m * 2 ^ a ≤ n * 2 ^ b := by
  unfold pow2num pow2den
  rw [Nat.mul_assoc, Nat.mul_assoc, ← Nat.pow_add, ← Nat.pow_add]
  exact mul_two_pow_le_iff m n (by omega)

theorem log2_mul_two_pow (m k : Nat) (hm : m ≠ 0) : Nat.log2 (m * 2 ^ k) = Nat.log2 m + k := by
  have hk : 0 < 2 ^ k := Nat.two_pow_pos k
  rw [Nat.log2_eq_iff (Nat.mul_ne_zero hm (Nat.ne_of_gt hk)), Nat.add_right_comm, Nat.pow_add, Nat.pow_add _ _ k]
  exact ⟨Nat.mul_le_mul_right _ (Nat.log2_self_le hm), Nat.mul_lt_mul_of_pos_right Nat.lt_log2_self hk⟩

theorem ilog2_scaled (m : Nat) (e : Int) (hm : m ≠ 0) :
    ilog2 (m * pow2num e) (pow2den e) = Nat.log2 m + e := by
  have hl : (Nat.log2 (m * pow2num e) : Int) - Nat.log2 (pow2den e) = Nat.log2 m + e := by
    rw [pow2num, pow2den, log2_mul_two_pow _ _ hm, Nat.log2_two_pow]
    omega
  have hle : 1 * pow2num (Nat.log2 m + e) * pow2den e ≤ m * pow2num e * pow2den (Nat.log2 m + e) := by
    rw [fraction_le_iff 1 m (a := Nat.log2 m) (b := 0) (by omega), Nat.one_mul, Nat.pow_zero, Nat.mul_one]
    exact Nat.log2_self_le hm
  rw [Nat.one_mul, Nat.mul_comm (pow2num _)] at hle
  unfold ilog2
  dsimp only
  rw [hl, if_neg (Nat.not_lt.2 hle)]

/-- A multiple of the quantum rounds to itself and takes no draw. -/
theorem roundQ_multiple (mode : Rnd) (g : Gen) (m : Nat) (e : Int) :
    roundQ mode g (m * pow2num e) (pow2den e) e = (m, g) := by
  have hd : 0 < pow2den e * pow2num e := Nat.mul_pos (pow2den_pos e) (pow2num_pos e)
  have hn : m * pow2num e * pow2den e = m * (pow2den e * pow2num e) := by rw [Nat.mul_assoc, Nat.mul_comm (pow2num e)]
  unfold roundQ
  dsimp only
  rw [hn, if_pos (Nat.mul_mod_left _ _), Nat.mul_div_cancel _ hd]

/-! ### Magnitudes (R38) -/

variable (f : Fp) {c d : Nat}

/-- The exponent field of a magnitude code. -/
def Fp.expField (c : Nat) : Nat := c / 2 ^ f.mbits

/-- The mantissa field of a code. -/
def Fp.mantField (c : Nat) : Nat := c % 2 ^ f.mbits

/-- The value of a magnitude code, in units of the smallest subnormal value. -/
def Fp.units (c : Nat) : Nat := (f.magnitude c).1 * 2 ^ (f.expField c - 1)

theorem Fp.magnitude_subnormal (h : f.expField c = 0) :
    f.magnitude c = (f.mantField c, 1 - (f.bias : Int) - f.mbits) := if_pos h

theorem Fp.magnitude_normal (h : f.expField c ≠ 0) :
    f.magnitude c = (f.mantField c + 2 ^ f.mbits, (f.expField c : Int) - f.bias - f.mbits) := if_neg h

/-- The exponent field and the mantissa field make the code. -/
theorem Fp.code_eq_fields (c : Nat) : f.expField c * 2 ^ f.mbits + f.mantField c = c := Nat.div_add_mod' _ _

theorem Fp.expField_le (h : c ≤ d) : f.expField c ≤ f.expField d := Nat.div_le_div_right h

theorem Fp.mantField_lt (c : Nat) : f.mantField c < 2 ^ f.mbits := Nat.mod_lt _ (Nat.two_pow_pos _)

theorem Fp.eq_zero_of_mantissa (h : (f.magnitude c).1 = 0) : c = 0 := by
  by_cases hE : f.expField c = 0
  · rw [f.magnitude_subnormal hE] at h
    dsimp only at h
    rw [← f.code_eq_fields c, hE, h, Nat.zero_mul]
  · rw [f.magnitude_normal hE] at h
    exact absurd h (Nat.ne_of_gt (Nat.add_pos_right _ (Nat.two_pow_pos _)))

/-- The exponent of a magnitude over that of the smallest subnormal value. -/
theorem Fp.magnitude_exponent (c : Nat) :
    (f.magnitude c).2 = 1 - (f.bias : Int) - f.mbits + (f.expField c - 1 : Nat) := by
  by_cases hE : f.expField c = 0
  · rw [f.magnitude_subnormal hE, hE]
    dsimp only
    omega
  · rw [f.magnitude_normal hE]
    dsimp only
    omega

/-- A magnitude lies below the next power of two after its exponent field. -/
theorem Fp.units_lt (c : Nat) : f.units c < 2 ^ (f.mbits + f.expField c) := by
  have hm := f.mantField_lt c
  unfold Fp.units
  by_cases hE : f.expField c = 0
  · rw [f.magnitude_subnormal hE, hE]
    dsimp only
    rwa [Nat.zero_sub, Nat.pow_zero, Nat.mul_one, Nat.add_zero]
  · rw [f.magnitude_normal hE]
    dsimp only
    have hm' : f.mantField c + 2 ^ f.mbits < 2 ^ (f.mbits + 1) := by rw [Nat.pow_succ]; omega
    have he : f.mbits + f.expField c = f.mbits + 1 + (f.expField c - 1) := by omega
    rw [he, Nat.pow_add]
    exact Nat.mul_lt_mul_of_pos_right hm' (Nat.two_pow_pos _)

/-- A magnitude with an exponent field is at least that power of two. -/
theorem Fp.le_units (hE : f.expField c ≠ 0) : 2 ^ (f.mbits + (f.expField c - 1)) ≤ f.units c := by
  rw [Fp.units, f.magnitude_normal hE, Nat.pow_add]
  exact Nat.mul_le_mul_right _ (Nat.le_add_left _ _)

/-- Magnitude codes are ordered as their values are. -/
theorem Fp.units_lt_units (hcd : c < d) : f.units c < f.units d := by
  obtain hE | hE := Nat.lt_or_eq_of_le (f.expField_le (Nat.le_of_lt hcd))
  · calc f.units c < 2 ^ (f.mbits + f.expField c) := f.units_lt c
      _ ≤ 2 ^ (f.mbits + (f.expField d - 1)) := Nat.pow_le_pow_right Nat.two_pos (by omega)
      _ ≤ f.units d := f.le_units (by omega)
  · have hm : f.mantField c < f.mantField d := by
      have hc := f.code_eq_fields c
      have hd := f.code_eq_fields d
      rw [hE] at hc
      omega
    have hmag : (f.magnitude c).1 < (f.magnitude d).1 := by
      by_cases h0 : f.expField c = 0
      · rwa [f.magnitude_subnormal h0, f.magnitude_subnormal (hE ▸ h0)]
      · rw [f.magnitude_normal h0, f.magnitude_normal (hE ▸ h0)]
        exact Nat.add_lt_add_right hm _
    rw [Fp.units, Fp.units, hE]
    exact Nat.mul_lt_mul_of_pos_right hmag (Nat.two_pow_pos _)

/-- Two values that a format holds, compared by cross multiplication. -/
theorem Fp.fraction_le_iff_units (c d : Nat) :
    (f.magnitude c).1 * pow2num (f.magnitude c).2 * pow2den (f.magnitude d).2 ≤
      (f.magnitude d).1 * pow2num (f.magnitude d).2 * pow2den (f.magnitude c).2 ↔ f.units c ≤ f.units d :=
  fraction_le_iff _ _ (by rw [f.magnitude_exponent c, f.magnitude_exponent d]; omega)

/-! ### Rounding what a format holds (R55 to R57) -/

/-- The quantum of a format at a value that it holds is the exponent of that value's code. -/
theorem Fp.quantum_magnitude (h : (f.magnitude c).1 ≠ 0) :
    f.quantum ((f.magnitude c).1 * pow2num (f.magnitude c).2) (pow2den (f.magnitude c).2) = (f.magnitude c).2 := by
  rw [Fp.quantum, ilog2_scaled _ _ h]
  by_cases hE : f.expField c = 0
  · rw [f.magnitude_subnormal hE] at h ⊢
    have hl := (Nat.log2_lt h).2 (f.mantField_lt c)
    dsimp only at hl ⊢
    omega
  · have hl : Nat.log2 (f.mantField c + 2 ^ f.mbits) = f.mbits := by
      have hm := f.mantField_lt c
      rw [Nat.log2_eq_iff (Nat.ne_of_gt (Nat.add_pos_right _ (Nat.two_pow_pos _))), Nat.pow_succ]
      omega
    rw [f.magnitude_normal hE]
    dsimp only
    rw [hl]
    omega

variable (mode : Rnd) (g : Gen)

theorem Fp.roundCode_magnitude (h : (f.magnitude c).1 ≠ 0) :
    f.roundCode mode g ((f.magnitude c).1 * pow2num (f.magnitude c).2) (pow2den (f.magnitude c).2) = (c, g) := by
  unfold Fp.roundCode
  simp only [f.quantum_magnitude h, roundQ_multiple, Prod.mk.injEq, and_true]
  have hc := f.code_eq_fields c
  by_cases hE : f.expField c = 0
  · rw [f.magnitude_subnormal hE]
    simpa [hE] using hc
  · rw [f.magnitude_normal hE]
    have he : ((f.expField c : Int) - f.bias - f.mbits + f.mbits - (1 - f.bias)).toNat + 1 =
      f.expField c := by omega
    dsimp only
    rw [← Nat.add_assoc, Nat.add_right_comm, ← Nat.succ_mul, Nat.succ_eq_add_one, he, hc]

/-- A finite value rounds to its own code where overflow saturates (R57). -/
theorem Fp.roundSat_magnitude (h : c ≤ f.maxCode) :
    f.roundSat mode g ((f.magnitude c).1 * pow2num (f.magnitude c).2) (pow2den (f.magnitude c).2) = (c, g) := by
  unfold Fp.roundSat
  dsimp only
  by_cases hm : (f.magnitude c).1 = 0
  · rw [if_pos (by rw [hm, Nat.zero_mul]), f.eq_zero_of_mantissa hm]
  · rw [if_neg (Nat.mul_ne_zero hm (Nat.ne_of_gt (pow2num_pos _)))]
    split
    case isTrue hmax =>
      have hv : f.units f.maxCode ≤ f.units c := (f.fraction_le_iff_units _ _).1 hmax
      have hc : f.maxCode ≤ c := Nat.not_lt.1 fun hlt => Nat.not_lt.2 hv (f.units_lt_units hlt)
      rw [Nat.le_antisymm h hc]
    case isFalse =>
      rw [f.roundCode_magnitude mode g hm]
      exact congrArg (·, g) (Nat.min_eq_left h)

/-- A finite value rounds to its own code where overflow gives an infinity (R74): the bias puts it below the power of two
at which the format overflows. -/
theorem Fp.roundIeee_magnitude (hb : 2 ^ f.ebits = 2 * f.bias + 2) (h : c < f.infCode) :
    f.roundIeee mode g ((f.magnitude c).1 * pow2num (f.magnitude c).2) (pow2den (f.magnitude c).2) = (c, g) := by
  have hE : f.expField c < 2 ^ f.ebits - 1 := Nat.div_lt_of_lt_mul (by rwa [Nat.mul_comm])
  have hv : f.units c < 2 ^ (2 * f.bias + f.mbits) :=
    Nat.lt_of_lt_of_le (f.units_lt c) (Nat.pow_le_pow_right Nat.two_pos (by omega))
  have hover : ¬ 2 ^ (f.bias + 1) * pow2den (f.magnitude c).2 ≤ (f.magnitude c).1 * pow2num (f.magnitude c).2 := by
    intro hle
    have hcross : 1 * pow2num (f.bias + 1 : Nat) * pow2den (f.magnitude c).2 ≤
        (f.magnitude c).1 * pow2num (f.magnitude c).2 * pow2den (f.bias + 1 : Nat) := by
      have hden : pow2den (f.bias + 1 : Nat) = 1 := by rw [pow2den, Int.toNat_neg_natCast, Nat.pow_zero]
      rwa [hden, Nat.mul_one, Nat.one_mul, pow2num, Int.toNat_natCast]
    have hpow := (fraction_le_iff 1 _ (a := 2 * f.bias + f.mbits) (b := f.expField c - 1)
      (by rw [f.magnitude_exponent c]; omega)).1 hcross
    rw [Nat.one_mul] at hpow
    exact Nat.not_lt.2 hpow hv
  unfold Fp.roundIeee
  by_cases hm : (f.magnitude c).1 = 0
  · rw [if_pos (by rw [hm, Nat.zero_mul]), f.eq_zero_of_mantissa hm]
  · rw [if_neg (Nat.mul_ne_zero hm (Nat.ne_of_gt (pow2num_pos _))), if_neg hover, f.roundCode_magnitude mode g hm]
    exact congrArg (·, g) (Nat.min_eq_left (Nat.le_of_lt h))

/-! ### Codes with a sign -/

/-- A finite code is a magnitude up to the format's largest under its sign bit. -/
theorem Fp.decode_fin {code m : Nat} {neg : Bool} {e : Int} (h : f.decode code = .fin neg m e) :
    code % f.signAt ≤ f.maxCode ∧ neg = (code / f.signAt % 2 == 1) ∧ f.magnitude (code % f.signAt) = (m, e) := by
  unfold Fp.decode at h
  dsimp only at h
  split at h
  case isTrue hc =>
    injection h with hn hm he
    exact ⟨hc, hn.symm, Prod.ext hm he⟩
  case isFalse => split at h <;> cases h

theorem Fp.signed_fields {code : Nat} (h : code < 2 * f.signAt) :
    f.signed (code / f.signAt % 2 == 1) (code % f.signAt) = code := by
  have hc := Nat.div_add_mod code f.signAt
  have hs : code / f.signAt < 2 := Nat.div_lt_of_lt_mul (by rwa [Nat.mul_comm])
  generalize code / f.signAt = s at *
  unfold Fp.signed
  obtain h0 | h1 : s = 0 ∨ s = 1 := by omega
  · simpa [h0] using hc
  · simpa [h1] using hc

theorem Fp.lt_infCode (hs : f.special = .ieee) (hb : 2 ^ f.ebits = 2 * f.bias + 2) (h : c ≤ f.maxCode) : c < f.infCode := by
  have hp : 0 < f.infCode := Nat.mul_pos (by omega) (Nat.two_pow_pos _)
  rw [Fp.maxCode, hs] at h
  dsimp only at h
  omega

/-! ### Block scales (R41) -/

theorem scaleValue_mx (c b : Nat) (h : isMx c = true) :
    scaleValue c b = if b = 0xFF then .nan else .fin false 1 ((b : Int) - 127) := if_pos h

end Sys2Proof.Machine

namespace Sys2Proof.Proofs

open Sys2Proof.Machine

/-- The IEEE formats of Table 2-2 have the bias that leaves their top exponent field to infinity and NaN. -/
theorem bias_of_ieee : ∀ f ∈ [Fp.e2m1, Fp.e2m3, Fp.e3m2, Fp.e4m3, Fp.e5m2, Fp.bf16, Fp.fp32],
    f.special = .ieee → 2 ^ f.ebits = 2 * f.bias + 2 := by decide

/-- Settles O35: a finite code is a sign and a magnitude up to the format's largest, and both ways of rounding give back
such a magnitude. -/
theorem exactValuesKeepTheirCode : Obligations.ExactValuesKeepTheirCode := by
  refine ⟨fun f hf mode g code m neg e hcode hdec => ?_, fun c b hmx => ⟨fun hb => ?_, ?_⟩⟩
  · obtain ⟨hmax, rfl, hmag⟩ := f.decode_fin hdec
    have hsat := f.roundSat_magnitude mode g hmax
    rw [hmag] at hsat
    refine ⟨by rw [hsat], by rw [hsat, f.signed_fields hcode], fun hs => ?_⟩
    have hb := bias_of_ieee f hf hs
    have hieee := f.roundIeee_magnitude mode g hb (f.lt_infCode hs hb hmax)
    rw [hmag] at hieee
    unfold Fp.encode
    dsimp only
    rw [hieee, f.signed_fields hcode]
  · rw [scaleValue_mx c b hmx, if_neg (by omega)]
  · rw [scaleValue_mx c 255 hmx, if_pos rfl]

end Sys2Proof.Proofs
end

section
/-! Deliveries in stream order (R394, R401 to R403): what a delivery command makes of the lease it is given, and when a
WRITE or an ADD is refused, waits or takes place. -/

namespace Sys2Proof.Machine

/-! ### The commands -/

/-- Every delivery command delivers the next packet of its lease by what its packet's kind does. -/
theorem exec_packetDelivery {l : LIx} {k : Nat} {c : Instr} {kind : PktKind}
    {f : State → Reorder → Packet → Option (State × Bool)} (h : (c, kind, f) ∈ packetDeliveries l k) (s : State) :
    exec c s = .next (s.deliver l k kind f) := by
  simp only [packetDeliveries, List.mem_cons, Prod.mk.injEq, List.not_mem_nil, or_false] at h
  obtain ⟨rfl, rfl, rfl⟩ | ⟨rfl, rfl, rfl⟩ | ⟨rfl, rfl, rfl⟩ | ⟨rfl, rfl, rfl⟩ | ⟨rfl, rfl, rfl⟩ | ⟨rfl, rfl, rfl⟩ |
    ⟨rfl, rfl, rfl⟩ := h <;> rfl

/-! ### What a lease delivers -/

variable {s : State} {l : LIx} {k : Nat} {kind : PktKind} {f : State → Reorder → Packet → Option (State × Bool)}
variable {r : Reorder} {p : Packet}

theorem State.deliver_no_lease (hl : s.leaseAt l k = none) : s.deliver l k kind f = s := by
  unfold State.deliver
  rw [hl]

theorem State.deliver_not_ready (hl : s.leaseAt l k = some r) (hr : r.ready = none) : s.deliver l k kind f = s := by
  unfold State.deliver
  rw [hl]
  dsimp only
  rw [hr]

/-- The next packet of a lease, where the lease and the packet are known. -/
theorem State.deliver_ready (hl : s.leaseAt l k = some r) (hr : r.ready = some p) :
    s.deliver l k kind f = if p.kind != kind then s
      else if p.format != 0 && !dtypeKnown p.format then (s.formatFault l p).delivered l r p true
      else (f s r p).elim s (fun u => u.1.delivered l r p u.2) := by
  unfold State.deliver
  rw [hl]
  dsimp only
  rw [hr]
  dsimp only
  cases f s r p <;> rfl

theorem State.deliver_other_kind (hl : s.leaseAt l k = some r) (hr : r.ready = some p) (hk : p.kind ≠ kind) :
    s.deliver l k kind f = s := by
  rw [State.deliver_ready hl hr, if_pos (bne_iff_ne.2 hk)]

/-- A packet of a kind whose FORMAT no table gives faults (R36, log 137). -/
theorem State.deliver_bad_format (hl : s.leaseAt l k = some r) (hr : r.ready = some p) (hk : p.kind = kind)
    (h0 : p.format ≠ 0) (hf : dtypeKnown p.format = false) :
    s.deliver l k kind f = (s.formatFault l p).delivered l r p true := by
  rw [State.deliver_ready hl hr, if_neg (by simp [hk]), if_pos (by simp [h0, hf])]

theorem format_known (hf : p.format = 0 ∨ dtypeKnown p.format = true) :
    ¬ (p.format != 0 && !dtypeKnown p.format) = true := by
  obtain h | h := hf
  · simp [h]
  · simp [h]

theorem State.deliver_waits (hl : s.leaseAt l k = some r) (hr : r.ready = some p) (hk : p.kind = kind)
    (hf : p.format = 0 ∨ dtypeKnown p.format = true) (hw : f s r p = none) : s.deliver l k kind f = s := by
  rw [State.deliver_ready hl hr, if_neg (by simp [hk]), if_neg (format_known hf), hw]
  rfl

theorem State.deliver_goes {u : State} {err : Bool} (hl : s.leaseAt l k = some r) (hr : r.ready = some p)
    (hk : p.kind = kind) (hf : p.format = 0 ∨ dtypeKnown p.format = true) (hu : f s r p = some (u, err)) :
    s.deliver l k kind f = u.delivered l r p err := by
  rw [State.deliver_ready hl hr, if_neg (by simp [hk]), if_neg (format_known hf), hu]
  rfl

/-! ### The lease after a delivery, and its ACK (R402) -/

/-- The state in which a lease expects the SEQ after a packet's. -/
def State.stepLease (s : State) (l : LIx) (r : Reorder) (p : Packet) (err : Bool) : State :=
  s.modLDie l (fun d => { d with leases := modFirst (fun x => x.same r) (fun x => x.step p err s.tick) d.leases })

theorem State.delivered_eq (err : Bool) :
    s.delivered l r p err = match (s.stepLease l r p err).ldies[l].leases.find? (fun x => x.same r) with
      | some x => if 16 ≤ x.sinceAck then (s.stepLease l r p err).sendAck l x else s.stepLease l r p err
      | none => s.stepLease l r p err := rfl

/-- A delivery before the 16th since the last ACK sends none. -/
theorem State.delivered_few (err : Bool)
    (h : ∀ x, (s.stepLease l r p err).ldies[l].leases.find? (fun x => x.same r) = some x → x.sinceAck < 16) :
    s.delivered l r p err = s.stepLease l r p err := by
  rw [State.delivered_eq]
  split
  case h_1 x hx => rw [if_neg (Nat.not_le.2 (h x hx))]
  case h_2 => rfl

/-- The 16th delivery since the last ACK sends one. -/
theorem State.delivered_sixteenth {x : Reorder} (err : Bool)
    (hx : (s.stepLease l r p err).ldies[l].leases.find? (fun x => x.same r) = some x) (h : 16 ≤ x.sinceAck) :
    s.delivered l r p err = (s.stepLease l r p err).sendAck l x := by
  rw [State.delivered_eq, hx]
  exact if_pos h

/-! ### A FORMAT that no table gives (R36, R275, R394; log 137) -/

theorem State.formatFault_reports (s : State) (l : LIx) (p : Packet) : s.Reports (s.formatFault l p) :=
  (State.record_reports s _).trans (State.raise_reports _ _)

theorem jobEvent_pends {j : Nat} (h : j < 64) : neverPends (64 + j) = false ∧ levelEvent (64 + j) = false := by
  simp only [neverPends, reservedEvent, levelEvent, Bool.or_eq_false_iff, Bool.and_eq_false_iff, decide_eq_false_iff_not,
    beq_eq_false_iff_ne]
  omega

theorem State.formatFault_pend (s : State) (l : LIx) (hj : p.job < 64) : 64 + p.job ∈ (s.formatFault l p).evc.pend :=
  State.raise_pend _ _ (jobEvent_pends hj).1 (jobEvent_pends hj).2

theorem State.Reports.leases {t : State} (h : s.Reports t) (l : LIx) : t.ldies[l].leases = s.ldies[l].leases := by
  have e := congrArg LDie.leases (h.ldies l)
  exact e

theorem State.stepLease_leases (s : State) (l : LIx) (r : Reorder) (p : Packet) (err : Bool) :
    (s.stepLease l r p err).ldies[l].leases =
      modFirst (fun x => x.same r) (fun x => x.step p err s.tick) s.ldies[l].leases :=
  congrArg LDie.leases (State.ldie_modLDie s l _)

/-- A report and the step of a lease, in either order, leave the same leases. -/
theorem State.Reports.stepLease_leases {t : State} (h : s.Reports t) (l : LIx) (r : Reorder) (p : Packet) (err : Bool) :
    (t.stepLease l r p err).ldies[l].leases = (s.stepLease l r p err).ldies[l].leases := by
  rw [State.stepLease_leases, State.stepLease_leases, h.leases, h.tick]

/-- An update of the leases of an L-die keeps what a report has left. -/
theorem State.Reports.modLeases {t : State} (h : s.Reports t) (l : LIx) (g : List Reorder → List Reorder) :
    (s.modLDie l (fun d => { d with leases := g d.leases })).Reports
      (t.modLDie l (fun d => { d with leases := g d.leases })) :=
  { h with
    ldies := fun i => by
      by_cases e : l = i
      · subst e
        rw [State.ldie_modLDie, State.ldie_modLDie]
        exact congrArg (fun d : LDie => { d with leases := g d.leases }) (h.ldies l)
      · rw [State.modLDie_ldies, State.modLDie_ldies, upd_other _ _ _ _ e, upd_other _ _ _ _ e]
        exact h.ldies i }

theorem State.Reports.stepLease {t : State} (h : s.Reports t) (l : LIx) (r : Reorder) (p : Packet) (err : Bool) :
    (s.stepLease l r p err).Reports (t.stepLease l r p err) := by
  unfold State.stepLease
  rw [h.tick]
  exact h.modLeases l _

/-! ### WRITE and ADD (R394, R403) -/

theorem deliverWrite_refused (r : Reorder) (h : writable s p false = false) : deliverWrite s r p = some (s, true) := by
  unfold deliverWrite
  rw [if_pos (by simp [h])]

theorem deliverWrite_waits (r : Reorder) (h : writable s p false = true) (hw : stackWaits s p.addr = true) :
    deliverWrite s r p = none := by
  unfold deliverWrite
  rw [if_neg (by simp [h]), if_pos hw]

theorem deliverAdd_refused (l : LIx) (r : Reorder) (h : writable s p true = false ∨ addFormat p.format = false) :
    deliverAdd l s r p = some (s, true) := by
  unfold deliverAdd
  obtain h | h := h
  · rw [if_pos (by simp [h])]
  · rw [if_pos (by simp [h])]

theorem deliverAdd_waits (l : LIx) (r : Reorder) (h : writable s p true = true) (ha : addFormat p.format = true)
    (hw : stackWaits s p.addr = true) : deliverAdd l s r p = none := by
  unfold deliverAdd
  rw [if_neg (by simp [h, ha]), if_pos hw]

/-- A payload of one 64-byte unit has its first unit alone. -/
theorem Packet.units_one (h0 : 0 < p.length) (h64 : p.length ≤ 64) (hp : p.length ≤ p.payload.length) :
    Packet.units p = [(0, p.payload.take p.length, p.poison.testBit 0)] := by
  have hlen : (p.payload.take p.length).length = p.length := by rw [List.length_take, Nat.min_eq_left hp]
  have hfirst : ((p.payload.take p.length).drop (64 * 0)).take 64 = p.payload.take p.length := by
    rw [Nat.mul_zero, List.drop_zero, List.take_of_length_le (by omega)]
  have hrest : ∀ u, 0 < u → ((p.payload.take p.length).drop (64 * u)).take 64 = [] := fun u hu => by
    rw [List.drop_of_length_le (by omega), List.take_nil]
  have hne : p.payload.take p.length ≠ [] := List.ne_nil_of_length_pos (by omega)
  have hrange : List.range 4 = [0, 1, 2, 3] := rfl
  unfold Packet.units
  rw [hrange]
  simp only [List.map_cons, List.map_nil, hfirst, hrest 1 (by decide), hrest 2 (by decide), hrest 3 (by decide)]
  exact List.filter_cons_of_pos (bne_iff_ne.2 hne)

/-- A WRITE of one unit writes its payload with its poison. -/
theorem deliverWrite_one (r : Reorder) (h : writable s p false = true) (hw : stackWaits s p.addr = false)
    (h0 : 0 < p.length) (h64 : p.length ≤ 64) (hp : p.length ≤ p.payload.length) :
    deliverWrite s r p =
      some (writeMem s (some p.job) p.addr (p.payload.take p.length) .stream (p.poison.testBit 0), false) := by
  unfold deliverWrite
  rw [if_neg (by simp [h]), if_neg (by simp [hw]), Packet.units_one h0 h64 hp]
  rfl

end Sys2Proof.Machine

namespace Sys2Proof.Proofs

open Sys2Proof.Machine

/-- Settles O44: the delivery commands are one function of the lease, its next packet and what the packet's kind does. -/
theorem packetsDeliverInOrder : Obligations.PacketsDeliverInOrder := by
  intro l k s c kind f hc
  simp only [exec_packetDelivery hc]
  refine ⟨fun hl => by rw [State.deliver_no_lease hl], ?_, ?_, ?_⟩
  · rintro r hl (hr | ⟨p, hr, hk⟩)
    · rw [State.deliver_not_ready hl hr]
    · rw [State.deliver_other_kind hl hr hk]
  · intro r p hl hr hk
    refine ⟨fun hf => ⟨fun hw => by rw [State.deliver_waits hl hr hk hf hw], fun u err x hu hx => ?_⟩,
      fun h0 hf hj hfew => ?_⟩
    · rw [State.deliver_goes hl hr hk hf hu]
      refine ⟨fun hlt => ?_, fun hle => ?_⟩
      · rw [State.delivered_few err (fun y hy => by cases hx.symm.trans hy; exact hlt)]
        rfl
      · rw [State.delivered_sixteenth err hx hle]
        rfl
    · have hrep := State.formatFault_reports s l p
      rw [State.deliver_bad_format hl hr hk h0 hf, State.delivered_few true (by
        rw [hrep.stepLease_leases]; exact hfew)]
      exact ⟨_, rfl, State.formatFault_pend s l hj, hrep.stepLease l r p true⟩
  · intro r p
    exact ⟨deliverWrite_refused r, deliverAdd_refused l r, deliverWrite_waits r, deliverAdd_waits l r, deliverWrite_one r⟩

end Sys2Proof.Proofs
end

section
/-! Tiles and storms (R112, R115, R153, R154): what a tile that wakes, a tile that is gated, a trip of the storm rule and the end of
its window make of the state. -/

namespace Sys2Proof.Machine

/-! ### One part of the state replaced -/

theorem upd_upd {α : Type} {n : Nat} (v : Vector α n) (i : Fin n) (f g : α → α) :
    upd (upd v i f) i g = upd v i (fun x => g (f x)) := by
  simp [upd]

theorem State.modCtx_modCtx (s : State) (j : JobIx) (f g : Ctx → Ctx) :
    (s.modCtx j f).modCtx j g = s.modCtx j (fun c => g (f c)) :=
  congrArg (fun v => { s with ctxs := v }) (upd_upd s.ctxs j f g)

/-! ### Tiles awake and gated -/

variable (s : State) (d : CIx) (t : TileIx) (j : JobIx)

theorem exec_tileWakeDone : exec (.tileWakeDone d t) s = .next (
    if (s.cdies[d]).tiles[t].state == .waking then
      s.modTile d t (fun _ => { (s.cdies[d]).tiles[t] with state := .idle, idleSince := s.tick })
    else s) := rfl

theorem exec_tileGate : exec (.tileGate d t) s = .next (
    if (s.cdies[d]).tiles[t].state == .idle && (s.cdies[d]).loomCtrl.bit 0 &&
        decide ((s.cdies[d]).tiles[t].idleSince + (s.cdies[d]).loomCtrl.field 23 8 ≤ s.tick) then
      s.modTile d t (fun _ => { (s.cdies[d]).tiles[t] with state := .off })
    else s) := rfl

/-! ### The storm rule -/

theorem exec_stormTrip : exec (.stormTrip d j) s = .next (
    if (s.ctx j).stormCfg.field 31 24 != 0 && !(s.cdies[d]).ctxs[j].tripped &&
        decide ((s.ctx j).stormCfg.field 15 0 < (s.cdies[d]).ctxs[j].winCount) then
      (((s.modCDie d (fun c => { c with ctxs := upd c.ctxs j (fun x => { x with tripped := true }) })).modCtx j
        (fun c => c.storm (s.cdies[d]).ctxs[j].winStep)).setStatus j jsStorm).raise (192 + j.val)
    else s) := rfl

theorem Ctx.storm_eq (c : Ctx) (step : Word) : c.storm step = { c with
    stormStat := (c.stormStat.setField 31 31 1).bump 30 16 1
    stormEnd := BitVec.ofNat 32 (max c.stormEnd.toNat (min (step.toNat + c.stormCfg.field 31 24) 0xFFFFFFFF)) } := rfl

/-- The storm of a context and its job status are one update of the context. -/
theorem State.storm_setStatus (step : Word) :
    (s.modCtx j (fun c => c.storm step)).setStatus j jsStorm = s.modCtx j (fun x => { x with
      stormStat := (x.stormStat.setField 31 31 1).bump 30 16 1
      stormEnd := BitVec.ofNat 32 (max x.stormEnd.toNat (min (step.toNat + x.stormCfg.field 31 24) 0xFFFFFFFF))
      jobStatus := x.jobStatus ||| Word.at' 1 jsStorm }) := by
  rw [State.setStatus, State.modCtx_modCtx]
  exact congrArg (s.modCtx j) (funext fun c => by rw [Ctx.storm_eq])

theorem exec_stormWindowEnd : exec (.stormWindowEnd d j) s = .next (
    if (s.cdies[d]).ctxs[j].winStart / 2 ^ (s.ctx j).stormCfg.field 20 16 < s.tick / 2 ^ (s.ctx j).stormCfg.field 20 16 then
      s.modCDie d (fun c => { c with
        ctxs := upd c.ctxs j (fun x => { x with winCount := 0, winStart := s.tick, tripped := false }) })
    else s) := rfl

/-- The storm events 192 to 255 are edge events that pend. -/
theorem stormEvent_pends : neverPends (192 + j.val) = false ∧ levelEvent (192 + j.val) = false := by
  have hj := j.isLt
  simp only [neverPends, reservedEvent, levelEvent, Bool.or_eq_false_iff, Bool.and_eq_false_iff, decide_eq_false_iff_not,
    beq_eq_false_iff_ne]
  omega

end Sys2Proof.Machine

namespace Sys2Proof.Proofs

open Sys2Proof.Machine

/-- Settles O29: each of the four commands acts under one condition, and otherwise changes nothing. -/
theorem tilesAndStormsFollowTheirRules : Obligations.TilesAndStormsFollowTheirRules := by
  intro d t j s
  refine ⟨fun h => ?_, fun h => ?_, fun hidle hen hhyst => ?_, fun h => ?_, fun hextra htrip hlimit => ?_, fun h => ?_,
    fun h => ?_, fun h => ?_⟩
  · rw [exec_tileWakeDone, if_pos (beq_iff_eq.2 h)]
  · rw [exec_tileWakeDone, if_neg (mt beq_iff_eq.1 h)]
  · rw [exec_tileGate, hidle, hen, decide_eq_true hhyst]
    rfl
  · rw [exec_tileGate, if_neg]
    simp only [Bool.and_eq_true, beq_iff_eq, decide_eq_true_eq]
    rintro ⟨⟨hidle, hen⟩, hhyst⟩
    obtain h | h | h := h
    · exact h hidle
    · exact Bool.eq_false_iff.1 h hen
    · exact Nat.not_le.2 h hhyst
  · rw [exec_stormTrip, bne_iff_ne.2 hextra, htrip, decide_eq_true hlimit, if_pos (by decide), State.storm_setStatus]
    exact ⟨_, rfl, State.raise_pend _ _ (stormEvent_pends j).1 (stormEvent_pends j).2, State.raise_reports _ _⟩
  · rw [exec_stormTrip, if_neg]
    simp only [Bool.and_eq_true, bne_iff_ne, Bool.not_eq_true', decide_eq_true_eq]
    rintro ⟨⟨hextra, htrip⟩, hlimit⟩
    obtain h | h | h := h
    · exact hextra h
    · exact Bool.eq_false_iff.1 htrip h
    · exact Nat.not_le.2 hlimit h
  · rw [exec_stormWindowEnd, if_pos h]
  · rw [exec_stormWindowEnd, if_neg (Nat.not_lt.2 h)]

end Sys2Proof.Proofs
end

section
/-! The finish of a block (R96, R120, R172): a block that waits for its band, and the blocks that are written. -/

namespace Sys2Proof.Machine

/-! ### What a die and a queue read after an update -/

theorem State.cdie_modCDie_other (s : State) (d i : CIx) (f : CDie → CDie) (h : i ≠ d) :
    (s.modCDie d f).cdies[i] = s.cdies[i] := upd_other _ _ _ _ (Ne.symm h)

theorem State.cdie_modTile (s : State) (d : CIx) (t : TileIx) (f : Tile → Tile) :
    (s.modTile d t f).cdies[d] = { s.cdies[d] with tiles := upd (s.cdies[d]).tiles t f } := upd_self _ _ _

theorem State.cdie_modTile_other (s : State) (d i : CIx) (t : TileIx) (f : Tile → Tile) (h : i ≠ d) :
    (s.modTile d t f).cdies[i] = s.cdies[i] := State.cdie_modCDie_other s d i _ h

theorem State.ctx_modQ_other (s : State) (j k : JobIx) (e : EngIx) (f : Queue → Queue) (h : k ≠ j) :
    (s.modQ j e f).ctx k = s.ctx k := State.ctx_modCtx_other s j k _ (Ne.symm h)

/-! ### The command -/

variable {s : State} {d : CIx} {t : TileIx} {x : BlockWork} {f : Flight}

/-- A tile that may take the `k`-th block with every pass in P finishes it. -/
theorem exec_blockFinish {k : Nat}
    (hx : nthWhere (fun y => y.die == d.val && y.arrived == y.passes && !y.finished) k s.blocks = some x)
    (hruns : s.runs (Fin.ofNat 64 x.job) = true) (hloom : (s.cdies[d]).loomRuns = true)
    (hrole : (s.cdies[d]).tiles[t].role = .service) (htakes : (s.cdies[d]).tiles[t].state.takes = true)
    (htile : x.tile = some t.val ∨ x.tile = none) : exec (.blockFinish d t k) s = .next (s.finishBlock d t x) := by
  have htile' : (x.tile == some t.val || x.tile.isNone) = true := by
    obtain h | h := htile
    · simp [h]
    · simp [h]
  change execBlockFinish d t k s = _
  unfold execBlockFinish
  rw [hx]
  dsimp only
  rw [hruns, hloom, htakes, hrole, htile']
  rfl

/-- The environment in which a tile writes blocks of a command in flight. -/
def State.finishEnv (s : State) (d : CIx) (t : TileIx) (x : BlockWork) (f : Flight) : Env :=
  { envOf s (Fin.ofNat 64 x.job) f.bytes x.fid with
    gen := f.genOf (s.ctx (Fin.ofNat 64 x.job)).seed (unitId 1 d.val 1 t.val)
    die := d.val
    amax := f.amax }

/-- What the finish `v` of the blocks `bs` leaves, with their flags `fs` and the clocks `n` of their recomputes. -/
def Env.blocksWritten (v : Env) (d : CIx) (t : TileIx) (x : BlockWork) (f : Flight) (bs : List BlockWork)
    (fs : List LoomFlags) (n : Nat) : State :=
  let j : JobIx := Fin.ofNat 64 x.job
  let unit := unitId 1 d.val 1 t.val
  let s := v.s.modFlight j 0 x.fid (fun f => { f.putGen unit v.gen with
    shares := f.shares - bs.length
    amax := v.amax })
  let s := { s with blocks := s.blocks.filter (fun y => !bs.any (fun z => z.job == y.job && z.fid == y.fid && z.idx == y.idx)) }
  let s := s.modQ j 0 (fun q => q.fallback f.list n n)
  let s := s.modCDie d (fun c => { c with
    flagCnt := (c.flagCnt.bump 31 16 (fs.filter (·.nan)).length).bump 15 0 (fs.filter (·.ovf)).length })
  (s.renew 1 j.val x.fid).settleTile d t false

/-- The finish of a block of a command in flight: it waits for its band, or the blocks to write are written. -/
theorem State.finishBlock_eq (hf : s.flight (Fin.ofNat 64 x.job) 0 x.fid = some f) :
    s.finishBlock d t x =
      let m := Mat.of f.bytes f.ops
      if m.banded && (s.bandOf x).any (fun y => y.idx != x.idx && !y.finished) then
        (s.modBlock x (fun y => { y with finished := true })).settleTile d t false
      else
        let bs := if m.banded then s.bandOf x else [x]
        let r := (Eng.finish m d.val bs).run (s.finishEnv d t x f)
        if r.2.waits then s
        else match r.2.stop with
          | some cause =>
            (r.2.blocksWritten d t x f bs r.1.1 r.1.2).jobFault (Fin.ofNat 64 x.job)
              (dieFault 0 cause d.val 1 t.val f.bytes)
          | none => r.2.blocksWritten d t x f bs r.1.1 r.1.2 := by
  unfold State.finishBlock
  dsimp only
  rw [hf]
  rfl

/-- A block of a banded command waits, finished, while another of its band is not. -/
theorem State.finishBlock_waits (hf : s.flight (Fin.ofNat 64 x.job) 0 x.fid = some f)
    (hband : (Mat.of f.bytes f.ops).banded = true) (hother : ∃ y ∈ s.bandOf x, y.idx ≠ x.idx ∧ y.finished = false) :
    s.finishBlock d t x = (s.modBlock x (fun y => { y with finished := true })).settleTile d t false := by
  have hany : (s.bandOf x).any (fun y => y.idx != x.idx && !y.finished) = true := by
    obtain ⟨y, hy, hidx, hfin⟩ := hother
    exact List.any_eq_true.2 ⟨y, hy, by simp [hidx, hfin]⟩
  rw [State.finishBlock_eq hf]
  dsimp only
  rw [hband, hany]
  rfl

/-- The blocks of a band, or the one block, are written when no other of the band is left. -/
theorem State.finishBlock_writes {bs : List BlockWork} {fs : List LoomFlags} {n : Nat} {v : Env}
    (hf : s.flight (Fin.ofNat 64 x.job) 0 x.fid = some f)
    (hbs : (Mat.of f.bytes f.ops).banded = true ∧ (∀ y ∈ s.bandOf x, y.idx = x.idx ∨ y.finished = true) ∧
        bs = s.bandOf x ∨ (Mat.of f.bytes f.ops).banded = false ∧ bs = [x])
    (hrun : (Eng.finish (Mat.of f.bytes f.ops) d.val bs).run (s.finishEnv d t x f) = ((fs, n), v)) (hv : v.settled) :
    s.finishBlock d t x = v.blocksWritten d t x f bs fs n := by
  have hlast : ((Mat.of f.bytes f.ops).banded && (s.bandOf x).any (fun y => y.idx != x.idx && !y.finished)) = false := by
    obtain ⟨hband, hall, -⟩ | ⟨hband, -⟩ := hbs
    · rw [hband, Bool.true_and, List.any_eq_false]
      intro y hy
      obtain h | h := hall y hy
      · simp [h]
      · simp [h]
    · rw [hband, Bool.false_and]
  have hwritten : (if (Mat.of f.bytes f.ops).banded = true then s.bandOf x else [x]) = bs := by
    obtain ⟨hband, -, rfl⟩ | ⟨hband, rfl⟩ := hbs
    · rw [if_pos hband]
    · rw [if_neg (by simp [hband])]
  rw [State.finishBlock_eq hf]
  dsimp only
  rw [hlast, if_neg Bool.false_ne_true, hwritten, hrun, hv.1, if_neg Bool.false_ne_true, hv.2]

/-! ### What the blocks written leave in every part -/

section
variable (v : Env) (d : CIx) (t : TileIx) (x : BlockWork) (f : Flight) (bs : List BlockWork) (fs : List LoomFlags) (n : Nat)

theorem Env.blocksWritten_queue : (v.blocksWritten d t x f bs fs n).queue (Fin.ofNat 64 x.job) 0 =
    ({ v.s.queue (Fin.ofNat 64 x.job) 0 with
      inflight := modFirst (fun y => y.fid == x.fid) (fun y =>
        { y.putGen (unitId 1 d.val 1 t.val) v.gen with shares := y.shares - bs.length, amax := v.amax })
        (v.s.queue (Fin.ofNat 64 x.job) 0).inflight } : Queue).fallback f.list n n := by
  refine (State.queue_modQ _ _ 0 _).trans (congrArg (fun q : Queue => q.fallback f.list n n) ?_)
  exact State.queue_modQ v.s _ 0 _

theorem Env.blocksWritten_inflight : ((v.blocksWritten d t x f bs fs n).queue (Fin.ofNat 64 x.job) 0).inflight =
    modFirst (fun y => y.fid == x.fid) (fun y =>
      { y.putGen (unitId 1 d.val 1 t.val) v.gen with shares := y.shares - bs.length, amax := v.amax })
      (v.s.queue (Fin.ofNat 64 x.job) 0).inflight := by
  rw [Env.blocksWritten_queue]
  rfl

theorem Env.blocksWritten_lists : ((v.blocksWritten d t x f bs fs n).queue (Fin.ofNat 64 x.job) 0).lists =
    ((v.s.queue (Fin.ofNat 64 x.job) 0).fallback f.list n n).lists := by
  rw [Env.blocksWritten_queue]
  rfl

theorem Env.blocksWritten_flagCnt : ((v.blocksWritten d t x f bs fs n).cdies[d]).flagCnt =
    ((v.s.cdies[d]).flagCnt.bump 31 16 (fs.filter (·.nan)).length).bump 15 0 (fs.filter (·.ovf)).length := by
  refine (congrArg CDie.flagCnt (State.cdie_modTile _ d t _)).trans ?_
  exact congrArg CDie.flagCnt (State.cdie_modCDie _ d _)

theorem Env.blocksWritten_cdie_other {i : CIx} (h : i ≠ d) :
    (v.blocksWritten d t x f bs fs n).cdies[i] = v.s.cdies[i] :=
  (State.cdie_modTile_other _ d i t _ h).trans (State.cdie_modCDie_other _ d i _ h)

theorem Env.blocksWritten_ctx_other {i : JobIx} (h : i ≠ Fin.ofNat 64 x.job) :
    (v.blocksWritten d t x f bs fs n).ctx i = v.s.ctx i :=
  (State.ctx_modQ_other _ _ i 0 _ h).trans (State.ctx_modQ_other v.s _ i 0 _ h)

end

end Sys2Proof.Machine

namespace Sys2Proof.Proofs

open Sys2Proof.Machine

/-- Settles O28: a tile that takes the block either lets it wait for its band or writes what the finish names. -/
theorem blockFinishWritesBlock : Obligations.BlockFinishWritesBlock := by
  rintro d t k s x f j m rfl rfl hx hruns hloom hrole htakes htile hf
  rw [exec_blockFinish hx hruns hloom hrole htakes htile]
  refine ⟨fun hband hother => by rw [State.finishBlock_waits hf hband hother], fun bs fs n v hbs hrun hv => ?_⟩
  rw [State.finishBlock_writes hf hbs hrun hv]
  exact ⟨_, rfl, rfl, rfl, Env.blocksWritten_inflight v d t x f bs fs n, Env.blocksWritten_lists v d t x f bs fs n,
    Env.blocksWritten_flagCnt v d t x f bs fs n, rfl, rfl, rfl, fun i => Env.blocksWritten_cdie_other v d t x f bs fs n,
    fun i => Env.blocksWritten_ctx_other v d t x f bs fs n⟩

end Sys2Proof.Proofs
end

section
/-! A gated tile and two passes that differ in their tile alone (R114): a state in which the wake of a tile leaves the second one
where it is. -/

namespace Sys2Proof.Machine

/-- A block whose passes any tile may take, in any order (R95). -/
def freeBlock : BlockWork where
  job := 0
  fid := 0
  die := 0
  idx := 0
  seg := 0
  bsel := 0
  band := 0
  r0 := 0
  rows := 1
  c0 := 0
  cols := 1
  pos := 0
  passes := 2
  arrived := 0
  flags := LoomFlags.none
  poisoned := false
  started := false
  split := true
  tile := none
  finished := false

/-- A first attempt at a pass of the block, on no tile. -/
def unboundPass : PassWork where
  job := 0
  fid := 0
  die := 0
  block := 0
  up := true
  g0 := 0
  groups := 1
  level := 0
  repeats := 0
  next := false
  tile := none

/-- The same pass once more, bound to tile 1. -/
def boundTwin : PassWork := { unboundPass with tile := some 1 }

/-- A running module whose service tiles are all gated, with the two passes before C-die 0. -/
def gatedTwins : State :=
  { State.reset with
    pwr := { Reset.power with state := .active }
    ctxs := Vector.replicate 64 { Reset.ctx with state := .opened }
    cdies := Vector.replicate 4 { Reset.cdie with
      powered := true
      tiles := Vector.replicate 136 { Reset.tile with role := .service } }
    blocks := [freeBlock]
    passes := [unboundPass, boundTwin] }

theorem gatedTwins_asleep : gatedTwins.awakeFor 0 unboundPass = false := by decide +kernel

/-- The pass without a tile binds to tile 0, which wakes; its twin stays on tile 1. -/
theorem exec_loomPass_gatedTwins : exec (.loomPass 0 0 0) gatedTwins = .next
    (({ gatedTwins with passes := [{ unboundPass with tile := some 0 }, boundTwin] } : State).modTile 0 0
      (fun x => { x with state := .waking })) := by
  rfl

end Sys2Proof.Machine

namespace Sys2Proof.Proofs

open Sys2Proof.Machine

/-- Refutes O27: two passes of a block may differ in their tile alone. Where the one without a tile binds to the gated tile 0, the
other is still on tile 1 (`gatedTwins`). -/
theorem not_passesAddIntoP : ¬ Obligations.PassesAddIntoP := by
  intro h
  obtain ⟨-, hgated, -⟩ := h (.loomPass 0 0 0) 0 0 0 gatedTwins unboundPass (.inl ⟨rfl, rfl⟩) (by decide +kernel)
    (by decide +kernel) (by decide +kernel) (.inr ⟨rfl, .inr (by decide +kernel)⟩) (by decide +kernel) (by decide +kernel)
    (by decide +kernel) (by decide +kernel)
  obtain ⟨u, hexec, -, -, hbound, -⟩ := hgated rfl gatedTwins_asleep
  cases exec_loomPass_gatedTwins.symm.trans hexec
  have htile : boundTwin.tile = some 0 := hbound boundTwin (List.mem_cons_of_mem _ (List.mem_singleton.2 rfl)) rfl
  exact absurd htile (by decide)

end Sys2Proof.Proofs
end

section
/-! Commands at the front of a queue (R255, R263, R269, R276): what becomes of one that is ready with its predicate true, by what its
own decode and start answer. -/

namespace Sys2Proof.Machine

/-! ### A queue that goes on -/

section
variable (q : Queue)

@[simp] theorem Queue.settle_held : q.settle.held = q.held := by
  unfold Queue.settle
  dsimp only
  repeat' split
  all_goals rfl

@[simp] theorem Queue.settle_inflight : q.settle.inflight = q.inflight := by
  unfold Queue.settle
  dsimp only
  repeat' split
  all_goals rfl

theorem Queue.passOver_inflight (k : Nat) : (q.passOver k).inflight = q.inflight := by
  induction k generalizing q with
  | zero => rfl
  | succ k ih =>
    unfold Queue.passOver
    split
    case h_1 => rfl
    case h_2 =>
      split
      · rfl
      · split
        · split
          · rfl
          · exact ih _
        · split
          · exact ih _
          · rfl

/-- A queue with no BRANCH and no SKIP to go on with passes over nothing. -/
theorem Queue.passOver_plain (k : Nat) (h : q.plain) : q.passOver k = q := by
  cases k with
  | zero => rfl
  | succ k =>
    unfold Queue.passOver
    rw [h.1, h.2]
    split
    case h_1 => rfl
    case h_2 => rw [if_neg Bool.false_ne_true, if_neg (Nat.lt_irrefl 0), ite_self]

@[simp] theorem Queue.goOn_inflight : q.goOn.inflight = q.inflight :=
  (Queue.settle_inflight _).trans (Queue.passOver_inflight q _)

theorem Queue.goOn_held (h : q.plain) : q.goOn.held = q.held := by
  unfold Queue.goOn
  rw [Queue.passOver_plain q _ h, Queue.settle_held]

/-- The front command taken off leaves no BRANCH and no SKIP where there was none. -/
theorem Queue.pop_plain (h : q.plain) : q.pop.plain := by
  refine ⟨?_, h.2⟩
  change (if q.held.head?.any HeldCmd.isEnd then 0 else q.skipLeft) = 0
  rw [h.1, ite_self]

/-- The queue after its front command, which has started, is complete at once. -/
def Queue.frontDone (q : Queue) (now : Nat) : Queue := ((q.spendConditional.unplan false).pop.advance).dropEnded now

theorem Queue.frontDone_inflight (now : Nat) : (q.frontDone now).inflight = q.inflight := Queue.goOn_inflight _

theorem Queue.frontDone_held (now : Nat) (h : q.plain) : (q.frontDone now).held = q.held.drop 1 :=
  Queue.goOn_held { (q.spendConditional.unplan false).pop with waitSince := none }
    (Queue.pop_plain (q.spendConditional.unplan false) h)

theorem Queue.start_inflight (fid : Nat) (b : List Byte) (now : Nat) (m : Machine.Started) :
    (q.start fid b now m).inflight =
      q.inflight ++ [⟨fid, b, q.curList, now, m.shares, m.amax, m.ops, m.board, [], m.dies⟩] := Queue.goOn_inflight _

theorem Queue.start_held (fid : Nat) (b : List Byte) (now : Nat) (m : Machine.Started) (h : q.plain) :
    (q.start fid b now m).held = q.held.drop 1 :=
  Queue.goOn_held { (q.spendConditional.unplan false).pop with
      inflight := q.inflight ++ [⟨fid, b, q.curList, now, m.shares, m.amax, m.ops, m.board, [], m.dies⟩]
      waitSince := none }
    (Queue.pop_plain (q.spendConditional.unplan false) h)

end

/-! ### A command complete at once (R191, R265) -/

theorem Ctx.signalled_queues (c : Ctx) (b : List Byte) : (c.signalled b).queues = c.queues := by
  unfold Ctx.signalled
  dsimp only
  split <;> rfl

theorem Ctx.signalled_modQ_sb (c : Ctx) (e : EngIx) (f : Queue → Queue) (b : List Byte) :
    ((c.modQ e f).signalled b).sb = (c.signalled b).sb := by
  unfold Ctx.signalled
  dsimp only
  split <;> rfl

/-- A completed command leaves its SIGNAL, and what its EVENT reports. -/
theorem State.completed_reports (s : State) (j : JobIx) (b : List Byte) :
    (s.modCtx j (fun c => c.signalled b)).Reports (s.completed j b) := by
  unfold State.completed
  dsimp only
  split
  · exact State.raise_reports _ _
  · exact .refl _

theorem State.completed_mem (s : State) (j : JobIx) (b : List Byte) (h : Slot.event b = false) :
    (s.completed j b).mem = s.mem := by
  unfold State.completed
  dsimp only
  rw [h, if_neg Bool.false_ne_true]
  rfl

variable (s u : State) (j : JobIx) (e : EngIx) (op fid : Nat) (b : List Byte) (f : State → List Byte → Nat → Begin)

theorem State.finishFront_started :
    u.finishFront j e b true = (u.modQ j e (fun q => q.frontDone u.tick)).completed j b := rfl

theorem State.finishFront_ctx_self :
    (u.finishFront j e b true).ctx j = ((u.ctx j).modQ e (fun q => q.frontDone u.tick)).signalled b := by
  rw [State.finishFront_started, State.ctx, (State.completed_reports _ j b).ctxs]
  exact (State.ctx_modCtx _ j _).trans (congrArg (fun c : Ctx => c.signalled b) (State.ctx_modQ u j e _))

theorem State.finishFront_queue_self : (u.finishFront j e b true).queue j e = (u.queue j e).frontDone u.tick := by
  have h : (u.finishFront j e b true).queue j e = ((u.finishFront j e b true).ctx j).queues[e] := rfl
  rw [h, State.finishFront_ctx_self, Ctx.signalled_queues, Ctx.queue_modQ]
  rfl

/-- A command complete at once is as R191 and R265 give it. -/
theorem State.finishFront_begunAs : (u.finishFront j e b true).BegunAs s j e fid b (.done u) := by
  have hrep := State.completed_reports (u.modQ j e (fun q => q.frontDone u.tick)) j b
  rw [← State.finishFront_started] at hrep
  refine ⟨?_, ?_, hrep.blocks, hrep.cdies, fun k hk => ?_, fun hev => State.completed_mem _ j b hev, fun hplain => ?_⟩
  · rw [State.finishFront_queue_self, Queue.frontDone_inflight]
  · rw [State.finishFront_ctx_self, Ctx.signalled_modQ_sb]
  · rw [State.ctx, hrep.ctxs]
    exact (State.ctx_modCtx_other _ j k _ (Ne.symm hk)).trans (State.ctx_modCtx_other u j k _ (Ne.symm hk))
  · rw [State.finishFront_queue_self, Queue.frontDone_held _ _ hplain]

/-! ### A command in flight (R255, R263) -/

/-- The front command becomes one in flight, with the next command number used. -/
def State.startFront (u : State) (j : JobIx) (e : EngIx) (b : List Byte) (fid : Nat) (m : Machine.Started) : State :=
  u.modCtx j (fun c => { c.modQ e (fun q => q.start fid b u.tick m) with nextFid := fid + 1 })

theorem State.startFront_ctx_self (m : Machine.Started) : (u.startFront j e b fid m).ctx j =
    { (u.ctx j).modQ e (fun q => q.start fid b u.tick m) with nextFid := fid + 1 } := State.ctx_modCtx u j _

theorem State.startFront_queue_self (m : Machine.Started) :
    (u.startFront j e b fid m).queue j e = (u.queue j e).start fid b u.tick m := by
  have h : (u.startFront j e b fid m).queue j e = ((u.startFront j e b fid m).ctx j).queues[e] := rfl
  rw [h, State.startFront_ctx_self]
  exact Ctx.queue_modQ (u.ctx j) e _

theorem State.startFront_queue_other (m : Machine.Started) {k : EngIx} (hk : k ≠ e) :
    (u.startFront j e b fid m).queue j k = u.queue j k := by
  have h : (u.startFront j e b fid m).queue j k = ((u.startFront j e b fid m).ctx j).queues[k] := rfl
  rw [h, State.startFront_ctx_self]
  exact upd_other _ _ _ _ (Ne.symm hk)

theorem State.startFront_started (m : Machine.Started) : (u.startFront j e b fid m).Started u j e fid b m := by
  have hctx := State.startFront_ctx_self u j e fid b m
  refine ⟨⟨⟨fid, b, (u.queue j e).curList, u.tick, m.shares, m.amax, m.ops, m.board, [], m.dies⟩, ?_, rfl, rfl, rfl, rfl,
      rfl, rfl, rfl, rfl, rfl⟩, ?_, rfl,
    fun k hk => State.ctx_modCtx_other u j k _ (Ne.symm hk), ?_, ?_, ?_, fun k hk => ?_, fun hplain => ?_⟩
  · rw [State.startFront_queue_self, Queue.start_inflight]
  · rw [hctx]
  · rw [hctx]; rfl
  · rw [hctx]; rfl
  · rw [hctx]; rfl
  · rw [State.startFront_queue_other u j e fid b m hk]
    exact ⟨rfl, rfl⟩
  · rw [State.startFront_queue_self, Queue.start_held _ _ _ _ _ hplain]

/-- The accounts of a flight's list leave what a queue holds and what it has in flight. -/
theorem State.accrueFree_queue (a : Nat) (k : EngIx) :
    ((s.accrueFree j fid a).queue j k).held = (s.queue j k).held ∧
      ((s.accrueFree j fid a).queue j k).inflight = (s.queue j k).inflight := by
  have h : (s.accrueFree j fid a).queue j k = (((s.ctx j).accrueFlight fid a s.free).queues)[k] :=
    congrArg (fun c : Ctx => c.queues[k]) (State.ctx_modCtx s j _)
  rw [h]
  simp only [Ctx.accrueFlight, Fin.getElem_fin, Vector.getElem_map]
  split <;> exact ⟨rfl, rfl⟩

/-- A command started stays started when an account of its list grows. -/
theorem State.Started.accrueFree {s u : State} {j : JobIx} {e : EngIx} {fid : Nat} {b : List Byte} {m : Machine.Started}
    (h : s.Started u j e fid b m) (a : Nat) : (s.accrueFree j fid a).Started u j e fid b m := by
  obtain ⟨⟨f, hin, hf⟩, hfid, hrest, hother, hsb, hjs, hstate, hqs, hheld⟩ := h
  have hctx : (s.accrueFree j fid a).ctx j = (s.ctx j).accrueFlight fid a s.free := State.ctx_modCtx s j _
  have hq := State.accrueFree_queue s j fid a
  refine ⟨⟨f, (hq e).2.trans hin, hf⟩, ?_, hrest,
    fun k hk => (State.ctx_modCtx_other s j k _ (Ne.symm hk)).trans (hother k hk), ?_, ?_, ?_,
    fun k hk => ⟨(hq k).1.trans (hqs k hk).1, (hq k).2.trans (hqs k hk).2⟩, fun hplain => (hq e).1.trans (hheld hplain)⟩
  · rw [hctx]; exact hfid
  · rw [hctx]; exact hsb
  · rw [hctx]; exact hjs
  · rw [hctx]; exact hstate

/-- A command that starts on fewer C-dies than its mask names is started all the same (R285). -/
theorem State.Started.accrueFewer {s u : State} {j : JobIx} {e : EngIx} {fid : Nat} {b : List Byte} {m : Machine.Started}
    (h : s.Started u j e fid b m) : (s.accrueFewer j e b fid).Started u j e fid b m := by
  unfold State.accrueFewer
  dsimp only
  split
  · exact h.accrueFree 3
  · exact h

/-! ### The front command -/

/-- A ready command with its predicate true becomes what its own decode and start find. -/
theorem State.runSlot_ready (hready : s.FrontReady j e op b) (hpred : predHolds (s.ctx j) b = true) :
    s.runSlot j e op f =
      let s' := (s.modQ j e (fun q => q.resumeAt s.tick 1)).modQ j e (fun q => { q with passed := 2 })
      match f (s.begins j e b) b (s.ctx j).nextFid with
      | .stays => s'.modQ j e (fun q => { q with waitSince := (s'.waitAccount j e b).map (fun a => (a, s.tick)) })
      | .rejects u cause => u.reject j e cause b
      | .faults u x => u.jobFault j x
      | .done u => u.finishFront j e b true
      | .starts u m => (u.startFront j e b (s.ctx j).nextFid m).accrueFewer j e b (s.ctx j).nextFid := by
  obtain ⟨hruns, hstate, ⟨h, hhead, rfl, hwhole⟩, hissued, hlist, hop, hjob, hopc, hfence, hwait⟩ := hready
  have hstate' : ((s.queue j e).state == .active || (s.queue j e).state == .waiting) = true := by
    obtain hs | hs := hstate
    · simp [hs]
    · simp [hs]
  have hfence' : ((Slot.fence h.bytes || op == 3) && (s.queue j e).inflight != []) = false := by
    cases hf : (Slot.fence h.bytes || op == 3) with
    | false => rfl
    | true => simp [hfence (by simpa using hf)]
  have hlist' : (s.queue j e).curList.isNone = false := by
    simpa [Option.isSome_iff_ne_none] using hlist
  have hpred' : predHolds ((s.modQ j e (fun q => q.resumeAt s.tick 1)).ctx j) h.bytes = true := by
    rw [State.ctx_modQ]
    exact hpred
  have hfid : (((s.modQ j e (fun q => q.resumeAt s.tick 1)).modQ j e (fun q => { q with passed := 2 })).ctx j).nextFid =
      (s.ctx j).nextFid := by
    rw [State.ctx_modQ, State.ctx_modQ]
    rfl
  unfold State.runSlot
  dsimp only
  rw [hruns, hstate', hhead]
  dsimp only
  rw [hwhole, hissued, hlist', hop, hjob, hopc, hfence', hwait, hpred', hfid]
  simp only [Bool.not_true, Bool.or_self, Bool.and_false, Bool.false_eq_true, if_false, bne_self_eq_false]
  rfl

theorem State.runSlot_done (hready : s.FrontReady j e op b) (hpred : predHolds (s.ctx j) b = true)
    (hf : f (s.begins j e b) b (s.ctx j).nextFid = .done u) : s.runSlot j e op f = u.finishFront j e b true := by
  rw [State.runSlot_ready s j e op b f hready hpred, hf]

theorem State.runSlot_starts (m : Machine.Started) (hready : s.FrontReady j e op b) (hpred : predHolds (s.ctx j) b = true)
    (hf : f (s.begins j e b) b (s.ctx j).nextFid = .starts u m) :
    (s.runSlot j e op f).Started u j e (s.ctx j).nextFid b m := by
  rw [State.runSlot_ready s j e op b f hready hpred, hf]
  exact (State.startFront_started u j e _ b m).accrueFewer

/-- A command of an engine runs at its turn by its own decode and start. -/
theorem exec_engineCommand {c : Instr} (h : (c, e, op, f) ∈ engineCommands j) :
    exec c s = .next (s.runSlot j e op f) := by
  have hall : ∀ x ∈ engineCommands j, exec x.1 s = .next (s.runSlot j x.2.1 x.2.2.1 x.2.2.2) := by
    unfold engineCommands
    repeat refine List.forall_mem_cons.2 ⟨rfl, ?_⟩
    exact fun _ hx => absurd hx List.not_mem_nil
  exact hall _ h

end Sys2Proof.Machine
end

section
/-! What a command's reads leave of the contexts: a run of reads changes memory, its poison counts and its own faults alone. -/

namespace Sys2Proof.Machine

/-- A part of a command that leaves every context as it was. -/
def Eng.KeepsCtxs {α : Type} (f : Eng α) : Prop := ∀ v : Env, (f.run v).2.s.ctxs = v.s.ctxs

section
variable {α β : Type}

theorem Eng.keepsCtxs_pure (a : α) : Eng.KeepsCtxs (pure a) := fun _ => rfl

theorem Eng.KeepsCtxs.bind {f : Eng α} {g : α → Eng β} (hf : f.KeepsCtxs) (hg : ∀ a, (g a).KeepsCtxs) :
    Eng.KeepsCtxs (f >>= g) := fun v => (hg _ _).trans (hf v)

theorem Eng.keepsCtxs_get {g : Env → Eng β} (hg : ∀ v : Env, ((g v).run v).2.s.ctxs = v.s.ctxs) :
    Eng.KeepsCtxs (get >>= g) := hg

theorem Eng.KeepsCtxs.map {f : Eng α} (g : α → β) (hf : f.KeepsCtxs) : Eng.KeepsCtxs (g <$> f) := fun v => hf v

theorem Eng.KeepsCtxs.ite {c : Prop} [Decidable c] {f g : Eng α} (hf : f.KeepsCtxs) (hg : g.KeepsCtxs) :
    Eng.KeepsCtxs (if c then f else g) := by
  split
  · exact hf
  · exact hg

theorem Eng.KeepsCtxs.mapM {f : α → Eng β} (hf : ∀ a, (f a).KeepsCtxs) (l : List α) : Eng.KeepsCtxs (l.mapM f) := by
  induction l with
  | nil => exact Eng.keepsCtxs_pure []
  | cons a l ih =>
    rw [List.mapM_cons]
    exact (hf a).bind fun _ => ih.bind fun _ => Eng.keepsCtxs_pure _

end

theorem State.countConsumed_ctxs (s : State) (g : Got) : (s.countConsumed g).ctxs = s.ctxs :=
  foldl_keeps (fun t : State => t.ctxs = s.ctxs) _ _ _ rfl (fun _ _ h => h)

theorem Eng.fail_keepsCtxs (cause : Nat) : (Eng.fail cause).KeepsCtxs := by
  intro v
  change (if v.stop.isSome then v else { v with stop := some cause }).s.ctxs = v.s.ctxs
  split <;> rfl

theorem Eng.failIf_keepsCtxs (p : Bool) (cause : Nat) : (Eng.failIf p cause).KeepsCtxs := by
  unfold Eng.failIf
  exact .ite (Eng.fail_keepsCtxs cause) (Eng.keepsCtxs_pure ())

theorem Eng.consume_keepsCtxs (p : Bool) : (Eng.consume p).KeepsCtxs := Eng.failIf_keepsCtxs p _

theorem Eng.stopped_keepsCtxs : Eng.stopped.KeepsCtxs := fun _ => rfl

theorem Eng.get'_keepsCtxs (a n : Nat) (h : Hint) : (Eng.get' a n h).KeepsCtxs := by
  unfold Eng.get'
  refine Eng.keepsCtxs_get fun v => ?_
  split
  · rfl
  · split
    · exact ((Eng.fail_keepsCtxs 0x2A).bind fun _ => Eng.keepsCtxs_pure _) v
    · have hread := (readMem_memOnly (MemOnly.refl v.s) (some v.job.val) a n (if h == .last then .stream else h)).ctxs
      generalize readMem v.s (some v.job.val) a n (if h == .last then .stream else h) = r at hread ⊢
      exact hread

theorem Eng.rd_keepsCtxs (a n : Nat) (h : Hint) : (Eng.rd a n h).KeepsCtxs :=
  (Eng.get'_keepsCtxs a n h).bind fun g => fun v => State.countConsumed_ctxs v.s g

theorem Eng.word_keepsCtxs (a n : Nat) : (Eng.word a n).KeepsCtxs :=
  ((Eng.rd_keepsCtxs a n .stream).bind fun _ => Eng.keepsCtxs_pure _).bind fun _ =>
    (Eng.consume_keepsCtxs _).bind fun _ => Eng.keepsCtxs_pure _

theorem Eng.readWords_keepsCtxs {α : Type} (l : List α) (at' key : α → Nat) (h : Hint) :
    Eng.KeepsCtxs (l.mapM (fun x => do
      let (d, p) ← Eng.rd (at' x) 4 h
      Eng.consume p
      return (key x, leNat d))) :=
  .mapM (fun _ => (Eng.rd_keepsCtxs _ _ _).bind fun _ => (Eng.consume_keepsCtxs _).bind fun _ => Eng.keepsCtxs_pure _) l

theorem Eng.scaledBy_keepsCtxs (d : Desc) (row : Bool) (step : Word) : (Eng.scaledBy d row step).KeepsCtxs := by
  unfold Eng.scaledBy
  exact .ite ((Eng.rd_keepsCtxs _ _ _).bind fun _ => (Eng.consume_keepsCtxs _).bind fun _ => Eng.keepsCtxs_pure _)
    (Eng.keepsCtxs_pure _)

theorem Eng.scaledOpt_keepsCtxs (d : Option Desc) (row : Bool) (step : Word) :
    (Eng.scaledOpt d row step).KeepsCtxs := by
  cases d with
  | none => exact Eng.keepsCtxs_pure none
  | some d => exact (Eng.scaledBy_keepsCtxs d row step).map some

theorem Eng.segmentTable_keepsCtxs (a rows nb : Nat) (noneOk : Bool) (n : Nat) :
    ∀ i stop : Nat, (Eng.segmentTable a rows nb noneOk n i stop).KeepsCtxs := by
  induction n with
  | zero => exact fun _ _ => Eng.keepsCtxs_pure []
  | succ n ih =>
    intro i stop
    unfold Eng.segmentTable
    exact Eng.stopped_keepsCtxs.bind fun _ => .ite (Eng.keepsCtxs_pure []) ((Eng.rd_keepsCtxs _ _ _).bind fun _ =>
      (Eng.consume_keepsCtxs _).bind fun _ => (Eng.failIf_keepsCtxs _ _).bind fun _ => (ih _ _).bind fun _ =>
      Eng.keepsCtxs_pure _)

theorem Eng.grouped_keepsCtxs (b : List Byte) (rows : Nat) (noneOk : Bool) : (Eng.grouped b rows noneOk).KeepsCtxs :=
  (Eng.word_keepsCtxs _ _).bind fun _ => Eng.segmentTable_keepsCtxs _ _ _ _ _ _ _

/-- What a matmul reads before its passes changes no context. -/
theorem Eng.matPrep_keepsCtxs (b : List Byte) (ds : List (Option Desc)) (row : Bool) (j : JobIx) (fid : Nat) :
    (Eng.matPrep b ds row j fid).KeepsCtxs := by
  unfold Eng.matPrep
  dsimp only
  refine (Eng.KeepsCtxs.mapM (fun d => Eng.scaledOpt_keepsCtxs d row (cmdStep b)) ds).bind fun ops => ?_
  split
  · exact (Eng.grouped_keepsCtxs _ _ _).bind fun _ =>
      .ite ((Eng.readWords_keepsCtxs _ _ _ _).bind fun _ => Eng.keepsCtxs_pure _) (Eng.keepsCtxs_pure _)
  · exact (Eng.keepsCtxs_pure _).bind fun _ =>
      .ite ((Eng.readWords_keepsCtxs _ _ _ _).bind fun _ => Eng.keepsCtxs_pure _) (Eng.keepsCtxs_pure _)

end Sys2Proof.Machine
end

section
/-! The start of a Loom command (R98, R191, R237, R240, R255): what the decode of a matmul and of a side-only command answers where it
passes. -/

namespace Sys2Proof.Machine

/-! ### Decode -/

theorem settleDecode_passes {e : EngIx} {b : List Byte} {die : Nat} {v : Env} (k : State → Begin) (hv : v.settled) :
    settleDecode e b die v [] k = k v.s := by
  unfold settleDecode
  rw [hv.1, if_neg Bool.false_ne_true, hv.2]
  rfl

theorem stepFault_kept {c : Ctx} {b : List Byte} (h : c.staleStep (cmdStep b) = false) : stepFault c b = [] := by
  rw [stepFault, h, if_neg Bool.false_ne_true]

/-- A set of C-dies that is not empty and on which no command of an earlier deadline comes first lets a command start. -/
theorem not_nil_or_overtaken {dies : List CIx} {o : Bool} (hdies : dies ≠ []) (ho : o = false) : ¬ (dies == [] || o) = true := by
  simp [hdies, ho]

variable {j : JobIx} {s u r : State} {b : List Byte} {op fid : Nat} {dies : List CIx} {ds : List (Option Desc)} {row : Bool}

/-! ### A matmul -/

/-- A matmul that passes its decode: complete at once on an empty output, else cut once its operands are read. -/
theorem State.Passes.matmul_eq (h : s.Passes j 0 op b dies (matUses b) (fun _ ds => matChecks (matOf b ds)) ds u)
    (hrow : u.fixRow j (cmdStep b) = (row, r)) :
    State.matmul j (s.begins j 0 b) b (s.ctx j).nextFid =
      if (matOf b ds).o.d.empty then .done (r.matBegin j (matOf b ds))
      else
        let p := (Eng.matPrep b ds row j (s.ctx j).nextFid).run (envOf (r.matBegin j (matOf b ds)) j b (s.ctx j).nextFid)
        settleDecode 0 b ((dies.head?.map (·.val)).getD 0) p.2 [] (fun s' =>
          let m := Mat.of b p.1.1
          let z := s'.putBlocks j (s.ctx j).nextFid m dies p.1.2.1 (m.keeps p.1.2.2 p.1.2.1)
          .starts z.1 { shares := z.2, ops := p.1.1 }) := by
  obtain ⟨-, -, hengine, hfirst, hstep, v, hrun, hv, rfl, hown⟩ := h
  obtain ⟨rfl, hdies⟩ := hengine
  unfold State.matmul
  dsimp only at hown ⊢
  rw [if_neg (not_nil_or_overtaken hdies hfirst), hrun]
  dsimp only
  rw [hown, stepFault_kept hstep, List.append_nil, List.append_nil, settleDecode_passes _ hv, hrow]
  rfl

/-! ### What the start of a matmul leaves -/

/-- The work of a command is put before the tiles without a change of any context. -/
theorem State.putBlocks_ctxs (s : State) (j : JobIx) (fid : Nat) (m : Mat) (dies : List CIx) (grid : List BlockWork)
    (keep : BlockWork → Bool) : (s.putBlocks j fid m dies grid keep).1.ctxs = s.ctxs := by
  unfold State.putBlocks
  refine foldl_keeps (fun p : State × Nat => p.1.ctxs = s.ctxs) _ _ _ rfl (fun p x hp => ?_)
  dsimp only
  split <;> exact hp

/-- The start of a matmul changes no context after what it sets itself. -/
theorem matStart_ctxs {s' z : State} {n : Nat} {v : Env} {ops : List (Option Scaled)} {grid : List BlockWork}
    {words : List (Nat × Nat)} {m : Mat} {keep : BlockWork → Bool}
    (hprep : (Eng.matPrep b ds row j fid).run (envOf s' j b fid) = ((ops, grid, words), v))
    (hput : v.s.putBlocks j fid m dies grid keep = (z, n)) : z.ctxs = s'.ctxs := by
  have hblocks := State.putBlocks_ctxs v.s j fid m dies grid keep
  have hreads := Eng.matPrep_keepsCtxs b ds row j fid (envOf s' j b fid)
  rw [hput] at hblocks
  rw [hprep] at hreads
  exact hblocks.trans hreads

theorem or_bit_same (w : Word) {i : Nat} (hi : i < 32) : (w ||| Word.at' 1 i).bit i = true := by
  have h : (Word.at' 1 i).getLsbD i = true := by
    simp only [Word.at', BitVec.getLsbD_ofNat, hi, decide_true, Nat.one_mul, Nat.testBit_two_pow_self, Bool.and_self]
  rw [Word.bit, BitVec.getLsbD_or, h, Bool.or_true]

/-- Past 2^24 products the start of a matmul sets LONG_SUM (R98). -/
theorem State.matBegin_longSum (s : State) (j : JobIx) (m : Mat) (h : 2 ^ 24 < m.k) :
    ((s.matBegin j m).ctx j).jobStatus.bit jsLongSum = true := by
  have hctx : (s.matBegin j m).ctx j = ((s.setStatus j jsLongSum).ctx j).layerRestart m := by
    unfold State.matBegin
    rw [if_pos h]
    exact State.ctx_modCtx _ j _
  have hstatus : ((s.setStatus j jsLongSum).ctx j).jobStatus = (s.ctx j).jobStatus ||| Word.at' 1 jsLongSum :=
    congrArg Ctx.jobStatus (State.ctx_modCtx s j _)
  have hlayer : ∀ c : Ctx, (c.layerRestart m).jobStatus = c.jobStatus := fun c => by
    unfold Ctx.layerRestart
    split <;> rfl
  rw [hctx, hlayer, hstatus, or_bit_same _ (by decide)]

/-! ### A side-only command -/

/-- A side-only command that passes its decode: complete at once on an empty output, else its bands run once its operands
are read. -/
theorem State.Passes.sideDown_eq
    (h : s.Passes j 0 op b dies (sideUses b) (fun _ ds =>
      sideChecks b (operand ds 0) (operand ds 1) ((ds.drop 2).map (fun d => d.getD default))) ds u)
    (hrow : u.fixRow j (cmdStep b) = (row, r)) :
    State.sideDown j (s.begins j 0 b) b (s.ctx j).nextFid =
      if (operand ds 1).empty then .done r
      else
        let p := (Eng.sidePrep b (operand ds 0) (operand ds 1) ((ds.drop 2).map (fun d => d.getD default)) row).run
          (envOf r j b (s.ctx j).nextFid)
        settleDecode 0 b ((dies.head?.map (·.val)).getD 0) p.2 [] (fun s' =>
          runShares 0 1 b (s.ctx j).nextFid tileUnits (sideItems p.1.2)
            (Eng.sideBlock b (p.1.1.getD 0 default) (p.1.1.getD 1 default) (p.1.1.drop 2)) (fun _ d => d) dies s' j) := by
  obtain ⟨-, -, hengine, hfirst, hstep, v, hrun, hv, rfl, hown⟩ := h
  obtain ⟨rfl, hdies⟩ := hengine
  unfold State.sideDown
  dsimp only at hown ⊢
  rw [if_neg (not_nil_or_overtaken hdies hfirst), hrun]
  dsimp only
  rw [hown, stepFault_kept hstep, List.append_nil, List.append_nil, settleDecode_passes _ hv, hrow]
  rfl

theorem runShares_starts {α : Type} {e : EngIx} {cls : Nat} {units : CDie → List Nat} {items : List α}
    {f : CIx → α → Eng Unit} {die : CIx → CDie → CDie} {z : Env}
    (h : runWhole e cls units items (fun n l => Eng.items l (f n)) die dies (envOf s j b fid) = (z, none))
    (hz : z.waits = false) :
    runShares e cls b fid units items f die dies s j = .starts z.s { amax := z.amax, dies := z.dies } := by
  unfold runShares
  dsimp only
  rw [h, hz]
  rfl

end Sys2Proof.Machine

namespace Sys2Proof.Proofs

open Sys2Proof.Machine

/-- Settles O24: the decode passes, so that the command is complete at once or started with what its own start makes. -/
theorem loomCommandsStart : Obligations.LoomCommandsStart := by
  rintro j s u r b c op fid dies ds row rfl hrow
  refine ⟨?_, fun hc hpass => ⟨fun hempty => ?_, fun xs segs v z hempty hprep hv hwhole hz => ?_⟩⟩
  · rintro m hc rfl hpass
    have heq := hpass.matmul_eq hrow
    rw [exec_engineCommand s j 0 op _ hc]
    refine ⟨fun hempty => ⟨_, rfl, ?_⟩, fun ops grid words v z n hempty hprep hv hput => ?_⟩
    · rw [if_pos hempty] at heq
      rw [State.runSlot_done s _ j 0 op b _ hpass.ready hpass.pred heq]
      exact State.finishFront_begunAs _ _ j 0 _ b
    · rw [hempty, if_neg Bool.false_ne_true] at heq
      dsimp only at heq
      rw [hprep, settleDecode_passes _ hv] at heq
      dsimp only at heq
      rw [hput] at heq
      have hstarted := State.runSlot_starts s z j 0 op b _ _ hpass.ready hpass.pred heq
      refine ⟨_, rfl, hstarted, fun hlong => ?_⟩
      obtain ⟨-, -, -, -, -, hstatus, -⟩ := hstarted
      rw [hstatus, State.ctx, matStart_ctxs hprep hput]
      exact State.matBegin_longSum r j _ hlong
  · have heq := hpass.sideDown_eq hrow
    rw [if_pos hempty] at heq
    rw [exec_engineCommand s j 0 op _ hc, State.runSlot_done s _ j 0 op b _ hpass.ready hpass.pred heq]
    exact ⟨_, rfl, State.finishFront_begunAs _ _ j 0 _ b⟩
  · have heq := hpass.sideDown_eq hrow
    rw [hempty, if_neg Bool.false_ne_true] at heq
    dsimp only at heq
    rw [hprep, settleDecode_passes _ hv] at heq
    dsimp only at heq
    rw [runShares_starts hwhole hz] at heq
    rw [exec_engineCommand s j 0 op _ hc]
    exact ⟨_, rfl, State.runSlot_starts s z.s j 0 op b _ _ hpass.ready hpass.pred heq⟩

end Sys2Proof.Proofs
end

section
/-! A front command that passes its decode: complete at once or started, by what its own start answers (R191, R255); and one that
its start keeps where it stands (R417). -/

namespace Sys2Proof.Machine

section
variable {j : JobIx} {s u r : State} {b : List Byte} {c : Instr} {e : EngIx} {op : Nat} {dies : List CIx}
  {uses : List (Nat × Use)} {own : State → List (Option Desc) → List (Nat × Nat)} {ds : List (Option Desc)}
  {f : State → List Byte → Nat → Begin}

theorem State.Passes.opcode (h : s.Passes j e op b dies uses own ds u) : opcodeOf b = op := by
  obtain ⟨-, -, -, -, -, -, -, hop, -⟩ := h.ready
  exact hop

/-- A command that passes its decode with nothing to write is complete at once (R191). -/
theorem State.Passes.completes (h : s.Passes j e op b dies uses own ds u) (hc : (c, e, op, f) ∈ engineCommands j)
    (hf : f (s.begins j e b) b (s.ctx j).nextFid = .done r) :
    ∃ t, exec c s = .next t ∧ t.BegunAs (s.begins j e b) j e (s.ctx j).nextFid b (.done r) := by
  rw [exec_engineCommand s j e op f hc, State.runSlot_done s r j e op b f h.ready h.pred hf]
  exact ⟨_, rfl, State.finishFront_begunAs _ r j e _ b⟩

/-- A command that passes its decode and starts stands in flight (R255). -/
theorem State.Passes.starts {m : Machine.Started} (h : s.Passes j e op b dies uses own ds u)
    (hc : (c, e, op, f) ∈ engineCommands j) (hf : f (s.begins j e b) b (s.ctx j).nextFid = .starts r m) :
    ∃ t, exec c s = .next t ∧ t.Started r j e (s.ctx j).nextFid b m := by
  rw [exec_engineCommand s j e op f hc]
  exact ⟨_, rfl, State.runSlot_starts s r j e op b f m h.ready h.pred hf⟩

end

/-! ### A command kept from its start -/

section
variable (s : State) (j : JobIx) (e : EngIx) (b : List Byte)

@[simp] theorem Ctx.stormClear_queues (c : Ctx) (step : Word) : (c.stormClear step).queues = c.queues := by
  unfold Ctx.stormClear
  split <;> rfl

@[simp] theorem Queue.resumeAt_inflight (q : Queue) (now found : Nat) : (q.resumeAt now found).inflight = q.inflight := by
  unfold Queue.resumeAt Queue.accrueWait
  dsimp only
  split <;> rfl

/-- A queue whose front command is kept from its start: its wait begins, on the account `a` if on any (Table 9-3). -/
def Queue.keptFrom (q : Queue) (now : Nat) (a : Option Nat) : Queue := { q with waitSince := a.map (fun a => (a, now)) }

/-- The state in which a command begins, before the storm flag is judged by its step. -/
def State.resumed : State :=
  (s.modQ j e (fun q => q.resumeAt s.tick 1)).modQ j e (fun q => { q with passed := 2 })

theorem State.begins_eq : s.begins j e b = (s.resumed j e).modCtx j (fun c => c.stormClear (cmdStep b)) := rfl

theorem State.resumed_queue : (s.resumed j e).queue j e = { (s.queue j e).resumeAt s.tick 1 with passed := 2 } := by
  rw [State.resumed, State.queue_modQ, State.queue_modQ]

/-- The storm flag is no part of a queue. -/
theorem State.begins_queue (k : EngIx) : (s.begins j e b).queue j k = (s.resumed j e).queue j k := by
  change ((s.begins j e b).ctx j).queues[k] = ((s.resumed j e).ctx j).queues[k]
  rw [State.begins_eq, State.ctx_modCtx, Ctx.stormClear_queues]

theorem State.begins_ctx_other {k : JobIx} (hk : k ≠ j) : (s.begins j e b).ctx k = (s.resumed j e).ctx k :=
  State.ctx_modCtx_other _ j k _ (Ne.symm hk)

/-- A command keeps its channel while it begins: what is in flight stays in flight. -/
theorem State.begins_channelBusy : (s.begins j 3 b).channelBusy j b = s.channelBusy j b := by
  rw [State.channelBusy, State.begins_queue, State.resumed_queue]
  exact congrArg (fun l : List Flight => l.any _) (Queue.resumeAt_inflight (s.queue j 3) s.tick 1)

variable {s j e b} {c : Instr} {op : Nat} {f : State → List Byte → Nat → Begin}

/-- A ready command that its start keeps stays at the front of its queue. -/
theorem State.FrontReady.stays (hready : s.FrontReady j e op b) (hpred : predHolds (s.ctx j) b = true)
    (hc : (c, e, op, f) ∈ engineCommands j) (hf : f (s.begins j e b) b (s.ctx j).nextFid = .stays) :
    ∃ t, exec c s = .next t ∧ t.BegunAs (s.begins j e b) j e (s.ctx j).nextFid b .stays := by
  have hrun : s.runSlot j e op f = (s.resumed j e).modQ j e
      (fun q => q.keptFrom (s.resumed j e).tick ((s.resumed j e).waitAccount j e b)) := by
    rw [State.runSlot_ready s j e op b f hready hpred, hf]
    rfl
  refine ⟨_, (exec_engineCommand s j e op f hc).trans (congrArg _ hrun), ?_, ?_, ?_, ?_, fun k hk => ?_, rfl⟩
  · rw [State.queue_modQ, State.resumed_queue]
    rfl
  · rw [State.queue_modQ, State.begins_queue]
    rfl
  · rw [State.queue_modQ, State.begins_queue]
    rfl
  · rw [State.queue_modQ, State.begins_queue]
    rfl
  · rw [State.begins_ctx_other s j e b hk]
    exact State.ctx_modQ_other _ j k e _ hk

end

end Sys2Proof.Machine
end

section
/-! The start of a vector command (R191, R233, R253, R262). -/

namespace Sys2Proof.Machine

variable {j : JobIx} {s u r : State} {b : List Byte} {op : Nat} {dies : List CIx} {ds : List (Option Desc)} {row : Bool}

/-- A vector command that passes its decode: complete at once with nothing to read or to write, else its rows run, those
of a ROUTE_TOPK at once and those of another once its operands are read. -/
theorem State.Passes.vector_eq (h : s.Passes j 1 op b dies (vecUses b) (fun _ ds => vecChecks b (vecPlan b ds)) ds u)
    (hrow : u.fixRow j (cmdStep b) = (row, r)) :
    State.vector j (s.begins j 1 b) b (s.ctx j).nextFid =
      if (vecPlan b ds).x.empty || (vecPlan b ds).o.empty then .done r
      else if op == 0x24 then
        runShares 1 3 b (s.ctx j).nextFid vuUnits ((List.range (vecPlan b ds).x.rows).map (vecPlan b ds).x.coords)
          (fun _ => Eng.routeItem b (vecPlan b ds) row) (fun _ => CDie.wakeVec) dies r j
      else
        let p := (Eng.vecIn b (vecPlan b ds) row).run (envOf r j b (s.ctx j).nextFid)
        settleDecode 1 b (homeOf ((s.begins j 1 b).ctx j)).val p.2 [] (fun s' =>
          runShares 1 3 b (s.ctx j).nextFid vuUnits (rowItems p.1.o) (Eng.vecItem b p.1) (fun _ => CDie.wakeVec) dies s' j) := by
  have hop := h.opcode
  obtain ⟨-, -, hengine, hfirst, hstep, v, hrun, hv, rfl, hown⟩ := h
  obtain ⟨rfl, hdies⟩ := hengine
  unfold State.vector
  dsimp only at hown ⊢
  rw [if_neg (not_nil_or_overtaken hdies hfirst), hrun]
  dsimp only
  rw [hown, stepFault_kept hstep, List.append_nil, List.append_nil, settleDecode_passes _ hv, hrow, hop]
  rfl

end Sys2Proof.Machine

namespace Sys2Proof.Proofs

open Sys2Proof.Machine

/-- Settles O21: past its decode a vector command is complete at once, or started with the shares that have run. -/
theorem vectorCommandsComplete : Obligations.VectorCommandsComplete := by
  rintro j s u r b c op fid dies ds p row hc rfl rfl hpass hrow
  have heq := hpass.vector_eq hrow
  refine ⟨fun hempty => ?_, fun x hop hx ho hwhole hw => ?_, fun vi w x hop hx ho hin hw hwhole hz => ?_⟩
  · rw [if_pos (by simpa using hempty)] at heq
    exact hpass.completes hc heq
  · rw [hx, ho, Bool.or_self, if_neg Bool.false_ne_true, if_pos (by simpa using hop), runShares_starts hwhole hw] at heq
    exact hpass.starts hc heq
  · rw [hx, ho, Bool.or_self, if_neg Bool.false_ne_true, if_neg (by simpa using hop)] at heq
    dsimp only at heq
    rw [hin, settleDecode_passes _ hw, runShares_starts hwhole hz] at heq
    exact hpass.starts hc heq

end Sys2Proof.Proofs
end

section
/-! The start of a command of the copy engine: COPY and WINDOW (R191, R215 to R217, R255). -/

namespace Sys2Proof.Machine

variable {j : JobIx} {s u r : State} {b : List Byte} {op : Nat} {dies : List CIx} {uses : List (Nat × Use)}
  {own : State → List (Option Desc) → List (Nat × Nat)} {ds : List (Option Desc)} {row : Bool}

/-! ### The copy engine -/

theorem State.Passes.copyDies (h : s.Passes j 2 op b dies uses own ds u) : (s.begins j 2 b).copyDies j b = some dies := by
  have hfirst := h.first
  obtain ⟨rfl, hdies⟩ := h.engine
  exact if_neg (not_nil_or_overtaken hdies hfirst)

/-- A copy command whose every share has run stands started with its operands; only a DISPATCH_BUILD writes a scoreboard. -/
theorem copyDone_starts {ops : List Scaled} {board : Option (Nat × Nat)} {go : Env × Option FaultAt} {z : Env}
    (h : go = (z, none)) (hz : z.waits = false) :
    copyDone b ops board go = .starts z.s
      { amax := z.amax, ops := ops.map some, dies := z.dies, board := if opcodeOf b == 0x37 then board else none } := by
  subst h
  unfold copyDone
  rw [hz]
  rfl

/-- A copy command that writes no scoreboard. -/
theorem copyDone_starts_none {ops : List Scaled} {go : Env × Option FaultAt} {z : Env} (h : go = (z, none))
    (hz : z.waits = false) :
    copyDone b ops none go = .starts z.s { amax := z.amax, ops := ops.map some, dies := z.dies } := by
  rw [copyDone_starts h hz, ite_self]

/-! ### COPY -/

/-- The lease of a staging area stops no command and keeps none waiting. -/
theorem Env.settled.staged {v : Env} (hv : v.settled) (ov : Overlap) (die : CIx) (x : Desc) (area : Option Desc) :
    (v.staged ov die x area).settled := by
  unfold Env.staged
  split <;> exact hv

/-- A COPY that passes its decode and that its overlap does not reject: complete at once on an empty output, else its rows
move once its operands are read and, where it must be, its source is staged. -/
theorem State.Passes.copy_eq (h : s.Passes j 2 0x30 b dies (copyUses b)
      (fun _ ds => copyOwn (operand ds 0) (operand ds 1) (ds.getD 2 none)) ds u)
    (hrow : u.fixRow j (cmdStep b) = (row, r)) {ov : Overlap}
    (hov : ov = overlapOf ((s.begins j 2 b).ctx j) (operand ds 0) (operand ds 1) (ds.getD 2 none) (firstDie dies))
    (hkept : ov ≠ .rejected) (hone : ov = .staged → oneDie b = []) :
    State.copy j (s.begins j 2 b) b (s.ctx j).nextFid =
      if (operand ds 1).empty then .done r
      else
        let p := (Eng.copyPrep b row ov (operand ds 0) (operand ds 1) (ds.getD 2 none)).run (envOf r j b (s.ctx j).nextFid)
        settleDecode 2 b (firstDie dies).val (p.2.staged ov (firstDie dies) (operand ds 0) (ds.getD 2 none)) [] (fun s' =>
          copyDone b [p.1.1.x, p.1.1.o] none
            (copyRun ov p.1.1 p.1.2 (operand ds 1) dies (envOf s' j b (s.ctx j).nextFid))) := by
  have hdies := h.copyDies
  have hstage : ¬ (ov == .staged && oneDie b != []) = true := by simpa using hone
  obtain ⟨-, -, -, -, hstep, v, hrun, hv, rfl, hown⟩ := h
  unfold State.copy
  dsimp only at hown ⊢
  rw [hdies, hrun]
  dsimp only
  rw [hown, stepFault_kept hstep, List.append_nil, List.append_nil, settleDecode_passes _ hv, ← hov,
    if_neg (by simpa using hkept), if_neg hstage, hrow]
  rfl

/-! ### WINDOW -/

/-- A WINDOW that passes its decode and whose sides do not meet: complete at once, and counted, on an empty output, else
its rows move once its operands are read, where a unit that makes window copies is in service. -/
theorem State.Passes.window_eq (h : s.Passes j 2 0x31 b dies (windowUses b) (fun _ ds => oneDie b ++
      windowChecks (operand ds 0) (operand ds 1) (spatials b) (s.begins j 2 b).cdies[firstDie dies]) ds u)
    (hrow : u.fixRow j (cmdStep b) = (row, r))
    (hmeet : (operand ds 0).empty = true ∨ (operand ds 1).empty = true ∨
      rangesMeet (footprint (operand ds 0)) (footprint (operand ds 1)) = false) :
    State.window j (s.begins j 2 b) b (s.ctx j).nextFid =
      if (operand ds 1).empty then .done (r.countXform (firstDie dies) 15 0)
      else if windowUnits r.cdies[firstDie dies] == [] then .stays
      else
        let p := (Eng.scaledPair b row (operand ds 0) (operand ds 1)).run (envOf r j b (s.ctx j).nextFid)
        settleDecode 2 b (firstDie dies).val p.2 [] (fun s' =>
          copyDone b [p.1.1, p.1.2] none
            (windowRun b p.1.1 p.1.2 (firstDie dies) (envOf s' j b (s.ctx j).nextFid))) := by
  have hdies := h.copyDies
  have hapart : ¬ (!(operand ds 0).empty && !(operand ds 1).empty &&
      rangesMeet (footprint (operand ds 0)) (footprint (operand ds 1))) = true := by
    rcases hmeet with h | h | h <;> simp [h]
  obtain ⟨-, -, -, -, hstep, v, hrun, hv, rfl, hown⟩ := h
  unfold State.window
  dsimp only at hown ⊢
  rw [hdies, hrun]
  dsimp only
  rw [List.nil_append, hown, stepFault_kept hstep, List.append_nil, settleDecode_passes _ hv, if_neg hapart, hrow]
  rfl

end Sys2Proof.Machine

namespace Sys2Proof.Proofs

open Sys2Proof.Machine

/-- Settles O22: past its decode a COPY or a WINDOW is complete at once, or started with the shares that have moved. -/
theorem copiesComplete : Obligations.CopiesComplete := by
  rintro j s u r b fid dies ds x y row rfl rfl rfl hrow
  refine ⟨fun ov hpass hov hkept hone => ?_, fun hpass hmeet => ?_⟩
  · have hc : (Instr.copy j, 2, 0x30, State.copy j) ∈ engineCommands j := by simp [engineCommands]
    have heq := hpass.copy_eq hrow hov hkept hone
    refine ⟨fun hempty => ?_, fun cc snap w z hempty hprep hw hgo hz => ?_⟩
    · rw [if_pos hempty] at heq
      exact hpass.completes hc heq
    · rw [hempty, if_neg Bool.false_ne_true] at heq
      dsimp only at heq
      rw [hprep, settleDecode_passes _ (hw.staged ov _ _ _), copyDone_starts_none hgo hz] at heq
      exact hpass.starts hc heq
  · have hc : (Instr.window j, 2, 0x31, State.window j) ∈ engineCommands j := by simp [engineCommands]
    have heq := hpass.window_eq hrow hmeet
    refine ⟨fun hempty => ?_, fun xs ys w z hempty hunits hprep hw hgo hz => ?_⟩
    · rw [if_pos hempty] at heq
      exact hpass.completes hc heq
    · rw [hempty, if_neg Bool.false_ne_true, if_neg (by simpa using hunits)] at heq
      dsimp only at heq
      rw [hprep, settleDecode_passes _ hw, copyDone_starts_none hgo hz] at heq
      exact hpass.starts hc heq

end Sys2Proof.Proofs
end

section
/-! The start of an indexed move, a DISPATCH_BUILD and a TOUCH_BUILD (R191, R221, R235, R236, R242, R243, R436). -/

namespace Sys2Proof.Machine

variable {j : JobIx} {s u r : State} {b : List Byte} {op : Nat} {dies : List CIx} {ds : List (Option Desc)} {row : Bool}

/-- An indexed move that passes its decode and whose sides hold rows enough for the entries counted: complete at once on an
empty destination, else its entries move once its operands are read. -/
theorem State.Passes.indexed_eq {rows : Option (List Nat)} {n : Nat} {v : Env}
    (h : s.Passes j 2 op b dies (indexedUses b) (fun _ ds => indexedOwn ((s.begins j 2 b).ctx j) b ds) ds u)
    (hprep : (Eng.indexedPrep b ds).run (envOf u j b (s.ctx j).nextFid) = ((rows, n), v)) (hv : v.settled)
    (hshort : (indexedOf b ds).short b n = false) (hrow : v.s.fixRow j (cmdStep b) = (row, r)) :
    State.indexed j (s.begins j 2 b) b (s.ctx j).nextFid =
      if (indexedOf b ds).c.d.empty then .done r
      else
        let p := (Eng.scaledPair b row (indexedOf b ds).c.s (indexedOf b ds).c.d).run (envOf r j b (s.ctx j).nextFid)
        settleDecode 2 b (firstDie dies).val p.2 [] (fun s' =>
          copyDone b [p.1.1, p.1.2] none
            (indexedRun { indexedOf b ds with c := copyCmd op p.1.1 p.1.2, rows := rows } n dies
              (envOf s' j b (s.ctx j).nextFid))) := by
  have hdies := h.copyDies
  have hop := h.opcode
  obtain ⟨-, -, -, -, hstep, w, hrun, hw, rfl, hown⟩ := h
  unfold State.indexed
  dsimp only at hown ⊢
  rw [hdies, hrun]
  dsimp only
  rw [hown, stepFault_kept hstep, List.append_nil, List.append_nil, settleDecode_passes _ hw, hprep]
  dsimp only
  rw [hshort, rank10, if_neg Bool.false_ne_true, settleDecode_passes _ hv, hrow, hop]
  rfl

/-- A DISPATCH_BUILD that passes its decode runs on its unit. -/
theorem State.Passes.dispatchBuild_eq (h : s.Passes j 2 0x37 b dies (dispatchUses b)
      (fun _ ds => dispatchOwn ((s.begins j 2 b).ctx j) b (dispatchOf b ds)) ds u)
    (hrow : u.fixRow j (cmdStep b) = (row, r)) :
    State.dispatchBuild j (s.begins j 2 b) b (s.ctx j).nextFid =
      let p := oneUnit (firstDie dies) b (Eng.dispatch (dispatchOf b ds)) (envOf r j b (s.ctx j).nextFid)
      copyDone b [] (if (Slot.imm b).testBit 41 then some (bitsOf (Slot.imm b) 40 35, p.1) else none) p.2 := by
  have hdies := h.copyDies
  obtain ⟨-, -, -, -, hstep, w, hrun, hw, rfl, hown⟩ := h
  unfold State.dispatchBuild
  dsimp only at hown ⊢
  rw [hdies, hrun]
  dsimp only
  rw [hown, stepFault_kept hstep, List.append_nil, List.append_nil, settleDecode_passes _ hw, hrow]

/-- A TOUCH_BUILD that passes its decode runs on its unit, its bitmap leased. -/
theorem State.Passes.touchBuild_eq (h : s.Passes j 2 0x38 b dies (touchUses b)
      (fun _ ds => touchOwn ((s.begins j 2 b).ctx j) b (touchOf b ds)) ds u)
    (hrow : u.fixRow j (cmdStep b) = (row, r)) :
    State.touchBuild j (s.begins j 2 b) b (s.ctx j).nextFid =
      let x := touchOf b ds
      let granted := r.grant 1 j.val (unitId 1 (firstDie dies).val 2 0) (s.ctx j).nextFid x.bitmap.base (x.bitmap.ext 0)
      copyDone b [] none (oneUnit (firstDie dies) b (Eng.touchBuild x.touch x.slots x.ins x.bitmap x.e x.count)
        (envOf granted j b (s.ctx j).nextFid)).2 := by
  have hdies := h.copyDies
  obtain ⟨-, -, -, -, hstep, w, hrun, hw, rfl, hown⟩ := h
  unfold State.touchBuild
  dsimp only at hown ⊢
  rw [hdies, hrun]
  dsimp only
  rw [hown, stepFault_kept hstep, List.append_nil, List.append_nil, settleDecode_passes _ hw, hrow]

end Sys2Proof.Machine

namespace Sys2Proof.Proofs

open Sys2Proof.Machine

/-- Settles O23: past its decode an indexed move is complete at once, or started with the shares that have moved; a build is
started with what its unit has done. -/
theorem indexedMovesAndBuildsComplete : Obligations.IndexedMovesAndBuildsComplete := by
  refine ⟨?_, ?_⟩
  · rintro j s u r b c op fid n dies ds x rows v row hc rfl rfl hpass hprep hv hshort hrow
    have heq := hpass.indexed_eq hprep hv hshort hrow
    refine ⟨fun hempty => ?_, fun src dst w z hempty hpair hw hgo hz => ?_⟩
    · rw [if_pos hempty] at heq
      exact hpass.completes hc heq
    · rw [hempty, if_neg Bool.false_ne_true] at heq
      dsimp only at heq
      rw [hpair, settleDecode_passes _ hw, copyDone_starts_none hgo hz] at heq
      exact hpass.starts hc heq
  · rintro j s u r b fid dies ds row z rfl hrow hz
    refine ⟨fun n hpass hunit => ?_, ?_⟩
    · have hc : (Instr.dispatchBuild j, 2, 0x37, State.dispatchBuild j) ∈ engineCommands j := by simp [engineCommands]
      have heq := hpass.dispatchBuild_eq hrow
      dsimp only at heq
      rw [hunit, copyDone_starts rfl hz, hpass.opcode] at heq
      exact hpass.starts hc heq
    · rintro x rfl hpass hunit
      have hc : (Instr.touchBuild j, 2, 0x38, State.touchBuild j) ∈ engineCommands j := by simp [engineCommands]
      have heq := hpass.touchBuild_eq hrow
      dsimp only at heq
      rw [hunit, copyDone_starts_none rfl hz] at heq
      exact hpass.starts hc heq

end Sys2Proof.Proofs
end

section
/-! The start of an update (R191, R345, R348, R359, R379) and of a collective (R191, R417). -/

namespace Sys2Proof.Machine

variable {j : JobIx} {s u r : State} {b : List Byte} {op : Nat} {ds : List (Option Desc)} {row : Bool}

theorem any_false_of_forall {α : Type} {n : Nat} {l : Vector α n} {p : α → Bool} (h : ∀ i : Fin n, p l[i] = false) :
    l.any p = false :=
  Vector.any_eq_false.2 fun i hi => by simpa using h ⟨i, hi⟩

/-! ### An update -/

/-- The state of an update's start: it is the one in execution, with the shares `left` waiting, and each S-die's work slot
is leased (R348, R379). -/
def State.putUpdate (s : State) (j : JobIx) (x : Upd) (fid op : Nat) (step : Word) (left : List (Nat × Nat)) : State :=
  (List.range 12).foldl (fun s st => s.grantCooper j x fid st)
    { (s.modCtx j (fun c => { c with updStarted := step :: c.updStarted })) with cpr := some ⟨j.val, fid, op, 0, left⟩ }

/-- An update that passes its decode, with no other in execution and no S-die held: complete at once where every output is
empty, else started once what it does first, with every Cooper free for the factored rule, has met no fault. -/
theorem State.Passes.update_eq
    (h : s.Passes j 4 op b [] (updUses b) (fun w ds => updChecks w (updOf b ds)) ds u) (hcpr : s.cpr = none)
    (hheld : ∀ st : SIx, s.sdies[st].held = false) (hrow : u.fixRow j (cmdStep b) = (row, r)) :
    ((updOf b ds).allEmpty = true → State.update j (s.begins j 4 b) b (s.ctx j).nextFid = .done r) ∧
    (∀ (ops : List (Option Scaled)) (left : List (Nat × Nat)) (v : Env), (updOf b ds).allEmpty = false →
      ((updOf b ds).op = 0x52 → r.sdies.all SDie.cooperRuns = true) →
      (Eng.updPrep b ds row).run (envOf r j b (s.ctx j).nextFid) = ((ops, left), v) → v.settled →
      State.update j (s.begins j 4 b) b (s.ctx j).nextFid =
        .starts (v.s.putUpdate j (Upd.of b ops) (s.ctx j).nextFid op (cmdStep b) left)
          { shares := if op = 0x52 then 1 else 0, ops := ops }) := by
  have hop := h.opcode
  have hfree : ¬ ((s.begins j 4 b).cpr.isSome || (s.begins j 4 b).overtaken j 4 [] ||
      (s.begins j 4 b).sdies.any (fun d => d.held)) = true := by
    rw [show (s.begins j 4 b).cpr = none from hcpr, h.first,
      show (s.begins j 4 b).sdies.any (fun d => d.held) = false from any_false_of_forall hheld]
    exact Bool.false_ne_true
  obtain ⟨-, -, -, -, hstep, w, hrun, ⟨hwaits, hstop⟩, rfl, hown⟩ := h
  unfold State.update
  dsimp only at hown ⊢
  rw [if_neg hfree, hrun]
  dsimp only
  rw [hwaits, hstop, hown, stepFault_kept hstep, List.append_nil, List.append_nil, if_neg Bool.false_ne_true]
  dsimp only [firstFault, List.foldl_nil, Option.map_none]
  rw [hrow]
  dsimp only
  refine ⟨fun hempty => if_pos hempty, fun ops left v hempty hcoopers hprep hv => ?_⟩
  have hgo : ¬ ((updOf b ds).op == 0x52 && !r.sdies.all SDie.cooperRuns) = true := by simpa using hcoopers
  rw [hempty, if_neg Bool.false_ne_true, if_neg hgo, hprep]
  dsimp only
  rw [hv.1, hv.2, if_neg Bool.false_ne_true, hop]
  simp only [beq_iff_eq]
  rfl

/-! ### A collective -/

/-- The state of a collective's start: it goes on among the others and holds its channel (R417). -/
def State.putCol (s : State) (j : JobIx) (q : ColRun) : State :=
  State.modCtx { s with cols := s.cols ++ [q] } j (fun c => { c with colBusy := c.colBusy.setField q.ch q.ch 1 })

/-- While its channel is held a collective stays (R417). -/
theorem State.collective_busy (h : s.channelBusy j b = true) (fid : Nat) :
    State.collective j (s.begins j 3 b) b fid = .stays := by
  unfold State.collective
  rw [State.begins_channelBusy, h]
  rfl

/-- A collective that passes its decode, with its channel free and no L-die held: complete at once with nothing to write,
else started once what it can send of its own has met no fault. -/
theorem State.Passes.collective_eq {x : ColPlan} (hx : x = colOf ((s.begins j 3 b).ctx j) b ds)
    (h : s.Passes j 3 op b [] (colUses ((s.begins j 3 b).ctx j) b) (fun _ ds => colChecks ((s.begins j 3 b).ctx j)
      (colOf ((s.begins j 3 b).ctx j) b ds) (ds.map Option.isSome)) ds u) (hchannel : s.channelBusy j b = false)
    (hheld : ∀ l : LIx, s.ldies[l].held = false) (hrow : u.fixRow j (cmdStep b) = (row, r)) :
    (x.idle b = true → State.collective j (s.begins j 3 b) b (s.ctx j).nextFid = .done r) ∧
    (∀ (ops : List (Option Scaled)) (q : ColRun) (v : Env), x.idle b = false →
      (Eng.colPrep ((s.begins j 3 b).ctx j) b ds row (x.fresh j b (s.ctx j).nextFid r.tick)).run
        (envOf (r.colLease j (s.ctx j).nextFid x (x.fresh j b (s.ctx j).nextFid r.tick)) j b (s.ctx j).nextFid) =
          ((ops, q), v) → v.settled →
      State.collective j (s.begins j 3 b) b (s.ctx j).nextFid =
        .starts (v.s.putCol j q) { shares := if q.finished then 0 else 1, amax := v.amax, ops := ops }) := by
  have hfree : ¬ ((s.begins j 3 b).channelBusy j b || (s.begins j 3 b).overtaken j 3 [] ||
      (s.begins j 3 b).ldies.any (fun d => d.held)) = true := by
    rw [State.begins_channelBusy, hchannel, h.first,
      show (s.begins j 3 b).ldies.any (fun d => d.held) = false from any_false_of_forall hheld]
    exact Bool.false_ne_true
  obtain ⟨-, -, -, -, hstep, w, hrun, hw, rfl, hown⟩ := h
  unfold State.collective
  dsimp only at hown ⊢
  rw [if_neg hfree, hrun]
  dsimp only
  rw [hown, stepFault_kept hstep, List.append_nil, List.append_nil, settleDecode_passes _ hw, hrow, ← hx]
  dsimp only
  refine ⟨fun hidle => if_pos hidle, fun ops q v hidle hprep hv => ?_⟩
  rw [hidle, if_neg Bool.false_ne_true, hprep]
  dsimp only
  rw [hv.1, hv.2, if_neg Bool.false_ne_true]
  rfl

end Sys2Proof.Machine

namespace Sys2Proof.Proofs

open Sys2Proof.Machine

/-- Settles O25: past its decode an update or a collective is complete at once, or started with what its own start makes; a
collective whose channel is held stays. -/
theorem updatesAndCollectivesStart : Obligations.UpdatesAndCollectivesStart := by
  rintro j s u r b c op fid ds row rfl
  refine ⟨fun hc hcpr hheld hpass hrow => ?_, fun hc => ⟨fun hbusy hready hpred => ?_, ?_⟩⟩
  · obtain ⟨hdone, hstarts⟩ := hpass.update_eq hcpr hheld hrow
    exact ⟨fun hempty => hpass.completes hc (hdone hempty), fun ops left v hempty hcoopers hprep hv =>
      hpass.starts hc (hstarts ops left v hempty hcoopers hprep hv)⟩
  · exact hready.stays hpred hc (State.collective_busy hbusy _)
  · intro x hchannel hheld hx hpass hrow
    obtain ⟨hdone, hstarts⟩ := hpass.collective_eq hx hchannel hheld hrow
    exact ⟨fun hidle => hpass.completes hc (hdone hidle), fun ops q v hidle hprep hv =>
      hpass.starts hc (hstarts ops q v hidle hprep hv)⟩

end Sys2Proof.Proofs
end

section
/-! Steps, admission and misses (R298 to R304, R307 to R311, R313): one step of the machine, a list accepted or rejected, and
a list past its deadline. -/

namespace Sys2Proof.Machine

/-! ### A step -/

theorem step_pending {s : State} {c : Instr} {rest : List Instr} (h : s.pending = c :: rest) :
    step s = exec c { s with pending := rest } := by
  unfold step
  rw [h]

theorem step_idle {s : State} (h : s.pending = []) : step s = idleTick s := by
  unfold step
  rw [h]

/-! ### Fields of a register -/

theorem Word.bit_or (v w : Word) (i : Nat) : (v ||| w).bit i = (v.bit i || w.bit i) := BitVec.getLsbD_or

theorem Word.flag_bit_same {i : Nat} (hi : i < 32) : (Word.flag true i).bit i = true := by
  have h := or_bit_same 0#32 hi
  rwa [BitVec.zero_or] at h

/-- A count in the upper half of a register leaves the lower half. -/
theorem Word.bump_upper_bit (w : Word) (n : Nat) {i : Nat} (hi : i < 16) : (w.bump 31 16 n).bit i = w.bit i := by
  have hlow : (w.bump 31 16 n).toNat % 2 ^ 16 = w.toNat % 2 ^ 16 := by
    simp only [Word.bump, Word.setField, Word.field, BitVec.toNat_ofNat]
    have hw := w.isLt
    omega
  have hbit := congrArg (fun x => x.testBit i) hlow
  simp only [Nat.testBit_mod_two_pow, hi, decide_true, Bool.true_and] at hbit
  exact hbit

/-- REASON and the queue of an admission status (R304). -/
theorem Word.admitStat_fields (w : Word) (q r : Nat) :
    ((w.setField 6 4 q).setField 3 0 r).field 3 0 = r % 16 ∧ ((w.setField 6 4 q).setField 3 0 r).field 6 4 = q % 8 := by
  simp only [Word.setField, Word.field, BitVec.toNat_ofNat]
  have hw := w.isLt
  constructor <;> omega

/-! ### What a context and a queue read after an update and a report -/

/-- The edge events below the first level event pend. -/
theorem pends_below_levels {n : Nat} (h : n < 280) : neverPends n = false ∧ levelEvent n = false := by
  simp only [neverPends, reservedEvent, levelEvent, Bool.or_eq_false_iff, Bool.and_eq_false_iff, decide_eq_false_iff_not,
    beq_eq_false_iff_ne]
  omega

theorem State.raise_pends (s : State) {n : Nat} (h : n < 280) : n ∈ (s.raise n).evc.pend :=
  State.raise_pend s n (pends_below_levels h).1 (pends_below_levels h).2

theorem State.Reports.ctx {s t : State} (h : s.Reports t) (j : JobIx) : t.ctx j = s.ctx j :=
  congrArg (fun v : Vector Ctx 64 => v[j]) h.ctxs

theorem State.Reports.queue {s t : State} (h : s.Reports t) (j : JobIx) (e : EngIx) : t.queue j e = s.queue j e :=
  congrArg (fun c : Ctx => c.queues[e]) (h.ctx j)

/-- An update of a context keeps what a report has left. -/
theorem State.Reports.modCtx {s t : State} (h : s.Reports t) (j : JobIx) (f : Ctx → Ctx) :
    (s.modCtx j f).Reports (t.modCtx j f) :=
  { h with ctxs := congrArg (fun v => upd v j f) h.ctxs }

theorem State.drawn_reports (s : State) : s.Reports s.drawn := { State.Reports.refl s with }

theorem State.queue_modCtx (s : State) (j : JobIx) (f : Ctx → Ctx) (e : EngIx) :
    (s.modCtx j f).queue j e = (f (s.ctx j)).queues[e] :=
  congrArg (fun c : Ctx => c.queues[e]) (State.ctx_modCtx s j f)

theorem Ctx.queue_modQ_other (c : Ctx) {e k : EngIx} (f : Queue → Queue) (h : k ≠ e) :
    (c.modQ e f).queues[k] = c.queues[k] := upd_other _ _ _ _ (Ne.symm h)

/-! ### A command or a list rejected (R275, R304) -/

variable (s v : State) (j : JobIx) (e : EngIx)

theorem State.reject_reports (cause : Nat) (b : List Byte) :
    (s.modQ j e (fun q => { q with
      state := .halted, cause := cause, faultCmd := cmdId b, waitSince := none, passed := 0 })).Reports
      (s.reject j e cause b) :=
  (State.record_reports _ _).trans (State.raise_reports _ _)

theorem State.reject_pend (cause : Nat) (b : List Byte) : 64 + j.val ∈ (s.reject j e cause b).evc.pend :=
  State.raise_pends _ (by omega)

/-- What the rejection of a list makes of its queue: `cmd` is the identifier of its LIST_HEAD. -/
def Queue.listRejected (q : Queue) (cmd : Word) (kept : Option Nat) : Queue := { q with
  state := if q.admitPend then q.state else .halted
  cause := 0x11
  faultCmd := cmd
  admitPend := false
  skipHead := kept.isNone
  afterSkip := match kept with
    | some n => q.held.drop n
    | none => q.held.drop 1 }

/-- What the rejection of a list makes of its context. -/
def Ctx.listRejected (c : Ctx) (e : EngIx) (reason : Nat) (cmd : Word) (kept : Option Nat) : Ctx :=
  { c with admitStat := ((c.admitStat.bump 31 16 1).setField 6 4 e.val).setField 3 0 reason }.modQ e
    (fun q => q.listRejected cmd kept)

/-- A list of `v` stands rejected in `t`. -/
def State.ListRejected (t v : State) (j : JobIx) (e : EngIx) (reason : Nat) : Prop :=
  (t.queue j e).state = (if (v.queue j e).admitPend then (v.queue j e).state else .halted) ∧
  (t.queue j e).cause = 0x11 ∧ (t.queue j e).lists = (v.queue j e).lists ∧ (t.queue j e).held = (v.queue j e).held ∧
  (t.ctx j).admitStat.field 3 0 = reason ∧ (t.ctx j).admitStat.field 6 4 = e.val ∧ 64 + j.val ∈ t.evc.pend ∧
  (∀ k, k ≠ j → t.ctx k = v.ctx k) ∧ (∀ k, k ≠ e → t.queue j k = v.queue j k) ∧ t.cdies = v.cdies

theorem State.rejectList_reports (reason pos : Nat) (first : Option Word) (kept : Option Nat) :
    (v.modCtx j (fun c => c.listRejected e reason (cmdId ((v.queue j e).held.headD ⟨[], 0, none⟩).bytes) kept)).Reports
      (v.rejectList j e reason pos first kept) := by
  refine State.Reports.trans ?_ ((State.record_reports _ _).trans (State.raise_reports _ _))
  rw [State.modQ, State.modCtx_modCtx]
  exact .refl _

theorem State.rejectList_listRejected (reason pos : Nat) (first : Option Word) (kept : Option Nat) :
    (v.rejectList j e reason pos first kept).ListRejected v j e (reason % 16) := by
  have h := State.rejectList_reports v j e reason pos first kept
  have hq : (v.rejectList j e reason pos first kept).queue j e = (v.queue j e).listRejected _ kept :=
    (h.queue j e).trans ((State.queue_modCtx v j _ e).trans (Ctx.queue_modQ _ e _))
  have hstat : ((v.rejectList j e reason pos first kept).ctx j).admitStat =
      (((v.ctx j).admitStat.bump 31 16 1).setField 6 4 e.val).setField 3 0 reason :=
    congrArg Ctx.admitStat ((h.ctx j).trans (State.ctx_modCtx v j _))
  obtain ⟨hreason, hqueue⟩ := Word.admitStat_fields ((v.ctx j).admitStat.bump 31 16 1) e.val reason
  refine ⟨congrArg Queue.state hq, congrArg Queue.cause hq, (congrArg Queue.lists hq :), (congrArg Queue.held hq :),
    hstat ▸ hreason, hstat ▸ hqueue.trans (Nat.mod_eq_of_lt (by omega)), State.raise_pends _ (by omega),
    fun k hk => (h.ctx k).trans (State.ctx_modCtx_other v j k _ (Ne.symm hk)), fun k hk => ?_, h.cdies⟩
  exact (h.queue j k).trans ((State.queue_modCtx v j _ k).trans (Ctx.queue_modQ_other _ _ hk))

/-! ### A walked list admitted (R301 to R304) -/

/-- The state after a list has been accepted: `x` has the list's own number. -/
def State.acceptList (v : State) (j : JobIx) (e : EngIx) (x : AdmList) : State :=
  v.modCtx j (fun c => { c.modQ e (fun q => { q with
    state := if q.admitPend then q.state else .active
    admitPend := false
    skipHead := false
    lists := q.lists ++ [x]
    curList := some x.lid }) with nextLid := c.nextLid + 1 })

theorem State.acceptList_queue (x : AdmList) : (v.acceptList j e x).queue j e = { v.queue j e with
    state := if (v.queue j e).admitPend then (v.queue j e).state else .active
    admitPend := false
    skipHead := false
    lists := (v.queue j e).lists ++ [x]
    curList := some x.lid } :=
  (State.queue_modCtx v j _ e).trans (Ctx.queue_modQ _ e _)

theorem State.acceptList_queue_other (x : AdmList) {k : EngIx} (hk : k ≠ e) :
    (v.acceptList j e x).queue j k = v.queue j k :=
  (State.queue_modCtx v j _ k).trans (Ctx.queue_modQ_other _ _ hk)

theorem State.acceptList_ctx_other (x : AdmList) {k : JobIx} (hk : k ≠ j) : (v.acceptList j e x).ctx k = v.ctx k :=
  State.ctx_modCtx_other v j k _ (Ne.symm hk)

/-- The commands of a list charged one by one. -/
def State.chargeList (s : State) (j : JobIx) (e : EngIx) (l : List Planned) : Charges × State :=
  ((List.range l.length).zip l).foldl (fun r p => Charges.add j e r p.1 p.2)
    ((⟨false, [], 0, 0, [], none, false, none⟩ : Charges), s)

/-- A list rejected or accepted by its charges: bad fields, then commands that are too long or cannot be sized, then the order
of deadlines, then the test of R302 on each of its engines. -/
theorem State.admitted_eq {u v : State} {j : JobIx} {e : EngIx} {l : List Planned} {a : Charges} {b : List Byte}
    {rsv adm dl : Nat} {eng : List Nat} (hcharge : u.chargeList j e l = (a, v)) (hwaits : a.waits = false)
    (hhead : l.head?.map (fun p => p.cmd.bytes) = some b) (hdl : dl = v.tick + headDeadline b)
    (hrsv : rsv = if headReserve b = 0xFFFF then min 100 ((v.ctx j).rknCfg.field 7 0) else headReserve b)
    (heng : eng = if a.engines = [] then [4 * e.val + (homeOf (v.ctx j)).val] else a.engines)
    (hadm : adm = ceilDiv (ceilDiv a.clocks 44 * (100 + rsv)) 100 + a.colls * (v.ctx j).rknCfg.field 31 12) :
    u.admitted j e l = some (
      if headRefused b || a.field then v.rejectList j e 4 0 a.first (some (heldOf l))
      else a.bad.elim
        (if (v.queue j e).lists.any (fun x => decide (dl < x.deadlineTick)) then
          v.rejectList j e 5 0 a.first (some (heldOf l))
        else if !eng.all (fun k => v.feasibleOn (v.admitTick eng) k dl adm) then
          v.rejectList j e 1 0 a.first (some (heldOf l))
        else v.acceptList j e ⟨(v.ctx j).nextLid, v.tick, dl, adm,
          44 * ((adm - ceilDiv a.clocks 44 - a.colls * (v.ctx j).rknCfg.field 31 12 : Nat) : Int), [], List.replicate 6 0, eng,
          a.plan, a.first.getD 0, false, false, false, 0⟩)
        (fun p => v.rejectList j e p.2 p.1 a.first (some (heldOf l)))) := by
  unfold State.chargeList at hcharge
  unfold State.admitted
  rw [hcharge]
  dsimp only
  rw [hwaits, hhead, Option.getD_some, if_neg Bool.false_ne_true, apply_ite some]
  simp only [beq_iff_eq]
  rw [← hrsv, ← heng, ← hadm, ← hdl]
  cases a.bad with
  | some p => rfl
  | none =>
    dsimp only [Option.elim]
    rw [apply_ite some (_ = true), apply_ite some (_ = true)]
    rfl

/-! ### The command LIST_ADMISSION (R298) -/

/-- What LIST_ADMISSION makes of a list read from its LIST_HEAD on. -/
def State.admitWalk (s : State) (j : JobIx) (e : EngIx) : Walk → State
  | .later => s
  | .faulted s => s
  | .length s l => s.rejectList j e 2 0 (firstCharged l) none
  | .whole s l =>
    if 4096 < l.length then s.rejectList j e 2 0 (firstCharged l) (some (heldOf l)) else (s.admitted j e l).getD s

section

variable {s : State} {j : JobIx} {e : EngIx} {h : HeldCmd} (hruns : s.runs j = true)
  (hstate : (s.queue j e).state = .admitting ∨ (s.queue j e).admitPend = true) (hreckoner : (s.reckoner j).isSome = true)
  (hfront : (s.queue j e).held.head? = some h) (hwhole : h.whole = true)
include hruns hstate hreckoner hfront hwhole

/-- LIST_ADMISSION with a whole command at the front of the queue. -/
theorem exec_listAdmission_front : exec (.listAdmission j e) s = .next (
    if !h.isHead && (s.queue j e).admitPend then s.modQ j e (fun q => { q with admitPend := false })
    else if !h.isHead then s.reject j e 1 h.bytes
    else s.admitWalk j e (State.walk j e walkFuel 0 0 [] s)) := by
  have hopen : ¬ (!s.runs j || !((s.queue j e).state == .admitting || (s.queue j e).admitPend) ||
      (s.reckoner j).isNone) = true := by
    simp only [hruns, Bool.or_eq_true_iff.2 (hstate.imp_left beq_iff_eq.2), Option.isNone_eq_false_iff.2 hreckoner]
    decide
  have hexec : exec (.listAdmission j e) s = execListAdmission j e s := rfl
  rw [hexec]
  unfold execListAdmission
  dsimp only
  rw [if_neg hopen, hfront, Option.filter_some, hwhole, if_pos rfl]
  dsimp only
  generalize State.walk j e walkFuel 0 0 [] s = w
  cases w <;> rfl

/-- What stands where a list must begin ends the admission of a disabled queue (R284). -/
theorem exec_listAdmission_pending (hhead : h.isHead = false) (hpend : (s.queue j e).admitPend = true) :
    exec (.listAdmission j e) s = .next (s.modQ j e (fun q => { q with admitPend := false })) := by
  rw [exec_listAdmission_front hruns hstate hreckoner hfront hwhole, hhead, hpend]
  rfl

/-- What stands where a list must begin is rejected with OPCODE (R268). -/
theorem exec_listAdmission_opcode (hhead : h.isHead = false) (hpend : (s.queue j e).admitPend = false) :
    exec (.listAdmission j e) s = .next (s.reject j e 1 h.bytes) := by
  rw [exec_listAdmission_front hruns hstate hreckoner hfront hwhole, hhead, hpend]
  rfl

theorem exec_listAdmission_head (hhead : h.isHead = true) {w : Walk} (hwalk : State.walk j e walkFuel 0 0 [] s = w) :
    exec (.listAdmission j e) s = .next (s.admitWalk j e w) := by
  rw [exec_listAdmission_front hruns hstate hreckoner hfront hwhole, hhead, hwalk]
  rfl

end

/-! ### The command DEADLINE_MISS (R307 to R311) -/

theorem mem_modFirst {α : Type} {p : α → Bool} (f : α → α) {x : α} {l : List α} (hx : x ∈ l) (hp : p x = true) :
    ∃ y, p y = true ∧ f y ∈ modFirst p f l := by
  induction l with
  | nil => cases hx
  | cons y l ih =>
    unfold modFirst
    split
    · exact ⟨y, ‹_›, List.mem_cons_self ..⟩
    · obtain rfl | hx := List.mem_cons.1 hx
      · contradiction
      · obtain ⟨z, hpz, hz⟩ := ih hx
        exact ⟨z, hpz, List.mem_cons_of_mem _ hz⟩

/-- The miss register after one more miss: of the engine `e`, for `cause` (R307). -/
def missWord (w : Word) (e : EngIx) (cause : Nat) (torn abandon : Bool) : Word :=
  (if w.bit 7 then w ||| Word.flag torn 9 ||| Word.flag abandon 8
    else Word.at' (w.field 31 16) 16 ||| Word.flag torn 9 ||| Word.flag abandon 8 ||| Word.flag true 7 |||
      Word.at' e.val 4 ||| Word.at' cause 0).bump 31 16 1

theorem missWord_missed (w : Word) (e : EngIx) (cause : Nat) (torn abandon : Bool) :
    (missWord w e cause torn abandon).bit 7 = true := by
  unfold missWord
  rw [Word.bump_upper_bit _ _ (by decide)]
  split
  case isTrue h => simp only [Word.bit_or, h, Bool.true_or]
  case isFalse => simp only [Word.bit_or, Word.flag_bit_same, Nat.reduceLT, Bool.or_true, Bool.true_or]

theorem missWord_abandoned (w : Word) (e : EngIx) (cause : Nat) (torn : Bool) :
    (missWord w e cause torn true).bit 8 = true := by
  unfold missWord
  rw [Word.bump_upper_bit _ _ (by decide)]
  split <;> simp only [Word.bit_or, Word.flag_bit_same, Nat.reduceLT, Bool.or_true, Bool.true_or]

/-- What a miss of the list `l` makes of its context. -/
def Ctx.missed (c : Ctx) (e : EngIx) (l : AdmList) (cause : Nat) (torn abandon : Bool) : Ctx :=
  { c.modQ e (fun q => { q with
      lists := modFirst (fun x => x.lid == l.lid) (fun x => { x with
        missed := true
        late := !abandon
        cause := cause }) q.lists }) with
    miss := missWord c.miss e cause torn abandon
    missStep := if c.miss.bit 7 then c.missStep else l.firstStep }

/-- The list of a miss is marked, and no queue changes but for that. -/
theorem Ctx.missed_queue (c : Ctx) (l : AdmList) (cause : Nat) (torn abandon : Bool) :
    (c.missed e l cause torn abandon).queues[e] = { c.queues[e] with
      lists := modFirst (fun x => x.lid == l.lid) (fun x => { x with
        missed := true
        late := !abandon
        cause := cause }) c.queues[e].lists } := Ctx.queue_modQ c e _

theorem Ctx.missed_queue_other (c : Ctx) (l : AdmList) (cause : Nat) (torn abandon : Bool) {k : EngIx} (hk : k ≠ e) :
    (c.missed e l cause torn abandon).queues[k] = c.queues[k] := Ctx.queue_modQ_other c _ hk

theorem Ctx.missed_list (c : Ctx) (l : AdmList) (cause : Nat) (torn abandon : Bool) (h : l ∈ c.queues[e].lists) :
    ∃ x ∈ (c.missed e l cause torn abandon).queues[e].lists, x.lid = l.lid ∧ x.missed = true ∧ x.late = !abandon := by
  rw [Ctx.missed_queue]
  obtain ⟨x, hlid, hx⟩ := mem_modFirst (p := fun x => x.lid == l.lid)
    (fun x => { x with missed := true, late := !abandon, cause := cause }) h (beq_self_eq_true _)
  exact ⟨_, hx, beq_iff_eq.1 hlid, rfl, rfl⟩

theorem exec_deadlineMiss : exec (.deadlineMiss j e) s = execDeadlineMiss j e s := rfl

theorem exec_deadlineMiss_none
    (h : (s.queue j e).lists.find? (fun x => !x.missed && decide (x.deadlineTick ≤ s.tick)) = none) :
    exec (.deadlineMiss j e) s = .next s := by
  rw [exec_deadlineMiss, execDeadlineMiss]
  dsimp only
  rw [h]

theorem exec_deadlineMiss_closed (h : (s.ctx j).state ≠ .opened) : exec (.deadlineMiss j e) s = .next s := by
  rw [exec_deadlineMiss, execDeadlineMiss]
  dsimp only
  split
  · rfl
  · rw [if_pos (bne_iff_ne.2 h)]

section

variable {s : State} {j : JobIx} {e : EngIx} {l : AdmList}
  (hlist : (s.queue j e).lists.find? (fun x => !x.missed && decide (x.deadlineTick ≤ s.tick)) = some l)
  (hopen : (s.ctx j).state = .opened)
include hlist hopen

/-- A miss marks its list and reports it; ABANDON decides between the fault of the job and LATE in its status. -/
theorem exec_deadlineMiss_missed : ∃ cause torn r f, f.cause = 0x2C ∧ ∀ {m : State},
    m = s.drawn.modCtx j (fun c => c.missed e l cause torn ((s.ctx j).rknCfg.bit 8)) →
    exec (.deadlineMiss j e) s = .next (
      if (s.ctx j).rknCfg.bit 8 then (((m.faultCtx j f).record r).raise (128 + j.val)).raise (64 + j.val)
      else ((m.record r).setStatus j jsLate).raise (128 + j.val)) := by
  rw [exec_deadlineMiss, execDeadlineMiss]
  dsimp only
  rw [hlist]
  dsimp only
  rw [hopen, if_neg (by decide), State.modQ, State.modCtx_modCtx]
  exact ⟨_, _, _, _, rfl, fun hm => by rw [hm]; rfl⟩

/-- A miss without ABANDON: reports, of the context with the list missed and LATE in its job status. -/
theorem exec_deadlineMiss_late (habandon : (s.ctx j).rknCfg.bit 8 = false) : ∃ cause torn t,
    exec (.deadlineMiss j e) s = .next t ∧ 128 + j.val ∈ t.evc.pend ∧
    (s.modCtx j (fun c => { c.missed e l cause torn false with
      jobStatus := c.jobStatus ||| Word.at' 1 jsLate })).Reports t := by
  obtain ⟨cause, torn, r, f, -, hexec⟩ := exec_deadlineMiss_missed hlist hopen
  rw [habandon] at hexec
  refine ⟨cause, torn, _, hexec rfl, State.raise_pends _ (by omega), ?_⟩
  have hmissed := ((State.drawn_reports s).modCtx j (fun c => c.missed e l cause torn false)).trans (State.record_reports _ r)
  have hlate := hmissed.modCtx j (fun c => { c with jobStatus := c.jobStatus ||| Word.at' 1 jsLate })
  rw [State.modCtx_modCtx] at hlate
  exact hlate.trans (State.raise_reports _ _)

/-- A miss with ABANDON: reports, of the job faulted with DEADLINE once the list is missed. -/
theorem exec_deadlineMiss_abandon (habandon : (s.ctx j).rknCfg.bit 8 = true) : ∃ cause torn f t,
    exec (.deadlineMiss j e) s = .next t ∧ 128 + j.val ∈ t.evc.pend ∧ 64 + j.val ∈ t.evc.pend ∧ f.cause = 0x2C ∧
    ((s.drawn.modCtx j (fun c => c.missed e l cause torn true)).faultCtx j f).Reports t := by
  obtain ⟨cause, torn, r, f, hcause, hexec⟩ := exec_deadlineMiss_missed hlist hopen
  rw [habandon] at hexec
  exact ⟨cause, torn, f, _, hexec rfl, (State.raise_reports _ _).pend _ (State.raise_pends _ (by omega)),
    State.raise_pends _ (by omega), hcause,
    (State.record_reports _ r).trans ((State.raise_reports _ _).trans (State.raise_reports _ _))⟩

end

/-! ### A job fault (R276) -/

theorem State.faultCtx_ctx_self (f : FaultAt) : (s.faultCtx j f).ctx j = { s.ctx j with
    colBusy := 0
    state := .faulted
    fault := faultWord f
    faultCmd := f.cmd
    faultStep := f.step
    queues := ((s.ctx j).queues.map Queue.cancelled).map (fun q =>
      { q with state := .halted, cause := f.cause, faultCmd := f.cmd }) } := by
  rw [State.faultCtx, State.cancelWork, State.modCtx_modCtx, State.ctx_modCtx]
  rfl

theorem State.faultCtx_queue (f : FaultAt) (k : EngIx) : (s.faultCtx j f).queue j k =
    { (s.queue j k).cancelled with state := .halted, cause := f.cause, faultCmd := f.cmd } := by
  have h : (s.faultCtx j f).queue j k = ((s.faultCtx j f).ctx j).queues[k] := rfl
  rw [h, State.faultCtx_ctx_self]
  simp only [Fin.getElem_fin, Vector.getElem_map]
  rfl

theorem State.faultCtx_ctx_other (f : FaultAt) {k : JobIx} (hk : k ≠ j) : (s.faultCtx j f).ctx k = s.ctx k := by
  rw [State.faultCtx, State.cancelWork, State.modCtx_modCtx, State.ctx_modCtx_other _ _ _ _ (Ne.symm hk)]
  rfl

theorem State.faultCtx_blocks (f : FaultAt) : (s.faultCtx j f).blocks = s.blocks.filter (fun b => b.job != j.val) := rfl

theorem State.faultCtx_sdies (f : FaultAt) : (s.faultCtx j f).sdies = s.sdies := rfl

end Sys2Proof.Machine

namespace Sys2Proof.Proofs

open Sys2Proof.Machine

/-- Settles O1: the queue of commands is either a command and a rest or empty, and an empty queue ticks. -/
theorem stepRunsFrontCommand : Obligations.StepRunsFrontCommand := by
  intro s
  refine ⟨fun c rest h => step_pending h, fun h hoff => ?_, fun h hoff htick => ?_, fun h hoff htick => ?_⟩
  · rw [step_idle h, idleTick, if_pos hoff]
  · rw [step_idle h, idleTick, if_neg hoff, if_pos htick]
    rfl
  · rw [step_idle h, idleTick, if_neg hoff, if_neg (Nat.not_lt.2 htick)]

/-- Settles O36: a list read whole takes the branch of the admission that its charges select; each rejection and the
acceptance leave what their own lemmas say. -/
theorem admissionKeepsDeadlines : Obligations.AdmissionKeepsDeadlines := by
  intro j e s u v w h l a b rsv adm dl eng hruns hstate hreckoner hfront hwhole rejected
  have hrejected : ∀ {z : State} {reason pos : Nat} {first : Option Word} {kept : Option Nat},
      exec (.listAdmission j e) s = .next (z.rejectList j e reason pos first kept) → rejected z (reason % 16) :=
    fun hexec => ⟨_, hexec, State.rejectList_listRejected _ j e _ _ _ _⟩
  refine ⟨fun hhead => ⟨fun hpend => ?_, fun hpend => ?_⟩, fun hhead hwalk => ?_, fun hhead hwalk hbytes => ?_⟩
  · exact exec_listAdmission_pending hruns hstate hreckoner hfront hwhole hhead hpend
  · have hr := State.reject_reports s j e 1 h.bytes
    have hq := (hr.queue j e).trans (State.queue_modQ s j e _)
    exact ⟨_, exec_listAdmission_opcode hruns hstate hreckoner hfront hwhole hhead hpend, congrArg Queue.state hq,
      congrArg Queue.cause hq, congrArg Queue.faultCmd hq, (congrArg Queue.held hq :), State.reject_pend s j e 1 h.bytes,
      fun k hk => (hr.ctx k).trans (State.ctx_modQ_other s j k e _ hk)⟩
  · exact hrejected (exec_listAdmission_head hruns hstate hreckoner hfront hwhole hhead hwalk)
  · have hexec := exec_listAdmission_head hruns hstate hreckoner hfront hwhole hhead hwalk
    rw [State.admitWalk] at hexec
    refine ⟨fun hlong => ?_, fun hshort hcharge hwaits => ?_⟩
    · rw [if_pos hlong] at hexec
      exact hrejected hexec
    rw [if_neg (Nat.not_lt.2 hshort)] at hexec
    have hadmitted := State.admitted_eq hcharge hwaits hbytes rfl rfl rfl rfl
    refine ⟨fun hbad => ?_, fun href hfield => ⟨fun pos reason hbad => ?_, fun hbad hdl => ?_⟩⟩
    · rw [hadmitted, if_pos (Bool.or_eq_true_iff.2 hbad)] at hexec
      exact hrejected hexec
    · rw [hadmitted, href, hfield, if_neg (by decide), hbad] at hexec
      rw [BitVec.toNat_ofNat]
      exact hrejected hexec
    · refine ⟨fun ⟨x, hx, hearlier⟩ => ?_, fun hlater hrsv heng hadm => ?_⟩
      · rw [State.admitted_eq hcharge hwaits hbytes hdl rfl rfl rfl, href, hfield, if_neg (by decide), hbad, Option.elim_none,
          if_pos (List.any_eq_true.2 ⟨x, hx, decide_eq_true hearlier⟩)] at hexec
        exact hrejected hexec
      have horder : ¬ (v.queue j e).lists.any (fun x => decide (dl < x.deadlineTick)) = true := fun hany => by
        obtain ⟨x, hx, hearlier⟩ := List.any_eq_true.1 hany
        exact Nat.not_lt.2 (hlater x hx) (of_decide_eq_true hearlier)
      rw [State.admitted_eq hcharge hwaits hbytes hdl hrsv heng hadm, href, hfield, if_neg (by decide), hbad, Option.elim_none,
        if_neg horder] at hexec
      refine ⟨fun ⟨k, hk, hmisses⟩ => ?_, fun hkeeps => ?_⟩
      · rw [List.all_eq_false.2 ⟨k, hk, Bool.eq_false_iff.1 hmisses⟩, if_pos (by decide)] at hexec
        exact hrejected hexec
      · rw [List.all_eq_true.2 hkeeps, if_neg (by decide)] at hexec
        have hq := State.acceptList_queue v j e
        exact ⟨_, _, hexec, (congrArg Queue.lists (hq _) :), rfl, rfl, rfl, rfl, rfl, rfl, rfl, rfl, rfl,
          (congrArg Queue.curList (hq _) :), (congrArg Queue.state (hq _) :), (congrArg Queue.held (hq _) :),
          fun k hk => State.acceptList_ctx_other v j e _ hk, fun k hk => State.acceptList_queue_other v j e _ hk,
          rfl, rfl, rfl⟩

/-- Settles O37: a miss is reported of the context with the list marked, and with ABANDON of its job faulted. -/
theorem missedListRunsLateOrFaults : Obligations.MissedListRunsLateOrFaults := by
  intro j e s
  refine ⟨fun h => ?_, fun l hlist hopen => ⟨fun habandon => ?_, fun habandon => ?_⟩⟩
  · obtain h | h := h
    · exact exec_deadlineMiss_closed s j e h
    · refine exec_deadlineMiss_none s j e (List.find?_eq_none.2 fun x hx => ?_)
      obtain hmissed | hearly := h x hx
      · rw [hmissed, Bool.not_true, Bool.false_and]
        exact Bool.false_ne_true
      · rw [decide_eq_false (Nat.not_le.2 hearly), Bool.and_false]
        exact Bool.false_ne_true
  · obtain ⟨cause, torn, t, hexec, hpend, hr⟩ := exec_deadlineMiss_late hlist hopen habandon
    have hc := (hr.ctx j).trans (State.ctx_modCtx s j _)
    have hq : ∀ k, t.queue j k = ((s.ctx j).missed e l cause torn false).queues[k] :=
      fun k => (congrArg (fun c : Ctx => c.queues[k]) hc :)
    have hqe := (hq e).trans (Ctx.missed_queue e (s.ctx j) l cause torn false)
    obtain ⟨x, hx, hmarked⟩ := Ctx.missed_list e (s.ctx j) l cause torn false (List.mem_of_find?_eq_some hlist)
    refine ⟨t, hexec, (congrArg Ctx.state hc).trans hopen, ?_, ?_, ⟨x, (hq e).symm ▸ hx, hmarked⟩,
      (congrArg Queue.held hqe :), (congrArg Queue.inflight hqe :), (congrArg Queue.state hqe :),
      fun k hk => (hq k).trans (Ctx.missed_queue_other e _ l cause torn false hk), hpend,
      fun k hk => (hr.ctx k).trans (State.ctx_modCtx_other s j k _ (Ne.symm hk)), hr.blocks, hr.cdies⟩
    · rw [hc]
      exact or_bit_same _ (by decide)
    · rw [hc]
      exact missWord_missed _ e cause torn false
  · obtain ⟨cause, torn, f, t, hexec, hpend, hjob, hcause, hr⟩ := exec_deadlineMiss_abandon hlist hopen habandon
    have hc := (hr.ctx j).trans (State.faultCtx_ctx_self _ j f)
    have hmiss : (t.ctx j).miss = missWord (s.ctx j).miss e cause torn true := by
      rw [hc, State.ctx_modCtx]
      rfl
    refine ⟨t, hexec, congrArg Ctx.state hc, ?_, ?_, fun k => ?_, hpend, hjob, fun k hk => ?_, fun b hb => ?_, hr.sdies⟩
    · rw [hmiss, missWord_missed]
    · rw [hmiss, missWord_abandoned]
    · rw [hr.queue j k, State.faultCtx_queue]
      exact ⟨rfl, hcause, rfl⟩
    · rw [hr.ctx k, State.faultCtx_ctx_other _ j f hk]
      exact State.ctx_modCtx_other _ j k _ (Ne.symm hk)
    · rw [hr.blocks, State.faultCtx_blocks] at hb
      exact bne_iff_ne.1 (List.mem_filter.1 hb).2

end Sys2Proof.Proofs
end

section
/-! The phases of a factored update (R358, R359): the phase that COOPER_PHASE_ADVANCE runs once every S-die has finished one. -/

namespace Sys2Proof.Machine

variable {j : JobIx} {s : State} {r : CprRun} {f : Flight}

/-! ### The command -/

/-- What the phase after the one that every S-die has finished leaves. -/
def State.nextPhase (s : State) (j : JobIx) (r : CprRun) (f : Flight) : Env :=
  ((Eng.updPhase (Upd.of f.bytes f.ops) (r.phase + 1)).run (envOf s j f.bytes r.fid)).2

/-- The state after a phase that has run whole: the leases of the update last on (R436), its share stays open unless the
phase is the last one, and its phase counts up. -/
def Env.phaseDone (v : Env) (j : JobIx) (r : CprRun) : State :=
  { (v.s.renew 4 j.val r.fid).modQ j 4 (fun q => { q with
      inflight := modFirst (fun x => x.fid == r.fid) (fun x => { x with shares := if r.phase = 2 then 0 else 1 }) q.inflight })
    with cpr := some { r with phase := r.phase + 1 } }

theorem exec_cooperPhaseAdvance : exec (.cooperPhaseAdvance j) s = execCooperPhaseAdvance j s := rfl

/-- The update `r` in flight advances where it is a factored one of this running context with a phase still to come and
every S-die goes; a phase that cannot have its reads leaves all as it was, and one that meets a fault faults the job. -/
theorem exec_cooperPhaseAdvance_inFlight (hcpr : s.cpr = some r) (hf : s.flight j 4 r.fid = some f) :
    exec (.cooperPhaseAdvance j) s = .next (
      if r.job != j.val || r.opcode != 0x52 || decide (3 ≤ r.phase) || !s.runs j ||
          !s.sdies.all (fun d => !d.held && d.cprEng.goes) then s
      else if (s.nextPhase j r f).waits then s
      else match (s.nextPhase j r f).stop with
        | some cause => (s.nextPhase j r f).s.jobFault j (cooperFault cause (s.nextPhase j r f).die f.bytes)
        | none => (s.nextPhase j r f).phaseDone j r) := by
  rw [exec_cooperPhaseAdvance, execCooperPhaseAdvance]
  dsimp only
  rw [hcpr]
  dsimp only
  rw [hf, Env.phaseDone]
  simp only [beq_iff_eq]
  rfl

theorem exec_cooperPhaseAdvance_idle (hcpr : s.cpr = none) : exec (.cooperPhaseAdvance j) s = .next s := by
  rw [exec_cooperPhaseAdvance, execCooperPhaseAdvance, hcpr]

/-- An update whose command is not in flight in this context advances nothing. -/
theorem exec_cooperPhaseAdvance_absent (hcpr : s.cpr = some r) (hf : s.flight j 4 r.fid = none) :
    exec (.cooperPhaseAdvance j) s = .next s := by
  rw [exec_cooperPhaseAdvance, execCooperPhaseAdvance, hcpr]
  dsimp only
  rw [hf]

theorem exec_cooperPhaseAdvance_stays (hcpr : s.cpr = some r) (hother : r.job ≠ j.val ∨ 3 ≤ r.phase) :
    exec (.cooperPhaseAdvance j) s = .next s := by
  cases hf : s.flight j 4 r.fid with
  | none => exact exec_cooperPhaseAdvance_absent hcpr hf
  | some f =>
    rw [exec_cooperPhaseAdvance_inFlight hcpr hf, if_pos]
    obtain hjob | hphase := hother
    · simp [hjob]
    · simp [hphase]

theorem exec_cooperPhaseAdvance_phaseDone (hcpr : s.cpr = some r) (hf : s.flight j 4 r.fid = some f) (hjob : r.job = j.val)
    (hop : r.opcode = 0x52) (hphase : r.phase < 3) (hruns : s.runs j = true)
    (hdies : s.sdies.all (fun d => !d.held && d.cprEng.goes) = true) (hv : (s.nextPhase j r f).settled) :
    exec (.cooperPhaseAdvance j) s = .next ((s.nextPhase j r f).phaseDone j r) := by
  obtain ⟨hwaits, hstop⟩ := hv
  have hgo : ¬ (r.job != j.val || r.opcode != 0x52 || decide (3 ≤ r.phase) || !s.runs j ||
      !s.sdies.all (fun d => !d.held && d.cprEng.goes)) = true := by
    simp [hjob, hop, hphase, hruns, hdies]
  rw [exec_cooperPhaseAdvance_inFlight hcpr hf, if_neg hgo, hwaits, hstop, if_neg Bool.false_ne_true]

/-! ### What a phase that has run whole leaves of the contexts -/

variable (v : Env) (j : JobIx) (r : CprRun)

theorem Env.phaseDone_queue : (v.phaseDone j r).queue j 4 = { v.s.queue j 4 with
    inflight := modFirst (fun x => x.fid == r.fid) (fun x => { x with shares := if r.phase = 2 then 0 else 1 })
      (v.s.queue j 4).inflight } :=
  State.queue_modQ (v.s.renew 4 j.val r.fid) j 4 _

theorem Env.phaseDone_queue_other {k : EngIx} (hk : k ≠ 4) : (v.phaseDone j r).queue j k = v.s.queue j k :=
  (State.queue_modCtx (v.s.renew 4 j.val r.fid) j _ k).trans (Ctx.queue_modQ_other (v.s.ctx j) _ hk)

theorem Env.phaseDone_sb : ((v.phaseDone j r).ctx j).sb = (v.s.ctx j).sb :=
  (congrArg Ctx.sb (State.ctx_modQ (v.s.renew 4 j.val r.fid) j 4 _) :)

theorem Env.phaseDone_ctx_other {k : JobIx} (hk : k ≠ j) : (v.phaseDone j r).ctx k = v.s.ctx k :=
  State.ctx_modQ_other (v.s.renew 4 j.val r.fid) j k 4 _ hk

end Sys2Proof.Machine

namespace Sys2Proof.Proofs

open Sys2Proof.Machine

/-- Settles O26: a phase that has run whole counts up and changes only its share beyond what it did; no other update moves. -/
theorem cooperPhasesAdvance : Obligations.CooperPhasesAdvance := by
  refine fun j s => ⟨?_, ?_⟩
  · rintro r f v hcpr hf hjob hop hphase hruns hdies rfl hv
    have hexec := exec_cooperPhaseAdvance_phaseDone hcpr hf hjob hop hphase hruns hdies hv
    exact ⟨_, hexec, rfl, rfl, rfl, rfl, Env.phaseDone_sb _ j r, fun k hk => Env.phaseDone_ctx_other _ j r hk,
      fun k hk => Env.phaseDone_queue_other _ j r hk, congrArg Queue.inflight (Env.phaseDone_queue _ j r), rfl, rfl⟩
  · rintro (hcpr | ⟨r, hcpr, hother⟩)
    · exact exec_cooperPhaseAdvance_idle hcpr
    · exact exec_cooperPhaseAdvance_stays hcpr hother

end Sys2Proof.Proofs
end

section
/-! The record ring (R451): a write of FLT_RING_SIZE or of FLT_RING_TAIL, and event 320 after it. -/

namespace Sys2Proof.Machine

/-! ### Fields of FLT_RING_SIZE -/

/-- A write of bit 31 leaves LOG2. -/
theorem Word.setField_top_field (v : Word) (n : Nat) : (v.setField 31 31 n).field 4 0 = v.field 4 0 := by
  simp only [Word.setField, Word.field, BitVec.toNat_ofNat]
  have hv := v.isLt
  omega

theorem Word.setField_top_bit (v : Word) : (v.setField 31 31 1).bit 31 = true := by
  have h : (v.setField 31 31 1).toNat / 2 ^ 31 = 1 := by
    simp only [Word.setField, Word.field, BitVec.toNat_ofNat]
    have hv := v.isLt
    omega
  rw [Word.bit, BitVec.getLsbD, Nat.testBit_eq_decide_div_mod_eq, h]
  rfl

/-- A LOG2 alone, with ENABLE clear. -/
theorem Word.at'_log2 {n : Nat} (h : n < 32) : (Word.at' n 0).field 4 0 = n ∧ (Word.at' n 0).bit 31 = false := by
  have hn : (Word.at' n 0).toNat = n := by
    simp only [Word.at', BitVec.toNat_ofNat]
    omega
  constructor
  · rw [Word.field, hn]
    omega
  · rw [Word.bit, BitVec.getLsbD, hn, Nat.testBit_eq_decide_div_mod_eq]
    simp only [decide_eq_false_iff_not]
    omega

/-! ### Memory and the condition of an event -/

theorem mem_eraseNat (a b : Nat) (l : List Nat) : a ∈ eraseNat b l ↔ a ∈ l ∧ a ≠ b := by
  simp [eraseNat]

variable (s : State) (rq : Requester) (v : Word)

theorem State.sendMsix_mem (c : Nat) : (s.sendMsix c).mem = s.mem := by
  unfold State.sendMsix
  split
  · rfl
  · unfold State.msixOn
    dsimp only
    split <;> rfl

theorem State.evUpdate_mem (f : Evc → Evc) : (s.evUpdate f).mem = s.mem := by
  unfold State.evUpdate
  dsimp only
  split <;> split <;> simp only [State.sendMsix_mem]

theorem State.setCond_mem (e : Nat) (b : Bool) : (s.setCond e b).mem = s.mem := by
  unfold State.setCond
  split
  · rfl
  · exact State.evUpdate_mem s _

/-- The condition of a level event is as its source sets it. -/
theorem State.mem_setCond_cond {e : Nat} (b : Bool) (h : levelEvent e = true) :
    e ∈ (s.setCond e b).evc.cond ↔ b = true := by
  rw [State.setCond_cond s e b h]
  cases b with
  | false => simp [mem_eraseNat]
  | true => simp [mem_insertNat]

/-- Event 320 follows HEAD and TAIL (R451). -/
theorem State.ringLevel_cond : 320 ∈ s.ringLevel.evc.cond ↔ s.flt.head ≠ s.flt.tail :=
  (State.mem_setCond_cond s _ rfl).trans bne_iff_ne

theorem State.ringLevel_mem : s.ringLevel.mem = s.mem := State.setCond_mem s 320 _

theorem State.ringLevel_reports : s.Reports s.ringLevel := State.setCond_reports s 320 _

/-! ### A write of FLT_RING_SIZE -/

/-- A size and a place that a ring may have (R451). -/
def Flt.takesRing (f : Flt) (log2 : Nat) : Bool :=
  6 ≤ log2 && log2 ≤ 20 && ringPlace f.ringBase (64 * 2 ^ log2)

theorem State.ringSize_enabled (h : s.flt.ringEn = true) :
    s.ringSize rq v = s.setFlt (fun f => { f with ringEn := v.bit 31 }) := if_pos h

/-- A write without ENABLE of a disabled ring sets LOG2 alone. -/
theorem State.ringSize_clear (h : s.flt.ringEn = false) (hv : v.bit 31 = false) :
    s.ringSize rq v = s.setFlt (fun f => { f with ringLog2 := v.field 4 0 }) := by
  unfold State.ringSize
  dsimp only
  rw [h, hv]
  rfl

/-- A write with ENABLE of a disabled ring enables it, or is refused and recorded. -/
theorem State.ringSize_set (h : s.flt.ringEn = false) (hv : v.bit 31 = true) : s.ringSize rq v =
    if s.flt.takesRing (v.field 4 0) then
      (s.setFlt (fun f => { f with ringLog2 := v.field 4 0, ringEn := true, head := 0, tail := 0 })).ringLevel
    else (s.setFlt (fun f => { f with ringLog2 := v.field 4 0 })).regAccess rq ringSizeAddr 4 := by
  unfold State.ringSize
  dsimp only
  rw [h, hv]
  rfl

theorem exec_ringEnable : exec (.ringEnable rq v) s = .next (s.ringSize rq (v.setField 31 31 1)) := rfl

theorem exec_ringEnable_disabled (h : s.flt.ringEn = false) : exec (.ringEnable rq v) s = .next (
    if s.flt.takesRing (v.field 4 0) then
      (s.setFlt (fun f => { f with ringLog2 := v.field 4 0, ringEn := true, head := 0, tail := 0 })).ringLevel
    else (s.setFlt (fun f => { f with ringLog2 := v.field 4 0 })).regAccess rq ringSizeAddr 4) := by
  rw [exec_ringEnable, State.ringSize_set s rq _ h (Word.setField_top_bit v), Word.setField_top_field]

theorem exec_ringEnable_enabled (h : s.flt.ringEn = true) : exec (.ringEnable rq v) s = .next s := by
  rw [exec_ringEnable, State.ringSize_enabled s rq _ h, Word.setField_top_bit, ← h]
  rfl

/-- RING_DISABLE leaves LOG2 as it reads. -/
theorem exec_ringDisable (h : s.flt.ringLog2 < 32) :
    exec (.ringDisable rq) s = .next (s.setFlt (fun f => { f with ringEn := false })) := by
  obtain ⟨hlog, hen⟩ := Word.at'_log2 h
  have hexec : exec (.ringDisable rq) s = .next (s.ringSize rq (Word.at' s.flt.ringLog2 0)) := rfl
  rw [hexec]
  cases hr : s.flt.ringEn with
  | true => rw [State.ringSize_enabled s rq _ hr, hen]
  | false =>
    rw [State.ringSize_clear s rq _ hr hen, hlog, ← hr]
    rfl

/-! ### A write of FLT_RING_TAIL -/

theorem exec_ringTailWrite : exec (.ringTailWrite rq v) s = .next (
    if v.field 19 0 < 2 ^ s.flt.ringLog2 then (s.setFlt (fun f => { f with tail := v.field 19 0 })).ringLevel
    else s.regAccess rq ringTailAddr 4) := rfl

end Sys2Proof.Machine

namespace Sys2Proof.Proofs

open Sys2Proof.Machine

/-- Settles O51: ENABLE acts on a disabled ring alone, and event 320 follows HEAD and TAIL wherever one of them is written. -/
theorem recordRingConfigures : Obligations.RecordRingConfigures := by
  intro rq v s
  refine ⟨fun hen hlo hhi hplace => ?_, fun hen hbad => ?_, exec_ringEnable_enabled s rq v, exec_ringDisable s rq,
    fun htail => ?_, fun htail => ?_⟩
  · have htakes : s.flt.takesRing (v.field 4 0) = true := by simp [Flt.takesRing, hlo, hhi, hplace]
    rw [exec_ringEnable_disabled s rq v hen, if_pos htakes]
    exact ⟨_, rfl, fun h => (State.ringLevel_cond _).1 h rfl, State.ringLevel_mem _, State.ringLevel_reports _⟩
  · have htakes : ¬ s.flt.takesRing (v.field 4 0) = true := by
      simp only [Flt.takesRing, Bool.and_eq_true, decide_eq_true_eq]
      rintro ⟨⟨hlo, hhi⟩, hplace⟩
      obtain h | h | h := hbad
      · exact Nat.not_le.2 h hlo
      · exact Nat.not_le.2 h hhi
      · exact Bool.eq_false_iff.1 h hplace
    rw [exec_ringEnable_disabled s rq v hen, if_neg htakes]
    exact ⟨_, rfl, State.regAccess_reports _ _ _ _⟩
  · rw [exec_ringTailWrite, if_pos htail]
    exact ⟨_, rfl, State.ringLevel_cond _, State.ringLevel_mem _, State.ringLevel_reports _⟩
  · rw [exec_ringTailWrite, if_neg (Nat.not_lt.2 htail)]
    exact ⟨_, rfl, State.regAccess_reports _ _ _ _⟩

end Sys2Proof.Proofs
end

section
/-! Units and their fences (R31, R431 to R433): the state of a unit by its name, what its fence does to it, and what every
fence reports. -/

namespace Sys2Proof.Machine

variable {w : Word} {s : State} {d : CIx} {st : SIx} {l : LIx}

/-! ### The state of a unit, by its name (Table 14-9) -/

theorem UnitState.code_eq_three (x : UnitState) : x.code = 3 ↔ x = .fenced := by cases x <;> decide

theorem EngOverride.code_eq_three (x : EngOverride) : x.code = 3 ↔ x = .fenced := by cases x <;> decide

theorem Tile.code_eq_three (x : Tile) : x.code = 3 ↔ x.state = .fenced := by
  unfold Tile.code
  cases x.state <;> cases x.role <;> decide

theorem Tile.code_eq_one (x : Tile) : x.code = 1 ↔ x.state = .migrating := by
  unfold Tile.code
  cases x.state <;> cases x.role <;> decide

theorem State.unitStat_tile {i : TileIx} (h : unitName w = ⟨1, d.val, 1, i.val⟩) :
    s.unitStat w = (s.cdies[d]).tiles[i].code := by
  simp only [State.unitStat, h, cdieOf, Fin.ofNat_val_eq_self]

theorem State.unitStat_bank {b : Fin 51} (h : unitName w = ⟨1, d.val, 2, b.val⟩) :
    s.unitStat w = (s.cdies[d]).banks[b].state.code := by
  simp only [State.unitStat, h, cdieOf, Fin.ofNat_val_eq_self]

theorem State.unitStat_vector {i : Fin 16} (h : unitName w = ⟨1, d.val, 3, i.val⟩) :
    s.unitStat w = (s.cdies[d]).vus[i].state.code := by
  simp only [State.unitStat, h, cdieOf, Fin.ofNat_val_eq_self]

theorem State.unitStat_copy {i : Fin 16} (h : unitName w = ⟨1, d.val, 4, i.val⟩) :
    s.unitStat w = (s.cdies[d]).cps[i].state.code := by
  simp only [State.unitStat, h, cdieOf, Fin.ofNat_val_eq_self]

theorem State.unitStat_engines {n : Nat} (h : unitName w = ⟨1, d.val, n, 0⟩) (hn : n = 0 ∨ n = 5) :
    s.unitStat w = (s.cdies[d]).loomEng.code := by
  obtain rfl | rfl := hn
  · simp only [State.unitStat, h, cdieOf, Fin.ofNat_val_eq_self]
  · simp only [State.unitStat, h, cdieOf, Fin.ofNat_val_eq_self]

theorem State.unitStat_pseudoChannel {i : Fin 64} (h : unitName w = ⟨2, st.val, 0x10, i.val⟩) :
    s.unitStat w = if i.val ∈ (s.sdies[st]).pcFenced then 3 else 0 := by
  simp only [State.unitStat, h, sdieOf, Fin.ofNat_val_eq_self, List.contains_iff_mem]

theorem State.unitStat_cooper (h : unitName w = ⟨2, st.val, 0x13, 0⟩) : s.unitStat w = (s.sdies[st]).cprEng.code := by
  simp only [State.unitStat, h, sdieOf, Fin.ofNat_val_eq_self]

theorem State.unitStat_stack (h : unitName w = ⟨2, st.val, 0x15, 0⟩) :
    s.unitStat w = if (s.sdies[st]).state = .offline then 3 else 0 := by
  simp only [State.unitStat, h, sdieOf, Fin.ofNat_val_eq_self, beq_iff_eq]

/-- A unit is one of those that its die has (Table 1-5). -/
theorem unitExists_of_name {u : UnitName} (h : unitName w = u) (hdie : u.die < dieCount u.dieType)
    (hix : u.ix < classSize u.dieType u.die u.cls) : unitExists w = true := by
  subst h
  simp only [unitExists, hdie, hix, decide_true, Bool.and_self]

/-! ### A fence (R431 to R433) -/

/-- A unit that a fence takes out of service at once: there, not FENCED, and no migrating tile. -/
structure State.Fenceable (s : State) (w : Word) : Prop where
  there : unitExists w = true
  serving : s.unitStat w ≠ 3
  settled : ¬((unitName w).dieType = 1 ∧ (unitName w).cls = 1 ∧ s.unitStat w = 1)

theorem State.fenceUnit_stays (source : Nat) (h : unitExists w = false ∨ s.unitStat w = 3) : s.fenceUnit w source = s := by
  unfold State.fenceUnit
  dsimp only
  rw [if_pos]
  obtain h | h := h
  · simp [h]
  · simp [h]

theorem State.fenceUnit_of_fenceable (source : Nat) (h : s.Fenceable w) :
    s.fenceUnit w source = (s.fenceEffect w).fenceRec w source (s.unitStat w) (s.heirOf w) := by
  unfold State.fenceUnit
  dsimp only
  rw [if_neg (by simp [h.there, h.serving]), if_neg (by simpa [and_assoc] using h.settled)]

/-- A fence that meets a migration waits for it. -/
theorem State.fenceUnit_migrating {i : TileIx} (source : Nat) (h : unitName w = ⟨1, d.val, 1, i.val⟩)
    (hstate : (s.cdies[d]).tiles[i].state = .migrating) :
    s.fenceUnit w source = s.modTile d i (fun x => { x with fencePend := some source }) := by
  have hstat : s.unitStat w = 1 := (State.unitStat_tile h).trans ((Tile.code_eq_one _).2 hstate)
  have hthere : unitExists w = true := unitExists_of_name h d.isLt i.isLt
  unfold State.fenceUnit
  simp [hstat, hthere, h, cdieOf]

theorem State.fenceRec_reports (source before : Nat) (aux : Word) : s.Reports (s.fenceRec w source before aux) :=
  (State.record_reports _ _).trans (State.raise_reports _ _)

theorem State.fenceRec_pend (source before : Nat) (aux : Word) : 322 ∈ (s.fenceRec w source before aux).evc.pend :=
  State.raise_pend _ 322 (by decide) (by decide)

theorem exec_unitWatchdog : exec (.unitWatchdog w) s = .next (s.fenceUnit w 3) := rfl

/-- A fence is what it does to its unit, with its record and event 322. -/
theorem State.fenceUnit_reports (source : Nat) (h : s.Fenceable w) :
    322 ∈ (s.fenceUnit w source).evc.pend ∧ (s.fenceEffect w).Reports (s.fenceUnit w source) := by
  rw [State.fenceUnit_of_fenceable source h]
  exact ⟨State.fenceRec_pend _ _ _, State.fenceRec_reports _ _ _⟩

/-- The watchdog fences a unit. -/
theorem exec_unitWatchdog_fences (h : s.Fenceable w) :
    ∃ t, exec (.unitWatchdog w) s = .next t ∧ 322 ∈ t.evc.pend ∧ (s.fenceEffect w).Reports t :=
  ⟨_, exec_unitWatchdog, State.fenceUnit_reports 3 h⟩

/-! ### Which units are fenceable -/

theorem State.fenceable_tile {i : TileIx} (h : unitName w = ⟨1, d.val, 1, i.val⟩)
    (hfenced : (s.cdies[d]).tiles[i].state ≠ .fenced) (hmig : (s.cdies[d]).tiles[i].state ≠ .migrating) :
    s.Fenceable w where
  there := unitExists_of_name h d.isLt i.isLt
  serving := by rwa [State.unitStat_tile h, Ne, Tile.code_eq_three]
  settled := by
    rw [State.unitStat_tile h, Tile.code_eq_one]
    exact fun hsettled => hmig hsettled.2.2

theorem State.fenceable_bank {b : Fin 51} (h : unitName w = ⟨1, d.val, 2, b.val⟩)
    (hfenced : (s.cdies[d]).banks[b].state ≠ .fenced) : s.Fenceable w where
  there := unitExists_of_name h d.isLt b.isLt
  serving := by rwa [State.unitStat_bank h, Ne, UnitState.code_eq_three]
  settled := by simp [h]

theorem State.fenceable_vector {i : Fin 16} (h : unitName w = ⟨1, d.val, 3, i.val⟩)
    (hfenced : (s.cdies[d]).vus[i].state ≠ .fenced) : s.Fenceable w where
  there := unitExists_of_name h d.isLt i.isLt
  serving := by rwa [State.unitStat_vector h, Ne, UnitState.code_eq_three]
  settled := by simp [h]

theorem State.fenceable_copy {i : Fin 16} (h : unitName w = ⟨1, d.val, 4, i.val⟩)
    (hfenced : (s.cdies[d]).cps[i].state ≠ .fenced) : s.Fenceable w where
  there := unitExists_of_name h d.isLt i.isLt
  serving := by rwa [State.unitStat_copy h, Ne, UnitState.code_eq_three]
  settled := by simp [h]

theorem State.fenceable_engines {n : Nat} (h : unitName w = ⟨1, d.val, n, 0⟩) (hn : n = 0 ∨ n = 5)
    (hthere : unitExists w = true) (hfenced : (s.cdies[d]).loomEng ≠ .fenced) : s.Fenceable w where
  there := hthere
  serving := by rwa [State.unitStat_engines h hn, Ne, EngOverride.code_eq_three]
  settled := by
    rw [h]
    dsimp only
    omega

theorem State.fenceable_pseudoChannel {i : Fin 64} (h : unitName w = ⟨2, st.val, 0x10, i.val⟩)
    (hfenced : i.val ∉ (s.sdies[st]).pcFenced) : s.Fenceable w where
  there := unitExists_of_name h st.isLt i.isLt
  serving := by
    rw [State.unitStat_pseudoChannel h, if_neg hfenced]
    decide
  settled := by simp [h]

theorem State.fenceable_cooper (h : unitName w = ⟨2, st.val, 0x13, 0⟩) (hfenced : (s.sdies[st]).cprEng ≠ .fenced) :
    s.Fenceable w where
  there := unitExists_of_name h st.isLt Nat.zero_lt_one
  serving := by rwa [State.unitStat_cooper h, Ne, EngOverride.code_eq_three]
  settled := by simp [h]

theorem State.fenceable_stack (h : unitName w = ⟨2, st.val, 0x15, 0⟩) (hoffline : (s.sdies[st]).state ≠ .offline) :
    s.Fenceable w where
  there := unitExists_of_name h st.isLt Nat.zero_lt_one
  serving := by
    rw [State.unitStat_stack h, if_neg hoffline]
    decide
  settled := by simp [h]

/-! ### Units that stop or drain at once (Table 14-1) -/

theorem State.fenceEffect_vector {i : Fin 16} (h : unitName w = ⟨1, d.val, 3, i.val⟩) :
    s.fenceEffect w = s.modCDie d (fun c => { c with vus := upd c.vus i SimpleUnit.fence }) := by
  simp only [State.fenceEffect, h, cdieOf, Fin.ofNat_val_eq_self]

theorem State.discardCopies_none (h : ∀ j, (s.queue j 2).inflight = []) : s.discardCopies d = s := by
  unfold State.discardCopies
  refine foldl_keeps (fun t => t = s) _ _ s rfl (fun t j ht => ?_)
  subst ht
  rw [h j]
  rfl

theorem State.fenceEffect_copy {i : Fin 16} (h : unitName w = ⟨1, d.val, 4, i.val⟩)
    (hnone : ∀ j, (s.queue j 2).inflight = []) :
    s.fenceEffect w = s.modCDie d (fun c => { c with cps := upd c.cps i SimpleUnit.fence }) := by
  simp only [State.fenceEffect, h, cdieOf, Fin.ofNat_val_eq_self, State.discardCopies_none hnone]

theorem State.fenceEffect_engines {n : Nat} (h : unitName w = ⟨1, d.val, n, 0⟩) (hn : n = 0 ∨ n = 5) :
    s.fenceEffect w = s.modCDie d (fun c => { c with
      loomEng := c.loomEng.drain, vecEng := c.vecEng.drain, cpyEng := c.cpyEng.drain }) := by
  obtain rfl | rfl := hn
  · simp only [State.fenceEffect, h, cdieOf, Fin.ofNat_val_eq_self]
  · simp only [State.fenceEffect, h, cdieOf, Fin.ofNat_val_eq_self]

theorem State.fenceEffect_pseudoChannel {i : Fin 64} (h : unitName w = ⟨2, st.val, 0x10, i.val⟩) :
    s.fenceEffect w = s.modSDie st (fun d => { d with pcFenced := insertNat i.val d.pcFenced }) := by
  simp only [State.fenceEffect, h, sdieOf, Fin.ofNat_val_eq_self]

theorem State.discardTile_none (h : s.cpr = none) : s.discardTile st = s := by
  unfold State.discardTile
  rw [h]

theorem State.fenceEffect_cooper (h : unitName w = ⟨2, st.val, 0x13, 0⟩) (hnone : s.cpr = none) :
    s.fenceEffect w = s.modSDie st (fun d => { d with cprEng := d.cprEng.drain }) := by
  simp only [State.fenceEffect, h, sdieOf, Fin.ofNat_val_eq_self, State.discardTile_none hnone]

/-! ### A stack (R324) -/

theorem State.drainWaiting_none (h : s.mem.waiting = []) : s.drainWaiting st = s := by
  have hs : { s with mem := { s.mem with waiting := [] } } = s := by rw [← h]
  unfold State.drainWaiting
  simp only [h, List.filter_nil, List.foldl_nil, hs]

theorem State.noteSlow_mem : s.noteSlow.mem = s.mem := by
  unfold State.noteSlow
  split <;> rfl

theorem State.noteSlow_drawn : s.drawn.noteSlow = s.noteSlow.drawn := by
  unfold State.noteSlow
  rw [apply_ite State.drawn]
  rfl

/-- A stack that goes OFFLINE with no access waiting. -/
theorem State.stackOffline_reports (b : Bool) (h : s.mem.waiting = []) :
    (s.noteSlow.modSDie st (fun d => { d with state := .offline, retained := d.retained && b })).Reports
      (s.stackOffline st b) := by
  unfold State.stackOffline
  dsimp only
  rw [State.drainWaiting_none (by rw [State.setCond_mem, State.modSDie_mem, State.noteSlow_mem, h])]
  exact State.setCond_reports _ _ _

/-- An update of an S-die keeps what a report has left. -/
theorem State.Reports.modSDie {t : State} (h : s.Reports t) (st : SIx) (f : SDie → SDie) :
    (s.modSDie st f).Reports (t.modSDie st f) :=
  { h with sdies := congrArg (fun v => upd v st f) h.sdies }

theorem State.fenceEffect_stack (h : unitName w = ⟨2, st.val, 0x15, 0⟩) (hnone : s.mem.waiting = []) :
    (s.noteSlow.modSDie st (fun d => { d with
      state := .offline, retained := d.retained && (s.free % 2 == 1) })).Reports (s.fenceEffect w) := by
  have heffect : s.fenceEffect w = s.drawn.stackOffline st (s.free % 2 == 1) := by
    simp only [State.fenceEffect, h, sdieOf, Fin.ofNat_val_eq_self]
  rw [heffect]
  refine State.Reports.trans ?_ (State.stackOffline_reports (s := s.drawn) _ hnone)
  rw [State.noteSlow_drawn]
  exact (State.drawn_reports s.noteSlow).modSDie st _

theorem State.Reports.cdie {t : State} (h : s.Reports t) (k : CIx) : t.cdies[k] = s.cdies[k] := by rw [h.cdies]

/-! ### A router (R407) -/

/-- A router of the die that drains since a tick. -/
def LDie.drainsSince (x : LDie) (n : Nat) : Prop := x.router = .draining ∧ x.drainStart = n

theorem State.Reports.drainsSince {t : State} {n : Nat} (h : s.Reports t) (hs : (s.ldies[l]).drainsSince n) :
    (t.ldies[l]).drainsSince n := by
  obtain ⟨hrouter, hstart⟩ := hs
  exact ⟨(congrArg LDie.router (h.ldies l)).trans hrouter, (congrArg LDie.drainStart (h.ldies l)).trans hstart⟩

theorem State.portTo_drainsSince {n : Nat} (p : PortIx) (x : PortState) (h : (s.ldies[l]).drainsSince n) :
    ((s.portTo l p x).ldies[l]).drainsSince n := by
  unfold State.portTo
  split
  · exact h
  · refine (State.raise_reports _ _).drainsSince ?_
    rw [State.modPort, State.ldie_modLDie]
    exact h

theorem State.routerDrain_drainsSince (hfwd : (s.ldies[l]).router = .forwarding) (hheld : (s.ldies[l]).held = false) :
    ((s.routerDrain l).ldies[l]).drainsSince s.tick := by
  unfold State.routerDrain
  dsimp only
  rw [hfwd, hheld, if_neg (by decide)]
  refine (State.raise_reports _ _).drainsSince ?_
  refine foldl_keeps (fun (t : State) => (t.ldies[l]).drainsSince s.tick) _ _ _ ?_ (fun t p ht => ?_)
  · rw [State.ldie_modLDie]
    exact ⟨rfl, rfl⟩
  · split
    · exact State.portTo_drainsSince p _ ht
    · exact ht

theorem State.fenceEffect_router (h : unitName w = ⟨3, l.val, 0x22, 0⟩) : s.fenceEffect w = s.routerDrain l := by
  simp only [State.fenceEffect, h, ldieOf, Fin.ofNat_val_eq_self]

end Sys2Proof.Machine
end

section
/-! The fences of a tile and of a bank (R31, R113, R432), with the role that moves to a spare. -/

namespace Sys2Proof.Machine

variable {w : Word} {s : State} {d : CIx}

/-! ### One tile or one bank replaced -/

theorem upd_congr {α : Type} {n : Nat} {v : Vector α n} {i : Fin n} {f g : α → α} (h : f v[i] = g v[i]) :
    upd v i f = upd v i g := congrArg (v.set i) h

theorem State.modCDie_congr {f g : CDie → CDie} (h : f s.cdies[d] = g s.cdies[d]) : s.modCDie d f = s.modCDie d g :=
  congrArg (fun v => { s with cdies := v }) (upd_congr h)

theorem State.modTile_congr {i : TileIx} {f g : Tile → Tile} (h : f (s.cdies[d]).tiles[i] = g (s.cdies[d]).tiles[i]) :
    s.modTile d i f = s.modTile d i g :=
  State.modCDie_congr (congrArg (fun v => { s.cdies[d] with tiles := v }) (upd_congr h))

theorem State.tile_modTile (s : State) (d : CIx) (i : TileIx) (f : Tile → Tile) :
    ((s.modTile d i f).cdies[d]).tiles[i] = f (s.cdies[d]).tiles[i] := by
  rw [State.cdie_modTile]
  exact upd_self _ _ _

theorem State.tile_modTile_other (s : State) (d : CIx) {i k : TileIx} (f : Tile → Tile) (h : k ≠ i) :
    ((s.modTile d i f).cdies[d]).tiles[k] = (s.cdies[d]).tiles[k] := by
  rw [State.cdie_modTile]
  exact upd_other _ _ _ _ (Ne.symm h)

/-- A bank of a C-die replaced. -/
abbrev State.modBank (s : State) (d : CIx) (b : Fin 51) (f : Bank → Bank) : State := s.modCDie d (fun c => c.modBank b f)

theorem State.modBank_congr {b : Fin 51} {f g : Bank → Bank} (h : f (s.cdies[d]).banks[b] = g (s.cdies[d]).banks[b]) :
    s.modBank d b f = s.modBank d b g :=
  State.modCDie_congr (congrArg (fun v => { s.cdies[d] with banks := v }) (upd_congr h))

theorem State.bank_modBank (s : State) (d : CIx) (b : Fin 51) (f : Bank → Bank) :
    ((s.modBank d b f).cdies[d]).banks[b] = f (s.cdies[d]).banks[b] := by
  rw [State.cdie_modCDie]
  exact upd_self _ _ _

theorem State.bank_modBank_other (s : State) (d : CIx) {b k : Fin 51} (f : Bank → Bank) (h : k ≠ b) :
    ((s.modBank d b f).cdies[d]).banks[k] = (s.cdies[d]).banks[k] := by
  rw [State.cdie_modCDie]
  exact upd_other _ _ _ _ (Ne.symm h)

/-! ### The passes of a tile unbound (R113) -/

/-- A pass is off the tile it was bound to. -/
def PassWork.leave (p : PassWork) (d t : Nat) : PassWork :=
  if p.die == d && p.tile == some t then { p with tile := none, next := false } else p

theorem PassWork.leave_unbound (p : PassWork) (d t : Nat) (h : (p.leave d t).die = d) : (p.leave d t).tile ≠ some t := by
  unfold PassWork.leave at h ⊢
  split
  · exact nofun
  · rename_i hother
    rw [if_neg hother] at h
    simpa [h] using hother

/-- Accounts that are charged leave the dies and the passes. -/
theorem State.foldl_accrueFree_frame (l : List (Nat × Nat)) :
    let u := l.foldl (fun s p => s.accrueFree (Fin.ofNat 64 p.1) p.2 3) s
    u.cdies = s.cdies ∧ u.sdies = s.sdies ∧ u.passes = s.passes :=
  foldl_keeps (fun (u : State) => u.cdies = s.cdies ∧ u.sdies = s.sdies ∧ u.passes = s.passes) _ l s ⟨rfl, rfl, rfl⟩
    (fun _ _ hu => hu)

theorem State.unbind_frame (d t : Nat) : (s.unbind d t).cdies = s.cdies ∧ (s.unbind d t).sdies = s.sdies ∧
    (s.unbind d t).passes = s.passes.map (fun p => p.leave d t) := by
  obtain ⟨hcdies, hsdies, hpasses⟩ := State.foldl_accrueFree_frame (s := s) _
  exact ⟨hcdies, hsdies, congrArg (List.map fun p => PassWork.leave p d t) hpasses⟩

theorem State.unbind_unbound (d t : Nat) : ∀ q ∈ (s.unbind d t).passes, q.die = d → q.tile ≠ some t := by
  rw [(State.unbind_frame d t).2.2]
  intro q hq
  obtain ⟨p, -, rfl⟩ := List.mem_map.1 hq
  exact PassWork.leave_unbound p d t

/-! ### The fence of a tile -/

/-- A tile out of service, without a role and without work. -/
def Tile.fence (x : Tile) : Tile := { x with
  state := .fenced
  role := .none
  job := none
  migrated := []
  fencePend := none
  test := noTest x.test }

/-- The spare that takes the role of a tile of a C-die. -/
def CDie.tileHeir (c : CDie) (i : TileIx) : Option TileIx := if c.tiles[i].role == .service then c.spareTile else none

theorem CDie.tileHeir_spare {c : CDie} {i : TileIx} (h : c.tiles[i].role = .service) : c.tileHeir i = c.spareTile := by
  rw [CDie.tileHeir, h]
  rfl

theorem CDie.tileHeir_none {c : CDie} {i : TileIx} (h : c.tiles[i].role ≠ .service ∨ c.spareTile = none) :
    c.tileHeir i = none := by
  unfold CDie.tileHeir
  split
  case isTrue hrole => exact h.resolve_left (not_not_intro (beq_iff_eq.1 hrole))
  case isFalse => rfl

theorem State.fenceTile_eq (i : TileIx) : s.fenceTile d i =
    match (s.cdies[d]).tileHeir i with
    | some h => ((s.unbind d.val i.val).modTile d i Tile.fence).modTile d h (fun x => { x with role := .service })
    | none => (s.unbind d.val i.val).modTile d i Tile.fence := rfl

/-- A tile that is fenced holds no pass, and no other die changes. -/
theorem State.fenceTile_frame (i : TileIx) : (∀ q ∈ (s.fenceTile d i).passes, q.die = d.val → q.tile ≠ some i.val) ∧
    (∀ k : CIx, k ≠ d → (s.fenceTile d i).cdies[k] = s.cdies[k]) ∧ (s.fenceTile d i).sdies = s.sdies := by
  obtain ⟨hcdies, hsdies, -⟩ := s.unbind_frame d.val i.val
  have hdie : ∀ k : CIx, (s.unbind d.val i.val).cdies[k] = s.cdies[k] := fun k => by rw [hcdies]
  rw [State.fenceTile_eq]
  split
  · refine ⟨State.unbind_unbound _ _, fun k hk => ?_, hsdies⟩
    rw [State.cdie_modTile_other _ _ _ _ _ hk, State.cdie_modTile_other _ _ _ _ _ hk, hdie]
  · refine ⟨State.unbind_unbound _ _, fun k hk => ?_, hsdies⟩
    rw [State.cdie_modTile_other _ _ _ _ _ hk, hdie]

/-- The tiles of a die as an unbinding leaves them. -/
theorem State.unbind_tile (d : CIx) (t : Nat) (k : TileIx) :
    ((s.unbind d.val t).cdies[d]).tiles[k] = (s.cdies[d]).tiles[k] := by
  rw [(State.unbind_frame d.val t).1]

/-- The role of a fenced tile moves to its heir. -/
theorem State.fenceTile_heir {i h : TileIx} (hheir : (s.cdies[d]).tileHeir i = some h) (hne : h ≠ i) :
    ((s.fenceTile d i).cdies[d]).tiles[i] = (s.cdies[d]).tiles[i].fence ∧
    ((s.fenceTile d i).cdies[d]).tiles[h] = { (s.cdies[d]).tiles[h] with role := .service } ∧
    ∀ k : TileIx, k ≠ i → k ≠ h → ((s.fenceTile d i).cdies[d]).tiles[k] = (s.cdies[d]).tiles[k] := by
  rw [State.fenceTile_eq, hheir]
  dsimp only
  refine ⟨?_, ?_, fun k hi hh => ?_⟩
  · rw [State.tile_modTile_other _ _ _ (Ne.symm hne), State.tile_modTile, State.unbind_tile]
  · rw [State.tile_modTile, State.tile_modTile_other _ _ _ hne, State.unbind_tile]
  · rw [State.tile_modTile_other _ _ _ hh, State.tile_modTile_other _ _ _ hi, State.unbind_tile]

theorem State.fenceTile_alone {i : TileIx} (hheir : (s.cdies[d]).tileHeir i = none) :
    ((s.fenceTile d i).cdies[d]).tiles[i] = (s.cdies[d]).tiles[i].fence ∧
    ∀ k : TileIx, k ≠ i → ((s.fenceTile d i).cdies[d]).tiles[k] = (s.cdies[d]).tiles[k] := by
  rw [State.fenceTile_eq, hheir]
  dsimp only
  refine ⟨?_, fun k hi => ?_⟩
  · rw [State.tile_modTile, State.unbind_tile]
  · rw [State.tile_modTile_other _ _ _ hi, State.unbind_tile]

theorem State.fenceEffect_tile {i : TileIx} (h : unitName w = ⟨1, d.val, 1, i.val⟩) : s.fenceEffect w = s.fenceTile d i := by
  simp only [State.fenceEffect, h, cdieOf, Fin.ofNat_val_eq_self]

/-! ### Poison and leases leave the Loom -/

/-- The C-dies and the passes stand as they were. -/
def State.LoomStands (s t : State) : Prop := t.cdies = s.cdies ∧ t.passes = s.passes

theorem State.LoomStands.trans {t u : State} (h : s.LoomStands t) (k : t.LoomStands u) : s.LoomStands u :=
  ⟨k.1.trans h.1, k.2.trans h.2⟩

theorem State.losePosition_loomStands (die p : Nat) : s.LoomStands (s.losePosition die p) := by
  have hmem : ∃ m, s.losePosition die p = { s with mem := m } := ⟨_, rfl⟩
  obtain ⟨m, hm⟩ := hmem
  rw [hm]
  exact ⟨rfl, rfl⟩

theorem State.poisonRange_loomStands (lo len : Nat) : s.LoomStands (s.poisonRange lo len) := by
  unfold State.poisonRange
  split
  · exact foldl_keeps (State.LoomStands s) _ _ s ⟨rfl, rfl⟩ (fun t p ht => ht)
  · exact ⟨rfl, rfl⟩
  · exact ⟨rfl, rfl⟩

theorem State.startPoison_loomStands (lo len : Nat) : s.LoomStands (s.startPoison lo len) := by
  unfold State.startPoison
  split
  · exact ⟨rfl, rfl⟩
  · exact State.poisonRange_loomStands lo len

/-- The revocation of a lease of a bank poisons what the lease covers (Table 14-3). -/
theorem State.revoke_loomStands (k cause : Nat) (h : ∀ l, s.flt.leases[k]? = some l → l.kind = 1) :
    s.LoomStands (s.revoke k cause) := by
  unfold State.revoke
  split
  · exact ⟨rfl, rfl⟩
  · rename_i l hl
    split
    · exact ⟨rfl, rfl⟩
    · dsimp only
      rw [h l hl]
      exact State.startPoison_loomStands l.base l.len

theorem State.recoverLeases_loomStands (sel : Lease → Bool) (h : ∀ l, sel l = true → l.kind = 1) :
    s.LoomStands (s.recoverLeases sel) := by
  unfold State.recoverLeases
  refine foldl_keeps (State.LoomStands s) _ _ s ⟨rfl, rfl⟩ (fun t k ht => ?_)
  split
  case isTrue hsel =>
    exact ht.trans (State.revoke_loomStands k 2 fun l hl => h l (by rwa [hl] at hsel))
  case isFalse => exact ht

theorem State.recoverLeases_none (sel : Lease → Bool) (h : s.flt.leases = []) : s.recoverLeases sel = s := by
  rw [State.recoverLeases, h]
  rfl

/-! ### The fence of a bank -/

/-- A bank out of service, without a position. -/
def Bank.fence (x : Bank) : Bank := { x with state := .fenced, pos := none, test := noTest x.test }

/-- A bank whose contents and position go to a spare. -/
def Bank.drain (x : Bank) : Bank := { x with state := .draining, pos := none, test := noTest x.test }

/-- Whether a lease is one of the scratchpad of a die. -/
def Lease.ofPad (d : CIx) (l : Lease) : Bool := l.kind == 1 && (unitName l.unit).die == d.val

theorem State.fenceBank_heir {b h : Fin 51} {p : Nat} (hpos : (s.cdies[d]).banks[b].pos = some p)
    (hspare : (s.cdies[d]).spareBank = some h) : s.fenceBank d b =
      (s.modBank d h (fun x => { x with state := .inService, pos := some p })).modBank d b Bank.drain := by
  unfold State.fenceBank
  dsimp only
  rw [hpos, hspare]
  rfl

theorem State.fenceBank_lost {b : Fin 51} {p : Nat} (hpos : (s.cdies[d]).banks[b].pos = some p)
    (hspare : (s.cdies[d]).spareBank = none) :
    s.fenceBank d b = ((s.modBank d b Bank.fence).losePosition d.val p).recoverLeases (Lease.ofPad d) := by
  unfold State.fenceBank
  dsimp only
  rw [hpos, hspare]
  rfl

theorem State.fenceBank_unplaced {b : Fin 51} (hpos : (s.cdies[d]).banks[b].pos = none) :
    s.fenceBank d b = s.modBank d b Bank.fence := by
  unfold State.fenceBank
  dsimp only
  rw [hpos]
  refine State.modBank_congr ?_
  rw [Bank.fence, ← hpos]

/-- A bank with no spare to serve in its place stops. -/
theorem State.fenceBank_stops {b : Fin 51} (h : (s.cdies[d]).banks[b].pos = none ∨ (s.cdies[d]).spareBank = none) :
    (s.modBank d b Bank.fence).LoomStands (s.fenceBank d b) := by
  cases hpos : (s.cdies[d]).banks[b].pos with
  | none =>
    rw [State.fenceBank_unplaced hpos]
    exact ⟨rfl, rfl⟩
  | some p =>
    rw [State.fenceBank_lost hpos (h.resolve_left (by rw [hpos]; exact nofun))]
    exact (State.losePosition_loomStands d.val p).trans (State.recoverLeases_loomStands _ fun l hl =>
      beq_iff_eq.1 (Bool.and_eq_true_iff.1 hl).1)

/-- A bank that is fenced changes no other die and no pass. -/
theorem State.fenceBank_frame (b : Fin 51) :
    (∀ k : CIx, k ≠ d → (s.fenceBank d b).cdies[k] = s.cdies[k]) ∧ (s.fenceBank d b).passes = s.passes := by
  by_cases h : (s.cdies[d]).banks[b].pos = none ∨ (s.cdies[d]).spareBank = none
  · obtain ⟨hcdies, hpasses⟩ := State.fenceBank_stops h
    refine ⟨fun k hk => ?_, hpasses⟩
    rw [hcdies, State.cdie_modCDie_other _ _ _ _ hk]
  · obtain ⟨hpos, hspare⟩ := not_or.1 h
    obtain ⟨p, hpos⟩ := Option.ne_none_iff_exists'.1 hpos
    obtain ⟨h, hspare⟩ := Option.ne_none_iff_exists'.1 hspare
    rw [State.fenceBank_heir hpos hspare]
    refine ⟨fun k hk => ?_, rfl⟩
    rw [State.cdie_modCDie_other _ _ _ _ hk, State.cdie_modCDie_other _ _ _ _ hk]

/-- The contents and the position of a fenced bank go to a spare. -/
theorem State.fenceBank_heir_banks {b h : Fin 51} {p : Nat} (hpos : (s.cdies[d]).banks[b].pos = some p)
    (hspare : (s.cdies[d]).spareBank = some h) (hne : h ≠ b) :
    ((s.fenceBank d b).cdies[d]).banks[b] = (s.cdies[d]).banks[b].drain ∧
    ((s.fenceBank d b).cdies[d]).banks[h] = { (s.cdies[d]).banks[h] with state := .inService, pos := some p } ∧
    ∀ k : Fin 51, k ≠ b → k ≠ h → ((s.fenceBank d b).cdies[d]).banks[k] = (s.cdies[d]).banks[k] := by
  rw [State.fenceBank_heir hpos hspare]
  refine ⟨?_, ?_, fun k hb hh => ?_⟩
  · rw [State.bank_modBank, State.bank_modBank_other _ _ _ (Ne.symm hne)]
  · rw [State.bank_modBank_other _ _ _ hne, State.bank_modBank]
  · rw [State.bank_modBank_other _ _ _ hb, State.bank_modBank_other _ _ _ hh]

theorem State.fenceBank_stopped_banks {b : Fin 51}
    (h : (s.cdies[d]).banks[b].pos = none ∨ (s.cdies[d]).spareBank = none) :
    ((s.fenceBank d b).cdies[d]).banks[b] = (s.cdies[d]).banks[b].fence ∧
    ∀ k : Fin 51, k ≠ b → ((s.fenceBank d b).cdies[d]).banks[k] = (s.cdies[d]).banks[k] := by
  rw [(State.fenceBank_stops h).1]
  exact ⟨State.bank_modBank s d b _, fun k hk => State.bank_modBank_other s d _ hk⟩

/-- Without leases, the memory of a bank without heir changes by the loss of its position alone. -/
theorem State.fenceBank_lost_unleased {b : Fin 51} {p : Nat} (hpos : (s.cdies[d]).banks[b].pos = some p)
    (hspare : (s.cdies[d]).spareBank = none) (hleases : s.flt.leases = []) :
    s.fenceBank d b = (s.modBank d b Bank.fence).losePosition d.val p := by
  rw [State.fenceBank_lost hpos hspare]
  exact State.recoverLeases_none _ hleases

theorem State.fenceEffect_bank {b : Fin 51} (h : unitName w = ⟨1, d.val, 2, b.val⟩) : s.fenceEffect w = s.fenceBank d b := by
  simp only [State.fenceEffect, h, cdieOf, Fin.ofNat_val_eq_self]

end Sys2Proof.Machine

namespace Sys2Proof.Proofs

open Sys2Proof.Machine

/-- Settles O47: a fence is what it does to its unit, of which event 322 and the record change nothing. -/
theorem fencesMoveRoles : Obligations.FencesMoveRoles := by
  intro w s
  refine ⟨fun h => congrArg Host.Outcome.next (State.fenceUnit_stays 3 h), fun hthere hserving hsettled => ?_,
    fun d i h hstate => ?_, fun d i h hstate hnone => ?_, fun d n h hn hthere hstate => ?_, fun st i h hin => ?_,
    fun st h hstate hnone => ?_, fun st h hstate hnone => ?_, fun l h hthere hserving hfwd hheld => ?_,
    fun d i h hstate => congrArg Host.Outcome.next (State.fenceUnit_migrating 3 h hstate),
    fun d i h hfenced hmig => ?_, fun d b h hstate => ?_⟩
  · obtain ⟨t, hexec, hevent, -⟩ := exec_unitWatchdog_fences ⟨hthere, hserving, hsettled⟩
    exact ⟨t, hexec, hevent⟩
  · rw [← State.fenceEffect_vector h]
    exact exec_unitWatchdog_fences (State.fenceable_vector h hstate)
  · rw [← State.fenceEffect_copy h hnone]
    exact exec_unitWatchdog_fences (State.fenceable_copy h hstate)
  · rw [← State.fenceEffect_engines h hn]
    exact exec_unitWatchdog_fences (State.fenceable_engines h hn hthere hstate)
  · rw [← State.fenceEffect_pseudoChannel h]
    exact exec_unitWatchdog_fences (State.fenceable_pseudoChannel h hin)
  · rw [← State.fenceEffect_cooper h hnone]
    exact exec_unitWatchdog_fences (State.fenceable_cooper h hstate)
  · obtain ⟨t, hexec, hevent, ht⟩ := exec_unitWatchdog_fences (State.fenceable_stack h hstate)
    exact ⟨s.free % 2 == 1, t, hexec, hevent, (State.fenceEffect_stack h hnone).trans ht⟩
  · obtain ⟨t, hexec, hevent, ht⟩ := exec_unitWatchdog_fences ⟨hthere, hserving, by simp [h]⟩
    rw [State.fenceEffect_router h] at ht
    exact ⟨t, hexec, hevent, ht.drainsSince (State.routerDrain_drainsSince hfwd hheld)⟩
  · obtain ⟨t, hexec, hevent, ht⟩ := exec_unitWatchdog_fences (State.fenceable_tile h hfenced hmig)
    rw [State.fenceEffect_tile h] at ht
    obtain ⟨hpasses, hdies, hsdies⟩ := s.fenceTile_frame (d := d) i
    refine ⟨t, hexec, hevent, by rwa [ht.passes], ⟨fun k hk => (ht.cdie k).trans (hdies k hk), ht.sdies.trans hsdies⟩,
      fun h hrole hspare hne => ?_, fun hnone => ?_⟩
    · obtain ⟨htile, hheir, hother⟩ := State.fenceTile_heir ((CDie.tileHeir_spare hrole).trans hspare) hne
      rw [ht.cdie, htile]
      exact ⟨rfl, rfl, hheir, hother⟩
    · obtain ⟨htile, hother⟩ := State.fenceTile_alone (CDie.tileHeir_none hnone)
      rw [ht.cdie, htile]
      exact ⟨rfl, rfl, hother⟩
  · obtain ⟨t, hexec, hevent, ht⟩ := exec_unitWatchdog_fences (State.fenceable_bank h hstate)
    rw [State.fenceEffect_bank h] at ht
    obtain ⟨hdies, hpasses⟩ := s.fenceBank_frame (d := d) b
    refine ⟨t, hexec, hevent, fun k hk => (ht.cdie k).trans (hdies k hk), ht.passes.trans hpasses,
      fun p h hpos hspare hne => ?_, fun p hpos hspare hleases hring => ?_, fun hnone => ?_⟩
    · obtain ⟨hbank, hheir, hother⟩ := State.fenceBank_heir_banks hpos hspare hne
      rw [ht.cdie, hbank, hheir]
      refine ⟨?_, rfl, rfl, rfl, rfl, hother⟩
      rw [ht.sdies, State.fenceBank_heir hpos hspare]
      rfl
    · rw [State.fenceBank_lost_unleased hpos hspare hleases] at ht
      exact ht.mem hring
    · obtain ⟨hbank, hother⟩ := State.fenceBank_stopped_banks hnone
      rw [ht.cdie, hbank]
      exact ⟨rfl, hother⟩

end Sys2Proof.Proofs
end

section
/-! The register of fences (R434, R435, R444, R452): FENCE and UNFENCE by their requester, and the end of a drain. -/

namespace Sys2Proof.Machine

variable {w : Word} {s : State} {rq : Requester} {d : CIx} {st : SIx}

/-! ### An action that is recorded whoever asks it (R531) -/

theorem State.recorded_acts {need : Right} {addr : Nat} {r : AuditRec} {a : PendingAct} {now : State → State}
    (haccess : s.access rq need ≠ .refused) (hfail : s.sec.auditFail = false) (hpending : s.sec.pending = [])
    (hflash : s.flashOk = true) : s.recorded rq need addr r a now = now { s with sec := s.sec.commit r } := by
  unfold State.recorded
  split
  · exact absurd ‹_› haccess
  · rw [hfail, hpending, hflash]
    rfl

/-! ### A write of FLT_FENCE_CTRL (R452) -/

/-- The record of a fence or an unfence of the unit that FLT_FENCE_UNIT names, committed. -/
def State.fenceLogged (s : State) (rq : Requester) (a : AuditAct) (new : Nat) : State :=
  { s with sec := s.sec.commit (s.auditRec rq a 0 s.flt.fenceUnit.toNat (s.unitStat s.flt.fenceUnit) new) }

theorem exec_fence (f u : Bool) : exec (.fence rq f u) s = .next (s.fenceCtrl rq f u) := rfl

theorem exec_unfence : exec (.unfence rq) s = .next (s.fenceCtrl rq false true) := rfl

theorem State.fenceCtrl_refused (f u : Bool) (h : s.access rq .installerOrCore = .refused) :
    s.Reports (s.fenceCtrl rq f u) := by
  unfold State.fenceCtrl
  rw [h]
  exact State.regAccess_reports _ _ _ _

section

variable (haccess : s.access rq .installerOrCore ≠ .refused)
include haccess

theorem State.fenceCtrl_none : s.fenceCtrl rq false false = s := by
  unfold State.fenceCtrl
  dsimp only
  rw [if_neg (mt beq_iff_eq.1 haccess)]
  rfl

/-- Both bits, or a bit for an absent unit, leave an error record. -/
theorem State.fenceCtrl_ignored {f u : Bool} (hset : (f || u) = true)
    (h : f && u = true ∨ unitExists s.flt.fenceUnit = false) : s.Reports (s.fenceCtrl rq f u) := by
  have hnone : (!f && !u) = false := by rw [← Bool.not_or, hset]; rfl
  unfold State.fenceCtrl
  dsimp only
  rw [if_neg (mt beq_iff_eq.1 haccess), hnone, if_neg Bool.false_ne_true, if_pos (by simpa using h)]
  exact State.regAccess_reports _ _ _ _

variable (hthere : unitExists s.flt.fenceUnit = true) (hfail : s.sec.auditFail = false) (hpending : s.sec.pending = [])
  (hflash : s.flashOk = true)
include hthere hfail hpending hflash

theorem exec_fence_acts :
    exec (.fence rq true false) s = .next ((s.fenceLogged rq .fence 1).fenceUnit s.flt.fenceUnit 4) := by
  rw [exec_fence]
  unfold State.fenceCtrl
  dsimp only
  rw [if_neg (mt beq_iff_eq.1 haccess), hthere, if_neg (by decide), if_neg (by decide), if_pos rfl,
    State.recorded_acts haccess hfail hpending hflash]
  rfl

theorem exec_unfence_acts :
    exec (.unfence rq) s = .next ((s.fenceLogged rq .unfence 2).unfenceUnit s.flt.fenceUnit) := by
  rw [exec_unfence]
  unfold State.fenceCtrl
  dsimp only
  rw [if_neg (mt beq_iff_eq.1 haccess), hthere, if_neg (by decide), if_neg (by decide), if_neg Bool.false_ne_true,
    State.recorded_acts haccess hfail hpending hflash]
  rfl

end

/-! ### A unit enabled again (R434, R435) -/

theorem State.unfenceUnit_serving (hfenced : s.unitStat w ≠ 3) (hdraining : s.unitStat w ≠ 1) : s.unfenceUnit w = s := by
  unfold State.unfenceUnit
  repeat' split
  · rfl
  · exact absurd ‹_› hfenced
  · exact absurd ‹_› hdraining
  · rfl

theorem State.unfenceUnit_fenced (hthere : unitExists w = true) (hfenced : s.unitStat w = 3) :
    s.unfenceUnit w = s.unfenceFenced w := by
  unfold State.unfenceUnit
  rw [hthere, hfenced]
  rfl

theorem State.unfenceRec_reports (tested : Bool) : s.Reports (s.unfenceRec w tested) := State.record_reports _ _

theorem State.unfenceUnit_vector {i : Fin 16} (h : unitName w = ⟨1, d.val, 3, i.val⟩)
    (hfenced : (s.cdies[d]).vus[i].state = .fenced) :
    s.unfenceUnit w = s.modCDie d (fun c => { c with vus := upd c.vus i (fun x => x.unfence s.tick) }) := by
  rw [State.unfenceUnit_fenced (unitExists_of_name h d.isLt i.isLt)
    ((State.unitStat_vector h).trans ((UnitState.code_eq_three _).2 hfenced))]
  simp only [State.unfenceFenced, h, cdieOf, Fin.ofNat_val_eq_self]

theorem State.unfenceUnit_copy {i : Fin 16} (h : unitName w = ⟨1, d.val, 4, i.val⟩)
    (hfenced : (s.cdies[d]).cps[i].state = .fenced) :
    s.unfenceUnit w = s.modCDie d (fun c => { c with cps := upd c.cps i (fun x => x.unfence s.tick) }) := by
  rw [State.unfenceUnit_fenced (unitExists_of_name h d.isLt i.isLt)
    ((State.unitStat_copy h).trans ((UnitState.code_eq_three _).2 hfenced))]
  simp only [State.unfenceFenced, h, cdieOf, Fin.ofNat_val_eq_self]

theorem State.unfenceUnit_tile {i : TileIx} (h : unitName w = ⟨1, d.val, 1, i.val⟩)
    (hfenced : (s.cdies[d]).tiles[i].state = .fenced) :
    s.unfenceUnit w = if (s.cdies[d]).tiles[i].holding.isSome then s
      else s.modTile d i (fun x => { x with state := .underTest, test := x.test.unfence s.tick }) := by
  rw [State.unfenceUnit_fenced (unitExists_of_name h d.isLt i.isLt)
    ((State.unitStat_tile h).trans ((Tile.code_eq_three _).2 hfenced))]
  simp only [State.unfenceFenced, h, cdieOf, Fin.ofNat_val_eq_self]

theorem State.unfenceUnit_pseudoChannel {i : Fin 64} (h : unitName w = ⟨2, st.val, 0x10, i.val⟩)
    (hfenced : i.val ∈ (s.sdies[st]).pcFenced) :
    s.unfenceUnit w = (s.modSDie st (fun d => { d with pcFenced := eraseNat i.val d.pcFenced })).unfenceRec w false := by
  rw [State.unfenceUnit_fenced (unitExists_of_name h st.isLt i.isLt)
    ((State.unitStat_pseudoChannel h).trans (if_pos hfenced))]
  simp only [State.unfenceFenced, h, sdieOf, Fin.ofNat_val_eq_self]

theorem State.unfenceUnit_engines (h : unitName w = ⟨1, d.val, 5, 0⟩) (hfenced : (s.cdies[d]).loomEng = .fenced) :
    s.unfenceUnit w =
      (s.modCDie d (fun c => { c with loomEng := .none, vecEng := .none, cpyEng := .none })).unfenceRec w false := by
  rw [State.unfenceUnit_fenced (unitExists_of_name h d.isLt Nat.zero_lt_one)
    ((State.unitStat_engines h (.inr rfl)).trans ((EngOverride.code_eq_three _).2 hfenced))]
  simp only [State.unfenceFenced, h, cdieOf, Fin.ofNat_val_eq_self]

theorem State.unfenceUnit_cooper (h : unitName w = ⟨2, st.val, 0x13, 0⟩) (hfenced : (s.sdies[st]).cprEng = .fenced) :
    s.unfenceUnit w = (s.modSDie st (fun d => { d with cprEng := .none })).unfenceRec w false := by
  rw [State.unfenceUnit_fenced (unitExists_of_name h st.isLt Nat.zero_lt_one)
    ((State.unitStat_cooper h).trans ((EngOverride.code_eq_three _).2 hfenced))]
  simp only [State.unfenceFenced, h, sdieOf, Fin.ofNat_val_eq_self]

/-! ### The end of a drain (R434, R444) -/

theorem exec_unitDrainDone : exec (.unitDrainDone w) s = .next (s.drainDone w) := rfl

/-- A bank at the end of its drain. -/
def Bank.drained (x : Bank) (now : Nat) : Bank :=
  match x.state with
  | .draining => { x with state := .fenced }
  | .armed => { x with state := .underTest, test := x.test.unfence now }
  | _ => x

theorem State.drainDone_bank {b : Fin 51} (h : unitName w = ⟨1, d.val, 2, b.val⟩) :
    s.drainDone w = s.modBank d b (fun x => x.drained s.tick) := by
  simp only [State.drainDone, h, cdieOf, Fin.ofNat_val_eq_self]
  rfl

theorem State.drainDone_engines (h : unitName w = ⟨1, d.val, 5, 0⟩) : s.drainDone w = if s.engIdle d then
    s.modCDie d (fun c => { c with
      loomEng := c.loomEng.drained, vecEng := c.vecEng.drained, cpyEng := c.cpyEng.drained }) else s := by
  simp only [State.drainDone, h, cdieOf, Fin.ofNat_val_eq_self]

theorem State.drainDone_cooper (h : unitName w = ⟨2, st.val, 0x13, 0⟩) : s.drainDone w =
    if s.cpr.any (fun r => r.left.all (fun x => x.1 != st.val)) then s
    else s.modSDie st (fun d => { d with cprEng := d.cprEng.drained }) := by
  simp only [State.drainDone, h, sdieOf, Fin.ofNat_val_eq_self]

section

variable {i : TileIx} (h : unitName w = ⟨1, d.val, 1, i.val⟩)
include h

/-- A tile whose migration is over goes to its test, or to the fence that waits for it. -/
theorem State.drainDone_tile : s.drainDone w =
    if (s.cdies[d]).tiles[i].state != .migrating then s
    else
      let t := s.modTile d i (fun y => { y with
        state := .underTest
        fencePend := none
        test := { y.test with testStart := s.tick, due := false, deferredSince := none } })
      (s.cdies[d]).tiles[i].fencePend.elim t (t.fenceUnit w) := by
  simp only [State.drainDone, h, cdieOf, Fin.ofNat_val_eq_self]
  cases (s.cdies[d]).tiles[i].fencePend <;> rfl

theorem State.drainDone_tile_stays (hstate : (s.cdies[d]).tiles[i].state ≠ .migrating) : s.drainDone w = s := by
  rw [State.drainDone_tile h, if_pos (bne_iff_ne.2 hstate)]

theorem State.drainDone_tile_tested (hstate : (s.cdies[d]).tiles[i].state = .migrating)
    (hpend : (s.cdies[d]).tiles[i].fencePend = none) : s.drainDone w = s.modTile d i (fun x => { x with
      state := .underTest
      test := { x.test with testStart := s.tick, due := false, deferredSince := none } }) := by
  rw [State.drainDone_tile h, hstate, hpend, if_neg (by decide)]
  refine State.modTile_congr ?_
  rw [← hpend]

theorem State.drainDone_tile_fenced {src : Nat} (hstate : (s.cdies[d]).tiles[i].state = .migrating)
    (hpend : (s.cdies[d]).tiles[i].fencePend = some src) : s.drainDone w = (s.modTile d i (fun x => { x with
      state := .underTest
      fencePend := none
      test := { x.test with testStart := s.tick, due := false, deferredSince := none } })).fenceUnit w src := by
  rw [State.drainDone_tile h, hstate, hpend, if_neg (by decide)]
  rfl

end

end Sys2Proof.Machine

namespace Sys2Proof.Proofs

open Sys2Proof.Machine

/-- Settles O48: a write of FLT_FENCE_CTRL by its requester and its bits, the end of a drain by its unit. -/
theorem fenceRegisterActs : Obligations.FenceRegisterActs := by
  rintro rq s w rfl
  refine ⟨fun hrefused c hc => ?_, fun haccess => ⟨congrArg Host.Outcome.next (State.fenceCtrl_none haccess), ?_,
    fun hthere c hc => ?_, rfl, fun hthere hfail hpending hflash => ?_⟩, fun u d b h => ?_, fun u d h => ?_,
    fun u d i h => ⟨fun hstate => ?_, fun hstate hpend => ?_, fun src hstate hpend => ?_⟩, fun u st h => ?_⟩
  · simp only [List.mem_cons, List.not_mem_nil, or_false] at hc
    obtain rfl | rfl | rfl | rfl | rfl := hc
    all_goals exact ⟨_, rfl, State.fenceCtrl_refused _ _ hrefused⟩
  · exact ⟨_, rfl, State.fenceCtrl_ignored haccess rfl (.inl rfl)⟩
  · simp only [List.mem_cons, List.not_mem_nil, or_false] at hc
    obtain rfl | rfl | rfl := hc
    all_goals exact ⟨_, rfl, State.fenceCtrl_ignored haccess rfl (.inr hthere)⟩
  · have hfence := exec_fence_acts haccess hthere hfail hpending hflash
    have hunfence := exec_unfence_acts haccess hthere hfail hpending hflash
    refine ⟨hfence, hunfence, fun hfenced hdraining => ?_, fun d i h => ⟨fun hstate => ?_, fun hstate => ?_⟩,
      fun d i h hstate => ?_, fun d i h hstate => ?_, fun st i h hin => ?_, fun d h hstate => ?_, fun st h hstate => ?_⟩
    · exact hunfence.trans (congrArg _ (State.unfenceUnit_serving hfenced hdraining))
    · obtain ⟨hevent, ht⟩ := State.fenceUnit_reports (s := s.fenceLogged rq .fence 1) 4 (State.fenceable_vector h hstate)
      rw [State.fenceEffect_vector h] at ht
      exact ⟨_, hfence, hevent, ht⟩
    · exact hunfence.trans (congrArg _ (State.unfenceUnit_vector h hstate))
    · exact hunfence.trans (congrArg _ (State.unfenceUnit_copy h hstate))
    · exact hunfence.trans (congrArg _ (State.unfenceUnit_tile h hstate))
    · exact ⟨_, hunfence.trans (congrArg _ (State.unfenceUnit_pseudoChannel h hin)), State.unfenceRec_reports _⟩
    · exact ⟨_, hunfence.trans (congrArg _ (State.unfenceUnit_engines h hstate)), State.unfenceRec_reports _⟩
    · exact ⟨_, hunfence.trans (congrArg _ (State.unfenceUnit_cooper h hstate)), State.unfenceRec_reports _⟩
  · rw [exec_unitDrainDone, State.drainDone_bank h]
    rfl
  · rw [exec_unitDrainDone, State.drainDone_engines h]
  · rw [exec_unitDrainDone, State.drainDone_tile_stays h hstate]
  · rw [exec_unitDrainDone, State.drainDone_tile_tested h hstate hpend]
  · rw [exec_unitDrainDone, State.drainDone_tile_fenced h hstate hpend]
  · rw [exec_unitDrainDone, State.drainDone_cooper h]

end Sys2Proof.Proofs
end

section
/-! Privileged actions that take effect in their own command (R519, R531), and what a change of the event controller reports
(R456, R460). -/

namespace Sys2Proof.Machine

variable {s : State} {rq : Requester}

/-! ### Rights -/

section

variable {need : Right} {addr : Nat} {r : AuditRec} {a : PendingAct} {now : State → State}

theorem State.privileged_granted (h : s.Grants rq need) :
    s.privileged rq need addr r a now = now { s with sec := s.sec.commit r } := by
  obtain ⟨haccess, hfail, hpending, hflash⟩ := h
  unfold State.privileged
  rw [haccess, hfail, hpending, hflash]
  rfl

theorem State.privileged_atOnce (h : s.access rq need = .atOnce) : s.privileged rq need addr r a now = now s := by
  unfold State.privileged
  rw [h]

theorem State.privileged_refused (h : s.access rq need = .refused) :
    s.privileged rq need addr r a now = s.regAccess rq addr 3 := by
  unfold State.privileged
  rw [h]

theorem State.privileged_acts {u : State} (h : s.Acts rq need r u) : s.privileged rq need addr r a now = now u := by
  obtain ⟨haccess, rfl⟩ | ⟨hgrants, rfl⟩ := h
  · exact State.privileged_atOnce haccess
  · exact State.privileged_granted hgrants

end

/-! ### The event controller changed -/

theorem State.sendMsix_flt (c : Nat) : (s.sendMsix c).flt = s.flt := by
  unfold State.sendMsix
  split
  · rfl
  · unfold State.msixOn
    dsimp only
    split <;> rfl

theorem State.evUpdate_flt (f : Evc → Evc) : (s.evUpdate f).flt = s.flt := by
  unfold State.evUpdate
  dsimp only
  split <;> split <;> simp only [State.sendMsix_flt]

/-- A change of the event controller is the change itself and what it reports to the host. -/
theorem State.evUpdate_put_reports (f : Evc → Evc) : State.Reports { s with evc := f s.evc } (s.evUpdate f) := by
  have hsent (b : Bool) (t : State) (c : Nat) : t.Reports (if b then t.sendMsix c else t) := by
    cases b with
    | false => exact .refl t
    | true => exact State.sendMsix_reports t c
  unfold State.evUpdate
  exact (hsent _ _ 0).trans (hsent _ _ 1)

theorem State.raise_edge {e : Nat} (hpends : neverPends e = false) (hedge : levelEvent e = false) :
    s.raise e = s.evUpdate (fun v => { v with pend := insertNat e v.pend }) := by
  unfold State.raise
  rw [hpends, hedge]
  rfl

theorem State.raise_never {e : Nat} (h : neverPends e = true) : s.raise e = s := by
  unfold State.raise
  rw [h]
  rfl

theorem State.setCond_level {e : Nat} (b : Bool) (h : levelEvent e = true) :
    s.setCond e b = s.evUpdate (fun v => { v with cond := if b then insertNat e v.cond else eraseNat e v.cond }) := by
  unfold State.setCond
  rw [h]
  rfl

theorem State.setCond_edge {e : Nat} (b : Bool) (h : levelEvent e = false) : s.setCond e b = s := by
  unfold State.setCond
  rw [h]
  rfl

end Sys2Proof.Machine
end

section
/-! OPEN (R278, R286, R458): what it makes of a FREE context and of the event controller. -/

namespace Sys2Proof.Machine

variable {s : State} {rq : Requester} {j : JobIx}

/-- A context whose region table starts to load. -/
def Ctx.opening (c : Ctx) (b : ImageBody) : Ctx :=
  { c.cleared b with
    state := .opening, err := false, rowStat := 0, stormStat := 0, stormEnd := 0, admitStat := 0, doorbells := 0 }

theorem Ctx.opening_queue (c : Ctx) (b : ImageBody) (e : EngIx) : (c.opening b).queues[e] = c.queues[e].reset :=
  Vector.getElem_map ..

theorem Ctx.opening_sb (c : Ctx) (b : ImageBody) (k : Fin 64) : (c.opening b).sb[k] = 0 := Vector.getElem_replicate ..

/-- The events of a context leave the pending ones, every other stays (R458). -/
theorem Evc.mem_clearCtx (v : Evc) (j n : Nat) : n ∈ (v.clearCtx j).pend ↔
    n ∈ v.pend ∧ n ≠ j ∧ n ≠ 64 + j ∧ n ≠ 128 + j ∧ n ≠ 192 + j := by
  simp only [Evc.clearCtx, List.mem_filter, Bool.not_eq_true', Bool.or_eq_false_iff, beq_eq_false_iff_ne, and_assoc, ne_eq]

/-- The record of an operation of DSP_CTX_CMD, committed. -/
def State.ctxLogged (s : State) (rq : Requester) (op : Nat) (j : JobIx) : State :=
  { s with sec := s.sec.commit (s.auditRec rq .regWrite 0 ctxCmdAddr 0 (ctxCmdWord op j)) }

theorem exec_openCtx (h : s.Grants rq .operator) : exec (.openCtx rq j) s = .next ((s.ctxLogged rq 1 j).ctxOpen j) :=
  congrArg Host.Outcome.next (State.privileged_granted h)

theorem State.ctxOpen_not_free (h : (s.ctx j).state ≠ .free) : s.ctxOpen j = s.ctxErr j := by
  unfold State.ctxOpen
  rw [beq_false_of_ne h]
  rfl

section

variable (hfree : (s.ctx j).state = .free) (hready : s.ready = true)
include hfree hready

theorem State.ctxOpen_free : s.ctxOpen j =
    State.modCtx { s.evUpdate (fun v => v.clearCtx j.val) with
      cdies := (s.evUpdate (fun v => v.clearCtx j.val)).cdies.map (fun d => CDie.clearCounts d j) } j
      (fun c => c.opening (s.evUpdate (fun v => v.clearCtx j.val)).cfg.inForce) := by
  unfold State.ctxOpen
  rw [hfree, hready]
  rfl

/-- OPEN changes the context, its counts and its events, and may send messages. -/
theorem State.ctxOpen_reports : State.Reports ({ s with
    evc := s.evc.clearCtx j.val, cdies := s.cdies.map (fun d => CDie.clearCounts d j) }.modCtx j
      (fun c => c.opening s.cfg.inForce)) (s.ctxOpen j) := by
  have h : State.Reports { s with evc := s.evc.clearCtx j.val } (s.evUpdate (fun v => v.clearCtx j.val)) :=
    State.evUpdate_put_reports (fun v => v.clearCtx j.val)
  rw [State.ctxOpen_free hfree hready, h.cfg]
  have hdies : State.Reports { s with
        evc := s.evc.clearCtx j.val, cdies := s.cdies.map (fun d => CDie.clearCounts d j) }
      { s.evUpdate (fun v => v.clearCtx j.val) with
        cdies := (s.evUpdate (fun v => v.clearCtx j.val)).cdies.map (fun d => CDie.clearCounts d j) } :=
    { h with cdies := congrArg (Vector.map (fun d => CDie.clearCounts d j)) h.cdies }
  exact hdies.modCtx j _

theorem State.ctxOpen_ctx : (s.ctxOpen j).ctx j = (s.ctx j).opening s.cfg.inForce :=
  ((State.ctxOpen_reports hfree hready).ctx j).trans (State.ctx_modCtx _ _ _)

theorem State.ctxOpen_ctx_other {k : JobIx} (hk : k ≠ j) : (s.ctxOpen j).ctx k = s.ctx k :=
  ((State.ctxOpen_reports hfree hready).ctx k).trans (State.ctx_modCtx_other _ _ _ _ (Ne.symm hk))

theorem State.ctxOpen_queue (e : EngIx) : (s.ctxOpen j).queue j e = (s.queue j e).reset :=
  (congrArg (fun c : Ctx => c.queues[e]) (State.ctxOpen_ctx hfree hready)).trans (Ctx.opening_queue _ _ e)

theorem State.ctxOpen_evc : (s.ctxOpen j).evc = s.evc.clearCtx j.val := by
  rw [State.ctxOpen_free hfree hready, State.modCtx_evc]
  exact State.evUpdate_evc s (fun v => v.clearCtx j.val)

theorem State.ctxOpen_mem : (s.ctxOpen j).mem = s.mem := by
  rw [State.ctxOpen_free hfree hready, State.modCtx_mem]
  exact State.evUpdate_mem s (fun v => v.clearCtx j.val)

theorem State.ctxOpen_flt : (s.ctxOpen j).flt = s.flt := by
  rw [State.ctxOpen_free hfree hready, State.modCtx_flt]
  exact State.evUpdate_flt (fun v => v.clearCtx j.val)

end

end Sys2Proof.Machine

namespace Sys2Proof.Proofs

open Sys2Proof.Machine

/-- Settles O8: OPEN of a FREE context is one update of it, of its counts and of its events; in any other state it sets ERR. -/
theorem openStartsLoading : Obligations.OpenStartsLoading := by
  intro rq j s hgrants
  refine ⟨fun hfree hready => ⟨_, exec_openCtx hgrants, ?_⟩, fun hstate => ⟨_, exec_openCtx hgrants, ?_⟩⟩
  · have hfree' : ((s.ctxLogged rq 1 j).ctx j).state = .free := hfree
    have hready' : (s.ctxLogged rq 1 j).ready = true := hready
    have ht := State.ctxOpen_reports hfree' hready'
    rw [State.ctxOpen_ctx hfree' hready', State.ctxOpen_evc hfree' hready', State.ctxOpen_mem hfree' hready',
      State.ctxOpen_flt hfree' hready', ht.sec, ht.sdies, ht.pwr, ht.cfg, ht.req]
    refine ⟨rfl, rfl, rfl, rfl, Ctx.opening_sb _ _, fun e => ?_, rfl, rfl, rfl, rfl, Evc.mem_clearCtx _ _,
      fun k hk => State.ctxOpen_ctx_other hfree' hready' hk, rfl, rfl, rfl, rfl, rfl, rfl, rfl⟩
    rw [State.ctxOpen_queue hfree' hready']
    exact ⟨rfl, rfl, rfl⟩
  · rw [State.ctxOpen_not_free (s := s.ctxLogged rq 1 j) hstate]
    exact ⟨State.ctx_modCtx _ _ _, fun k hk => State.ctx_modCtx_other _ _ _ _ (Ne.symm hk), rfl, rfl⟩

end Sys2Proof.Proofs
end

section
/-! The event controller (R455 to R463, R467): sources, pending and mask bits, claims and completions. -/

namespace Sys2Proof.Machine

variable {s : State} {rq : Requester} {e : EventNo} {k : Fin 32} {v : Word} {t : Fin 3} {c : Fin 2}

/-! ### Eligible events (R459, R461) -/

/-- What is eligible is held, as a pending edge event or as the condition of a level event. -/
theorem Evc.eligible_held {x : Evc} {n : Nat} (h : x.eligible t c n = true) : n ∈ x.pend ++ x.cond := by
  have hpending : x.pending n = true := by
    simp only [Evc.eligible, Bool.and_eq_true] at h
    obtain ⟨⟨⟨⟨⟨⟨⟨⟨hpending, -⟩, -⟩, -⟩, -⟩, -⟩, -⟩, -⟩, -⟩ := h
    exact hpending
  unfold Evc.pending at hpending
  split at hpending
  · exact List.mem_append_right _ (List.contains_iff_mem.1 (Bool.and_eq_true_iff.1 hpending).1)
  · exact List.mem_append_left _ (List.contains_iff_mem.1 hpending)

theorem Evc.lowest_eq_some {x : Evc} {n : Nat} :
    x.lowest t c = some n ↔ x.eligible t c n = true ∧ ∀ m, x.eligible t c m = true → n ≤ m := by
  unfold Evc.lowest
  rw [List.min?_eq_some_iff]
  simp only [List.mem_filter]
  constructor
  · rintro ⟨⟨-, hn⟩, hle⟩
    exact ⟨hn, fun m hm => hle m ⟨Evc.eligible_held hm, hm⟩⟩
  · rintro ⟨hn, hle⟩
    exact ⟨⟨Evc.eligible_held hn, hn⟩, fun m hm => hle m hm.2⟩

/-! ### A command that changes the event controller -/

/-- A command turns the event controller into `x`, and reports no more than that from `s'`. -/
theorem exec_turns {i : Instr} {s' : State} {f : Evc → Evc} (h : exec i s = .next (s'.evUpdate f)) :
    ∃ u, exec i s = .next u ∧ u.evc = f s'.evc ∧ State.Reports { s' with evc := f s'.evc } u :=
  ⟨_, h, State.evUpdate_evc _ _, State.evUpdate_put_reports _⟩

theorem neverPends_of_source {n : Nat} (hres : reservedEvent n = false) (h : n < 960) : neverPends n = false := by
  simp only [neverPends, hres, Bool.false_or, decide_eq_false_iff_not]
  omega

theorem neverPends_of_reserved {n : Nat} (h : reservedEvent n = true) : neverPends n = true := by
  simp only [neverPends, h, Bool.true_or]

/-! ### Sources (R456) -/

theorem exec_eventSourceAssert : exec (.eventSourceAssert e) s = .next (
    if levelEvent e.val then s.setCond e.val true else if 960 ≤ e.val then s else s.raise e.val) := rfl

theorem exec_eventSourceAssert_edge (hedge : levelEvent e.val = false) (hres : reservedEvent e.val = false)
    (h : e.val < 960) :
    exec (.eventSourceAssert e) s = .next (s.evUpdate (fun x => { x with pend := insertNat e.val x.pend })) := by
  rw [exec_eventSourceAssert, hedge, if_neg Bool.false_ne_true, if_neg (Nat.not_le.2 h),
    State.raise_edge (neverPends_of_source hres h) hedge]

theorem exec_eventSourceAssert_level (h : levelEvent e.val = true) :
    exec (.eventSourceAssert e) s = .next (s.evUpdate (fun x => { x with cond := insertNat e.val x.cond })) := by
  rw [exec_eventSourceAssert, if_pos h, State.setCond_level true h]
  rfl

/-- Reserved numbers and software events have no source. -/
theorem exec_eventSourceAssert_none (hedge : levelEvent e.val = false)
    (h : reservedEvent e.val = true ∨ 960 ≤ e.val) : exec (.eventSourceAssert e) s = .next s := by
  rw [exec_eventSourceAssert, hedge, if_neg Bool.false_ne_true]
  split
  case isTrue => rfl
  case isFalse hsource => rw [State.raise_never (neverPends_of_reserved (h.resolve_right hsource))]

theorem exec_eventSourceWithdraw : exec (.eventSourceWithdraw e) s = .next (s.setCond e.val false) := rfl

theorem exec_eventSourceWithdraw_level (h : levelEvent e.val = true) :
    exec (.eventSourceWithdraw e) s = .next (s.evUpdate (fun x => { x with cond := eraseNat e.val x.cond })) := by
  rw [exec_eventSourceWithdraw, State.setCond_level false h]
  rfl

theorem exec_eventSourceWithdraw_edge (h : levelEvent e.val = false) : exec (.eventSourceWithdraw e) s = .next s := by
  rw [exec_eventSourceWithdraw, State.setCond_edge false h]

/-! ### Pending and mask bits (R457, R459) -/

theorem exec_evcPendSet (h : s.access rq .evcPending = .atOnce) :
    exec (.evcPendSet rq k v) s = .next (s.evUpdate (fun x => x.setPend (wordEvents k v))) :=
  congrArg Host.Outcome.next (State.privileged_atOnce h)

theorem exec_evcPendClr (h : s.access rq .evcPending = .atOnce) :
    exec (.evcPendClr rq k v) s = .next (s.evUpdate (fun x => x.clearPend (wordEvents k v))) :=
  congrArg Host.Outcome.next (State.privileged_atOnce h)

theorem exec_evcMaskSet {u : State} (h : s.Acts rq .evcMasks
      (s.auditRec rq .regWrite 0 (evcAddr (0x100 + 4 * k.val)) s.evc.mask[k].toNat v.toNat) u) :
    exec (.evcMaskSet rq k v) s = .next (u.evUpdate (fun x => x.setMask k v)) :=
  congrArg Host.Outcome.next (State.privileged_acts h)

theorem exec_evcMaskClr {u : State} (h : s.Acts rq .evcMasks
      (s.auditRec rq .regWrite 0 (evcAddr (0x180 + 4 * k.val)) s.evc.mask[k].toNat v.toNat) u) :
    exec (.evcMaskClr rq k v) s = .next (u.evUpdate (fun x => x.clearMask k v)) :=
  congrArg Host.Outcome.next (State.privileged_acts h)

/-- A committed record leaves the event controller. -/
theorem State.Acts.evc {u : State} {need : Right} {r : AuditRec} (h : s.Acts rq need r u) : u.evc = s.evc := by
  obtain ⟨-, rfl⟩ | ⟨-, rfl⟩ := h <;> rfl

/-! ### Claims and completions (R461 to R463) -/

/-- The event controller with an event in the service of a bank. -/
def Evc.claimed (x : Evc) (t : Fin 3) (c : Fin 2) (n : Nat) : Evc :=
  { x with pend := eraseNat n x.pend, insvc := upd x.insvc (bankIx t c) (fun _ => some n) }

theorem exec_evcClaim_some {n : Nat} (h : s.evc.lowest t c = some n) : exec (.evcClaim rq t c) s =
    .next ((s.evUpdate (fun x => x.claimed t c n)).answer (.word (BitVec.ofNat 32 n))) := by
  have hexec : exec (.evcClaim rq t c) s = .next (s.claim t c) := rfl
  rw [hexec]
  unfold State.claim
  rw [h]
  rfl

theorem exec_evcClaim_none (h : s.evc.lowest t c = none) : exec (.evcClaim rq t c) s = .next
    { s with evc := { s.evc with spurious := satAdd 0xFFFF s.evc.spurious 1 }, rsp := .word 1023 } := by
  have hexec : exec (.evcClaim rq t c) s = .next (s.claim t c) := rfl
  rw [hexec]
  unfold State.claim
  rw [h]
  rfl

theorem exec_evcComplete (h : s.access rq (.evcBank t.val) = .atOnce) :
    exec (.evcComplete rq t c v) s = .next (s.complete t c v) :=
  congrArg Host.Outcome.next (State.privileged_atOnce h)

theorem exec_evcComplete_served (h : s.access rq (.evcBank t.val) = .atOnce)
    (hserved : s.evc.insvc[bankIx t c] = some (v.field 9 0)) : exec (.evcComplete rq t c v) s =
      .next (s.evUpdate (fun x => { x with insvc := upd x.insvc (bankIx t c) (fun _ => none) })) := by
  rw [exec_evcComplete h]
  unfold State.complete
  rw [if_pos (beq_iff_eq.2 hserved)]

theorem exec_evcComplete_other (h : s.access rq (.evcBank t.val) = .atOnce)
    (hother : s.evc.insvc[bankIx t c] ≠ some (v.field 9 0)) : exec (.evcComplete rq t c v) s =
      .next { s with evc := { s.evc with badComplete := satAdd 0xFFFF s.evc.badComplete 1 } } := by
  rw [exec_evcComplete h]
  unfold State.complete
  rw [if_neg (mt beq_iff_eq.1 hother)]

/-! ### A write without the right (R519) -/

theorem State.evcWrite_refused {need : Right} (addr : Nat) (old : Word) (now : State → State)
    (h : s.access rq need = .refused) : s.Reports (s.evcWrite rq need addr old v now) := by
  unfold State.evcWrite
  rw [State.privileged_refused h]
  exact State.regAccess_reports _ _ _ _

end Sys2Proof.Machine

namespace Sys2Proof.Proofs

open Sys2Proof.Machine

/-- Settles O52: every command that acts is one update of the event controller, and what it sends is a report. -/
theorem eventsClaimAndComplete : Obligations.EventsClaimAndComplete := by
  intro rq e k v t c s
  refine ⟨fun hedge hres hlt => exec_turns (exec_eventSourceAssert_edge hedge hres hlt),
    fun hlevel => ⟨exec_turns (exec_eventSourceAssert_level hlevel), exec_turns (exec_eventSourceWithdraw_level hlevel)⟩,
    fun hedge => ⟨exec_eventSourceWithdraw_edge hedge, exec_eventSourceAssert_none hedge⟩,
    fun hright => ⟨exec_turns (exec_evcPendSet hright), exec_turns (exec_evcPendClr hright)⟩,
    fun u hacts => ?_, fun u hacts => ?_, fun n hlow => ?_, exec_evcClaim_none,
    fun hright => ⟨fun hserved => exec_turns (exec_evcComplete_served hright hserved), exec_evcComplete_other hright⟩,
    fun i need hi hrefused => ?_⟩
  · rw [← hacts.evc]
    exact exec_turns (exec_evcMaskSet hacts)
  · rw [← hacts.evc]
    exact exec_turns (exec_evcMaskClr hacts)
  · obtain ⟨hn, hle⟩ := Evc.lowest_eq_some.1 hlow
    have hevc := State.evUpdate_evc s (fun x => x.claimed t c n)
    refine ⟨hle, hn, _, exec_evcClaim_some hlow, hevc, ?_⟩
    rw [hevc]
    exact State.evUpdate_put_reports (fun x => x.claimed t c n)
  · simp only [List.mem_cons, Prod.mk.injEq, List.not_mem_nil, or_false] at hi
    obtain ⟨rfl, rfl⟩ | ⟨rfl, rfl⟩ | ⟨rfl, rfl⟩ | ⟨rfl, rfl⟩ | ⟨rfl, rfl⟩ := hi
    all_goals exact ⟨_, rfl, State.evcWrite_refused _ _ _ hrefused⟩

end Sys2Proof.Proofs
end

section
/-! The service cores (R464, R537, R538): a failure and its failover, the promotion of the standby core, the end of a
restart. -/

namespace Sys2Proof.Machine

variable {s : State} {k : Fin 2}

/-! ### The two cores -/

theorem otherCore_ne (k : Fin 2) : otherCore k ≠ k := by revert k; decide

theorem otherCore_otherCore (k : Fin 2) : otherCore (otherCore k) = k := by revert k; decide

theorem eq_otherCore {a b : Fin 2} (h : a ≠ b) : a = otherCore b := by revert a b; decide

/-- A search among the cores for what one of them alone has. -/
theorem find?_core {p : Fin 2 → Bool} (hk : p k = true) (hother : p (otherCore k) = false) :
    (List.finRange 2).find? p = some k := by
  cases hfind : (List.finRange 2).find? p with
  | none => exact absurd hk (List.find?_eq_none.1 hfind k (List.mem_finRange k))
  | some c =>
    have hc : p c = true := List.find?_some hfind
    by_cases h : c = k
    · rw [h]
    · rw [eq_otherCore h, hother] at hc
      contradiction

theorem State.core_modCore (s : State) (k : Fin 2) (f : Core → Core) : (s.modCore k f).core k = f (s.core k) :=
  upd_self _ _ _

theorem State.core_modCore_other (s : State) {a k : Fin 2} (f : Core → Core) (h : a ≠ k) :
    (s.modCore k f).core a = s.core a := upd_other _ _ _ _ (Ne.symm h)

theorem State.core_eq {t u : State} (h : t.cores = u.cores) (k : Fin 2) : t.core k = u.core k :=
  congrArg (fun v : Vector Core 2 => v[k]) h

/-! ### An activation ended (R538) -/

theorem State.abortActivation_frame : { s.abortActivation with cfg := s.cfg, cores := s.cores } = s := by
  unfold State.abortActivation
  split <;> rfl

theorem State.abortActivation_cfg : s.abortActivation.cfg = { s.cfg with activating := none } := by
  unfold State.abortActivation
  split
  case h_1 h => rw [← h]
  case h_2 => rfl

theorem State.abortActivation_tick : s.abortActivation.tick = s.tick := by
  unfold State.abortActivation
  split <;> rfl

/-- The core that was to run the new firmware is promoted no more. -/
theorem State.abortActivation_core (k : Fin 2) : s.abortActivation.core k = { s.core k with
    promoting := (s.core k).promoting && !s.cfg.activating.any (fun a => a.2 % 2 == (otherCore k).val) } := by
  unfold State.abortActivation
  split
  case h_1 h => rw [h, Option.any_none, Bool.not_false, Bool.and_true]
  case h_2 at' old h =>
    rw [h, Option.any_some]
    by_cases hk : k = otherCore (Fin.ofNat 2 old)
    · have hold : old % 2 = (otherCore k).val := by rw [hk, otherCore_otherCore]; rfl
      rw [hold, beq_self_eq_true, Bool.not_true, Bool.and_false, hk]
      exact State.core_modCore _ _ _
    · have hold : old % 2 ≠ (otherCore k).val := fun h =>
        hk (by rw [Fin.ext (a := Fin.ofNat 2 old) (b := otherCore k) h, otherCore_otherCore])
      rw [beq_false_of_ne hold, Bool.not_false, Bool.and_true]
      exact State.core_modCore_other _ _ hk

/-! ### A core fails (R464, R537) -/

/-- The cores as a failure leaves them, with any activation under way ended. -/
def State.coreDown (s : State) (k : Fin 2) : State :=
  let a := s.abortActivation
  (a.modCore k (fun c => { c with
    state := .failed
    failedAt := some a.tick
    promoting := false
    fenced := c.fenced || (a.core k).failedLately a.tick })).modCore (otherCore k) (fun c => { c with
      promoting := c.promoting || (a.core k).state == .active && (a.core (otherCore k)).state == .standby })

theorem State.coreDown_core : (s.coreDown k).core k = { s.core k with
    state := .failed
    failedAt := some s.tick
    promoting := false
    fenced := (s.core k).fenced || (s.core k).failedLately s.tick } := by
  unfold State.coreDown
  dsimp only
  rw [State.core_modCore_other _ _ (otherCore_ne k).symm, State.core_modCore, State.abortActivation_core,
    State.abortActivation_tick]
  rfl

theorem State.coreDown_other : (s.coreDown k).core (otherCore k) = { s.core (otherCore k) with
    promoting := ((s.core (otherCore k)).promoting && !s.cfg.activating.any (fun a => a.2 % 2 == k.val)) ||
      ((s.core k).state == .active && (s.core (otherCore k)).state == .standby) } := by
  unfold State.coreDown
  dsimp only
  rw [State.core_modCore, State.core_modCore_other _ _ (otherCore_ne k), State.abortActivation_core,
    State.abortActivation_core, otherCore_otherCore]

theorem State.coreDown_cfg : (s.coreDown k).cfg = { s.cfg with activating := none } := State.abortActivation_cfg

theorem State.coreDown_frame : { s.coreDown k with cfg := s.cfg, cores := s.cores } = s := State.abortActivation_frame

/-- A failover clears the route locks and moves what the failed core served. -/
theorem State.failover_reports (k : Fin 2) : State.Reports { s with
    req := s.req.map (fun (r : ReqState) => { r with routeLock := false })
    evc := s.evc.failover k (otherCore k) } (s.failover k) :=
  (State.evUpdate_put_reports (s := { s with req := s.req.map (fun (r : ReqState) => { r with routeLock := false }) })
    (fun v => v.failover k (otherCore k))).trans (State.raise_reports _ _)

theorem State.failover_pend (k : Fin 2) : 326 ∈ (s.failover k).evc.pend := State.raise_pend _ 326 (by decide) (by decide)

/-- A note changes nothing outside the audit log and what waits for it. -/
theorem State.note_eq (s : State) (rq : Requester) (a : AuditAct) (result target old new : Nat) :
    s.note rq a result target old new = { s with sec := (s.note rq a result target old new).sec } := by
  unfold State.note State.pend
  split
  · rfl
  · split <;> rfl

theorem State.Reports.put_sec {t : State} (h : s.Reports t) (c : Sec) :
    State.Reports { s with sec := c } { t with sec := c } := { h with sec := rfl }

theorem State.coreFail_failed (fence : Bool) (h : (s.core k).state = .failed) : s.coreFail k fence = s := by
  unfold State.coreFail
  rw [if_pos (beq_iff_eq.2 h)]

/-- The error record of a failure. -/
def coreRecord (k : Fin 2) : ErrRec :=
  { blankRec (coreUnit k) 0x4C 1 with syndrome := [BitVec.ofNat 8 k.val, BitVec.ofNat 8 (otherCore k).val] }

/-- A failure is a failover of the cores as it leaves them and an error record; the core's fence follows where it failed lately.
Whether the audit log takes a record too is left open. -/
theorem State.coreFail_eq (h : (s.core k).state ≠ .failed) : ∃ c, s.coreFail k false =
    if (s.core k).failedLately s.tick then
      State.fenceRec { ((s.coreDown k).failover k).record (coreRecord k) with sec := c } (coreUnit k) 5 0 0
    else { ((s.coreDown k).failover k).record (coreRecord k) with sec := c } := by
  have hlately : (s.abortActivation.core k).failedLately s.abortActivation.tick = (s.core k).failedLately s.tick := by
    rw [State.abortActivation_core, State.abortActivation_tick]
    rfl
  have hnoted (b : Bool) (t : State) (rq : Requester) (a : AuditAct) (m n : Nat) :
      ∃ c, (if b then t.note rq a m n 0 0 else t) = { t with sec := c } := by
    cases b with
    | false => exact ⟨t.sec, rfl⟩
    | true => exact ⟨_, State.note_eq t rq a m n 0 0⟩
  obtain ⟨c, hc⟩ := hnoted ((s.abortActivation.core k).state == .active)
    (((s.coreDown k).failover k).record (coreRecord k)) (if k = 0 then .coreA else .coreB) .failover
    (if (s.abortActivation.core k).state == .active && (s.abortActivation.core (otherCore k)).state == .standby then 0
      else 2) (coreUnit k).toNat
  refine ⟨c, ?_⟩
  rw [← hc, ← hlately]
  unfold State.coreFail
  rw [if_neg (mt beq_iff_eq.1 h)]
  simp only [Bool.not_false, Bool.and_true, Bool.false_or]
  rfl

/-- A failure moves the routes and clears their locks (R464); the rest is records. -/
theorem State.coreFail_reports (h : (s.core k).state ≠ .failed) :
    326 ∈ (s.coreFail k false).evc.pend ∧
    ∃ c, State.Reports { s.coreDown k with
      req := (s.coreDown k).req.map (fun (r : ReqState) => { r with routeLock := false })
      evc := (s.coreDown k).evc.failover k (otherCore k)
      sec := c } (s.coreFail k false) := by
  obtain ⟨c, hc⟩ := State.coreFail_eq h
  have hrec : State.Reports { (s.coreDown k).failover k with sec := c } (s.coreFail k false) := by
    have hrecord := (State.record_reports ((s.coreDown k).failover k) (coreRecord k)).put_sec c
    rw [hc]
    split
    case isTrue => exact hrecord.trans (State.fenceRec_reports _ _ _)
    case isFalse => exact hrecord
  exact ⟨hrec.pend 326 (State.failover_pend k), c, ((State.failover_reports k).put_sec c).trans hrec⟩

theorem State.coreFail_fenced (h : (s.core k).state ≠ .failed) (hlately : (s.core k).failedLately s.tick = true) :
    322 ∈ (s.coreFail k false).evc.pend := by
  obtain ⟨c, hc⟩ := State.coreFail_eq h
  rw [hc, if_pos hlately]
  exact State.fenceRec_pend _ _ _

theorem exec_serviceCoreFailure (ue : Bool) : exec (.serviceCoreFailure k ue) s = .next (s.coreFail k false) := rfl

/-! ### The standby core promoted (R537, R538) -/

/-- The cores as the promotion of core `k` leaves them. -/
def State.promoted (s : State) (k : Fin 2) : State :=
  (s.modCore k (fun c => { c with state := .active, promoting := false })).modCore (otherCore k) (fun c =>
    if c.state == .failed && !c.fenced then { c with state := .restarting } else c)

theorem State.promoted_core : (s.promoted k).core k = { s.core k with state := .active, promoting := false } := by
  unfold State.promoted
  rw [State.core_modCore_other _ _ (otherCore_ne k).symm, State.core_modCore]

theorem State.promoted_other : (s.promoted k).core (otherCore k) =
    if (s.core (otherCore k)).state = .failed ∧ (s.core (otherCore k)).fenced = false then
      { s.core (otherCore k) with state := .restarting } else s.core (otherCore k) := by
  unfold State.promoted
  rw [State.core_modCore, State.core_modCore_other _ _ (otherCore_ne k)]
  simp only [Bool.and_eq_true, beq_iff_eq, Bool.not_eq_true']

theorem exec_standbyPromoted : exec .standbyPromoted s = .next (
    match (List.finRange 2).find? (fun k => (s.core k).promoting && (s.core k).state == .standby) with
    | none => s
    | some k => (s.promoted k).activated) := rfl

/-- One core alone stands to be promoted. -/
theorem exec_standbyPromoted_core (hstandby : (s.core k).state = .standby) (hpromoting : (s.core k).promoting = true)
    (hother : (s.core (otherCore k)).promoting = false ∨ (s.core (otherCore k)).state ≠ .standby) :
    exec .standbyPromoted s = .next (s.promoted k).activated := by
  have hfind : (List.finRange 2).find? (fun k => (s.core k).promoting && (s.core k).state == .standby) = some k := by
    refine find?_core ?_ ?_
    · rw [hpromoting, hstandby]
      rfl
    · simpa only [Bool.and_eq_false_iff, beq_eq_false_iff_ne] using hother
  rw [exec_standbyPromoted, hfind]

theorem exec_standbyPromoted_none (h : ∀ c, (s.core c).promoting = false ∨ (s.core c).state ≠ .standby) :
    exec .standbyPromoted s = .next s := by
  have hfind : (List.finRange 2).find? (fun k => (s.core k).promoting && (s.core k).state == .standby) = none := by
    simp only [List.find?_eq_none, Bool.and_eq_true, beq_iff_eq, not_and]
    intro c _ hpromoting
    exact (h c).resolve_left (by rw [hpromoting]; decide)
  rw [exec_standbyPromoted, hfind]

/-! ### The new firmware in force (R538) -/

theorem State.activated_none (h : s.cfg.activating = none) : s.activated = s := by
  unfold State.activated
  rw [h]

/-- What the new firmware in force makes of the configuration. -/
def Cfg.activated (c : Cfg) : Cfg := { c with
  activating := none
  fwSlot := 1 - c.fwSlot
  fw := upd c.fw (Fin.ofNat 2 (1 - c.fwSlot)) (fun w => { w with bootMark := true }) }

/-- The hand-over from core `k`, which runs the old firmware, to the other: a failover that is not counted. -/
def State.handedOver (s : State) (k : Fin 2) : State :=
  State.evUpdate { s with
    cfg := s.cfg.activated
    req := s.req.map (fun (r : ReqState) => { r with routeLock := false }) }
    (fun v => { v.failover k (otherCore k) with failovers := v.failovers })

theorem State.handedOver_reports (s : State) (k : Fin 2) : State.Reports { s with
    cfg := s.cfg.activated
    req := s.req.map (fun (r : ReqState) => { r with routeLock := false })
    evc := { s.evc.failover k (otherCore k) with failovers := s.evc.failovers } } (s.handedOver k) :=
  State.evUpdate_put_reports (s := { s with
    cfg := s.cfg.activated
    req := s.req.map (fun (r : ReqState) => { r with routeLock := false }) })
    (fun v => { v.failover k (otherCore k) with failovers := v.failovers })

theorem State.handedOver_failovers (s : State) (k : Fin 2) : (s.handedOver k).evc.failovers = s.evc.failovers := by
  unfold State.handedOver
  rw [State.evUpdate_evc]

theorem State.handedOver_mem (s : State) (k : Fin 2) : (s.handedOver k).mem = s.mem := State.evUpdate_mem _ _

theorem State.activated_some {at' : Nat} (h : s.cfg.activating = some (at', k.val)) :
    s.activated = (s.handedOver k).modCore k (fun c => { c with state := .restarting }) := by
  unfold State.activated
  rw [h]
  simp only [Fin.ofNat_val_eq_self]
  rfl

theorem State.reqOf_unlocked {t : State} (h : t.req = s.req.map (fun (r : ReqState) => { r with routeLock := false }))
    (rq : Requester) : (t.reqOf rq).routeLock = false := by
  unfold State.reqOf
  rw [h, Fin.getElem_fin, Vector.getElem_map]

/-! ### The end of a restart (R537) -/

/-- A core whose restart has failed. -/
def Core.restartFailed (c : Core) (now : Nat) : Core :=
  { c with state := .failed, failedAt := some now, fenced := c.failedLately now }

/-- What the end of a restart makes of the cores, by the core's self-test. -/
def State.coreRestarted (s : State) (k : Fin 2) : Verdict → State
  | .pass => s.modCore k (fun c => { c with
      state := if (s.core (otherCore k)).state == .active || (s.core (otherCore k)).promoting then .standby else .active })
  | .fail =>
    if (s.core k).failedLately s.tick then (s.modCore k (fun c => c.restartFailed s.tick)).fenceRec (coreUnit k) 5 0 0
    else s.modCore k (fun c => c.restartFailed s.tick)

theorem exec_coreRestartDone (ok : Verdict) : exec (.coreRestartDone k ok) s = .next (
    if (s.core k).fenced || !((s.core k).state == .failed || (s.core k).state == .restarting) then s
    else s.coreRestarted k ok) := by
  cases ok <;> rfl

theorem exec_coreRestartDone_restarted (ok : Verdict) (hserves : (s.core k).fenced = false)
    (hstate : (s.core k).state = .restarting ∨ (s.core k).state = .failed) :
    exec (.coreRestartDone k ok) s = .next (s.coreRestarted k ok) := by
  rw [exec_coreRestartDone, hserves, if_neg]
  obtain h | h := hstate
  · rw [h]
    decide
  · rw [h]
    decide

theorem exec_coreRestartDone_stays (ok : Verdict)
    (h : (s.core k).fenced = true ∨ ((s.core k).state ≠ .restarting ∧ (s.core k).state ≠ .failed)) :
    exec (.coreRestartDone k ok) s = .next s := by
  rw [exec_coreRestartDone, if_pos]
  obtain h | ⟨hrestarting, hfailed⟩ := h
  · rw [h, Bool.true_or]
  · rw [beq_false_of_ne hfailed, beq_false_of_ne hrestarting]
    exact Bool.or_true _

theorem State.coreRestarted_fail_reports :
    State.Reports (s.modCore k (fun c => c.restartFailed s.tick)) (s.coreRestarted k .fail) := by
  rw [State.coreRestarted]
  split
  case isTrue => exact State.fenceRec_reports _ _ _
  case isFalse => exact .refl _

theorem State.coreRestarted_fail_fenced (h : (s.core k).failedLately s.tick = true) :
    322 ∈ (s.coreRestarted k .fail).evc.pend := by
  rw [State.coreRestarted, if_pos h]
  exact State.fenceRec_pend _ _ _

end Sys2Proof.Machine

namespace Sys2Proof.Proofs

open Sys2Proof.Machine

/-- Settles O53: a failure is a failover and its records, a promotion the cores' states and with an activation its hand-over,
the end of a restart one core's state. -/
theorem coresFailOver : Obligations.CoresFailOver := by
  intro k ue s
  refine ⟨fun hstate => ⟨_, exec_serviceCoreFailure ue, ?_⟩,
    fun hfailed => (exec_serviceCoreFailure ue).trans (congrArg _ (State.coreFail_failed false hfailed)),
    fun hstandby hpromoting hother => ⟨fun hact => ⟨_, exec_standbyPromoted_core hstandby hpromoting hother, ?_⟩,
      fun at' hact => ⟨_, exec_standbyPromoted_core hstandby hpromoting hother, ?_⟩⟩,
    exec_standbyPromoted_none,
    fun hserves hends => ⟨exec_coreRestartDone_restarted .pass hserves hends, _,
      exec_coreRestartDone_restarted .fail hserves hends, State.coreRestarted_fail_fenced,
      State.coreRestarted_fail_reports⟩,
    fun ok => exec_coreRestartDone_stays ok⟩
  · obtain ⟨hevent, c, ht⟩ := State.coreFail_reports hstate
    have hframe := State.coreDown_frame (s := s) (k := k)
    have hevc : (s.coreDown k).evc = s.evc := (congrArg State.evc hframe :)
    have hflt : (s.coreDown k).flt = s.flt := (congrArg State.flt hframe :)
    have hmem : (s.coreDown k).mem = s.mem := (congrArg State.mem hframe :)
    have hcore := State.core_eq (u := s.coreDown k) ht.cores
    refine ⟨(hcore k).trans State.coreDown_core, (hcore _).trans State.coreDown_other,
      ht.cfg.trans (State.coreDown_cfg (k := k)), hevent, ht.evc.trans (by rw [hevc]), State.coreFail_fenced hstate,
      State.reqOf_unlocked ht.req, ht.ctxs.trans (congrArg State.ctxs hframe :),
      ht.cdies.trans (congrArg State.cdies hframe :), ht.sdies.trans (congrArg State.sdies hframe :),
      fun hring => (ht.mem ?_).trans hmem⟩
    rw [hflt, hring]
  · rw [State.activated_none (s := s.promoted k) hact]
    exact ⟨State.promoted_core, State.promoted_other, rfl⟩
  · rw [State.activated_some (s := s.promoted k) hact]
    have ht := State.handedOver_reports (s.promoted k) (otherCore k)
    refine ⟨?_, congrArg Core.state (State.core_modCore _ _ _), ht.cfg, State.reqOf_unlocked ht.req,
      State.handedOver_failovers _ _, ht.ctxs, State.handedOver_mem _ _, ht.pwr⟩
    rw [State.core_modCore_other _ _ (otherCore_ne k).symm]
    exact (State.core_eq (u := s.promoted k) ht.cores k).trans State.promoted_core

end Sys2Proof.Proofs
end
